-- ==== Sys2Proof/Word.lean ====
section
/-!
DEFINITION. The words of the machine and the finite maps its state is made of (00 R6, 05 R161, R174, 07 R229).
-/
namespace Sys2Proof

/-- A 32-bit register or register lane (05 R174). -/
abbrev Word := BitVec 32
/-- A 64-bit value, such as a virtual address (01 R12). -/
abbrev Dword := BitVec 64
/-- One byte of memory. -/
abbrev Byte := BitVec 8
/-- A set of the 96 lanes of a warp: bit L is lane L (05 R161). -/
abbrev Mask := BitVec 96
/-- The 96 lanes of one vector register (05 R174). -/
abbrev Lanes := Vector Word 96
/-- A 54-bit slot address (07 R229). -/
abbrev SlotAddr := BitVec 54
/-- A finite map with natural keys, kept in strictly rising key order. -/
abbrev FMap (α : Type) := List (Nat × α)

end Sys2Proof
end

