-- ==== Sys2Proof/Syntax.lean ====
section
/-!
DEFINITION. The instructions and events of the opcode table, one constructor a row. An encoded instruction carries
the fields of its format (07 R235 to R240); an event carries what its occurrence names.
-/
namespace Sys2Proof

/-- An 8-bit register specifier, by what it names (07 R242). -/
inductive Operand where
  | v (n : BitVec 6)
  | s (n : BitVec 6)
  | k (n : BitVec 4)
  | g (n : BitVec 4)
  | f (n : BitVec 3)
  | reserved (code : BitVec 8)
  | none
  | imm
  deriving DecidableEq, Repr

/-- The type codes (07 R245); the last five are reserved. -/
inductive Ty where
  | i32 | n32 | i16 | n16 | i8 | n8 | i64 | n64 | f32 | f16 | bf16 | rB | rC | rD | rE | rF
  deriving DecidableEq, Repr

/-- The guard fields (07 R235, R236). -/
structure Guard where
  k : BitVec 4
  n : Bool
  e : Bool
  deriving DecidableEq, Repr

/-- The MOD field of Formats R and I, bits 47 to 40 (07 R238). -/
structure Mod where
  absb : Bool
  absa : Bool
  negc : Bool
  negb : Bool
  nega : Bool
  sat : Bool
  rnd : BitVec 2
  deriving DecidableEq, Repr

/-- The fields of Format R above the opcode (07 R238). -/
structure RForm where
  lr : BitVec 3
  guard : Guard
  a : Operand
  d : Operand
  ty : Ty
  mod : Mod
  b : Operand
  c : Operand
  ext : BitVec 24
  deriving DecidableEq, Repr

/-- The fields of Format I (07 R238). -/
structure IForm where
  lr : BitVec 3
  guard : Guard
  a : Operand
  d : Operand
  ty : Ty
  mod : Mod
  b : Operand
  imm : BitVec 32
  ext8 : BitVec 8
  deriving DecidableEq, Repr

/-- The fields of Format M (07 R239). -/
structure MForm where
  lr : BitVec 3
  guard : Guard
  a : Operand
  d : Operand
  space : BitVec 3
  width : BitVec 3
  ord : BitVec 2
  scope : BitVec 3
  sx : Bool
  b : Operand
  c : Operand
  ncls : BitVec 2
  use : BitVec 3
  scale : BitVec 2
  aop : BitVec 4
  off : BitVec 20
  deriving DecidableEq, Repr

/-- The fields of Format B (07 R240). -/
structure BForm where
  lr : BitVec 3
  guard : Guard
  a : Operand
  d : Operand
  cond : BitVec 4
  hint : BitVec 8
  tgt : BitVec 24
  rcv : BitVec 24
  deriving DecidableEq, Repr

/-- The fields of Format X (07 R240). -/
structure XForm where
  lr : BitVec 3
  guard : Guard
  a : Operand
  d : Operand
  tile : BitVec 7
  xfl : BitVec 5
  b : Operand
  c : Operand
  ext : BitVec 32
  deriving DecidableEq, Repr

/-- A packet of the fabric: the header fields and the payload bytes (03 R115). -/
structure Packet where
  opc : BitVec 8
  plen : BitVec 4
  ctx : BitVec 12
  part : BitVec 4
  src : BitVec 12
  dst : BitVec 12
  tag : BitVec 12
  addr : BitVec 52
  dpkg : BitVec 13
  scope : BitVec 3
  ord : BitVec 2
  use : BitVec 3
  aop : BitVec 4
  width : BitVec 3
  status : BitVec 3
  mask : BitVec 64
  data : List (BitVec 8)
  deriving DecidableEq, Repr

/-- Whose copy or stitch engine asks (03 R115): that of a core, or another package's, whose request arrives in a packet. -/
inductive EngineOf where
  | core (c : Nat)
  | packet (p : Packet)
  deriving DecidableEq, Repr

/-- What another package answers to a remote operation (12 R377, R381, R382). -/
structure RemoteReply where
  status : BitVec 3
  /-- the number of the operation's first word that was not transferred, or that faulted there (12 R378) -/
  word : Nat
  data : List (BitVec 8)
  deriving DecidableEq, Repr

/-- What the power controller sets for one cluster at its period (15 R450). -/
structure ControllerTarget where
  cluster : Nat
  step : BitVec 2
  freq : BitVec 12
  grant : BitVec 24
  /-- the temperature that the observer predicts for the cluster (15 R452, R453) -/
  predicted : BitVec 16
  deriving DecidableEq, Repr

/-- One temperature reading of the maximum tree (15 R452). -/
structure Reading where
  unit : BitVec 12
  temp : BitVec 16
  deriving DecidableEq, Repr

/-- The assigned opcodes (07 R246). -/
inductive Op where
  | sadd | ssub | smul | smulh | smad | sdiv | srem | smin | smax | sand | sor | sxor | sshl | sshr | ssra
  | sbfx | sbfi | sclz | spop | scmp | ssel | smov | sli | slea | vadd | vsub | vmul | vmulh | vmad | vabs
  | vneg | vmin | vmax | vand | vor | vxor | vnot | vshl | vshr | vsra | vrot | vbfx | vbfi | vclz | vpop
  | vbrev | vcmp | vsel | vmov | vli | vdot4 | vlea | vlane | fadd | fsub | fmul | ffma | fmin | fmax
  | fcmp | fclass | frcp | frsq | fsqrt | fexp2 | flog2 | fsin | fcos | ftanh | frnd | fcvt | fscale
  | fxpk | fxup | fdiv | ld | st | lds | sts | atom | ldlk | stul | fence | pfm | cvta | falloc | fopen
  | ffree | fbind | fdone | frwait | fdrop | fquery | nop | bra | brs | jmp | call | ret | exit | bar
  | barr | barw | wcnt | sleep | yield | pfi | trap | brk | brx | shfl | vote | bal | redux | scan | bcast
  | perm | kand | kor | kxor | knot | kmov | kpop | kfst | kfrom | kto | mmac | mclr | mld | mst | mxv
  | mvx | qmk | qinv | cpy | cpyg | grinit | grget | grput | grrel | stch | lnch | cncl | pwrh | rds
  | wrs | tret | cinv | cflush | tlbinv | ctxsv | ctxld | capset | blst | halt
  deriving DecidableEq, Repr

/-- The rows of the opcode table. -/
inductive Instr where
  /-- SADD (R269). -/
  | sadd (f : RForm)
  /-- SSUB (R269). -/
  | ssub (f : RForm)
  /-- SMUL (R269). -/
  | smul (f : RForm)
  /-- SMULH (R269). -/
  | smulh (f : RForm)
  /-- SMAD (R269). -/
  | smad (f : RForm)
  /-- SDIV (R270). -/
  | sdiv (f : RForm)
  /-- SREM (R270). -/
  | srem (f : RForm)
  /-- SMIN (R271). -/
  | smin (f : RForm)
  /-- SMAX (R271). -/
  | smax (f : RForm)
  /-- SAND (R271). -/
  | sand (f : RForm)
  /-- SOR (R271). -/
  | sor (f : RForm)
  /-- SXOR (R271). -/
  | sxor (f : RForm)
  /-- SSHL (R271). -/
  | sshl (f : RForm)
  /-- SSHR (R271). -/
  | sshr (f : RForm)
  /-- SSRA (R271). -/
  | ssra (f : RForm)
  /-- SBFX (R272). -/
  | sbfx (f : RForm)
  /-- SBFI (R272). -/
  | sbfi (f : RForm)
  /-- SCLZ (R272). -/
  | sclz (f : RForm)
  /-- SPOP (R272). -/
  | spop (f : RForm)
  /-- SCMP (R273). -/
  | scmp (f : RForm)
  /-- SSEL (R273). -/
  | ssel (f : RForm)
  /-- SMOV (R274). -/
  | smov (f : RForm)
  /-- SLI (R274). -/
  | sli (f : IForm)
  /-- SLEA (R274). -/
  | slea (f : RForm)
  /-- VADD (R275). -/
  | vadd (f : RForm)
  /-- VSUB (R275). -/
  | vsub (f : RForm)
  /-- VMUL (R275). -/
  | vmul (f : RForm)
  /-- VMULH (R275). -/
  | vmulh (f : RForm)
  /-- VMAD (R275). -/
  | vmad (f : RForm)
  /-- VABS (R275). -/
  | vabs (f : RForm)
  /-- VNEG (R275). -/
  | vneg (f : RForm)
  /-- VMIN (R275). -/
  | vmin (f : RForm)
  /-- VMAX (R275). -/
  | vmax (f : RForm)
  /-- VAND (R275). -/
  | vand (f : RForm)
  /-- VOR (R275). -/
  | vor (f : RForm)
  /-- VXOR (R275). -/
  | vxor (f : RForm)
  /-- VNOT (R275). -/
  | vnot (f : RForm)
  /-- VSHL (R275). -/
  | vshl (f : RForm)
  /-- VSHR (R275). -/
  | vshr (f : RForm)
  /-- VSRA (R275). -/
  | vsra (f : RForm)
  /-- VROT (R275). -/
  | vrot (f : RForm)
  /-- VBFX (R275). -/
  | vbfx (f : RForm)
  /-- VBFI (R275). -/
  | vbfi (f : RForm)
  /-- VCLZ (R275). -/
  | vclz (f : RForm)
  /-- VPOP (R275). -/
  | vpop (f : RForm)
  /-- VBREV (R275). -/
  | vbrev (f : RForm)
  /-- VCMP (R276). -/
  | vcmp (f : RForm)
  /-- VSEL (R277). -/
  | vsel (f : RForm)
  /-- VMOV (R278). -/
  | vmov (f : RForm)
  /-- VLI (R278). -/
  | vli (f : IForm)
  /-- VDOT4 (R279). -/
  | vdot4 (f : RForm)
  /-- VLEA (R280). -/
  | vlea (f : RForm)
  /-- VLANE (R278). -/
  | vlane (f : RForm)
  /-- FADD (R295). -/
  | fadd (f : RForm)
  /-- FSUB (R295). -/
  | fsub (f : RForm)
  /-- FMUL (R295). -/
  | fmul (f : RForm)
  /-- FFMA (R295). -/
  | ffma (f : RForm)
  /-- FMIN (R296). -/
  | fmin (f : RForm)
  /-- FMAX (R296). -/
  | fmax (f : RForm)
  /-- FCMP (R297). -/
  | fcmp (f : RForm)
  /-- FCLASS (R298). -/
  | fclass (f : RForm)
  /-- FRCP (R299). -/
  | frcp (f : RForm)
  /-- FRSQ (R299). -/
  | frsq (f : RForm)
  /-- FSQRT (R295). -/
  | fsqrt (f : RForm)
  /-- FEXP2 (R299). -/
  | fexp2 (f : RForm)
  /-- FLOG2 (R299). -/
  | flog2 (f : RForm)
  /-- FSIN (R299). -/
  | fsin (f : RForm)
  /-- FCOS (R299). -/
  | fcos (f : RForm)
  /-- FTANH (R299). -/
  | ftanh (f : RForm)
  /-- FRND (R301). -/
  | frnd (f : RForm)
  /-- FCVT (R302). -/
  | fcvt (f : RForm)
  /-- FSCALE (R295). -/
  | fscale (f : RForm)
  /-- FXPK (R303). -/
  | fxpk (f : RForm)
  /-- FXUP (R304). -/
  | fxup (f : RForm)
  /-- FDIV (R295). -/
  | fdiv (f : RForm)
  /-- LD (R310). -/
  | ld (f : MForm)
  /-- ST (R310). -/
  | st (f : MForm)
  /-- LDS (R310). -/
  | lds (f : MForm)
  /-- STS (R310). -/
  | sts (f : MForm)
  /-- ATOM (R313). -/
  | atom (f : MForm)
  /-- LDLK (R317). -/
  | ldlk (f : MForm)
  /-- STUL (R318). -/
  | stul (f : MForm)
  /-- FENCE_ACQ (R320). -/
  | fenceAcq (f : RForm)
  /-- FENCE_REL (R320). -/
  | fenceRel (f : RForm)
  /-- FENCE_SC (R320). -/
  | fenceSc (f : RForm)
  /-- PFM (R321). -/
  | pfm (f : MForm)
  /-- CVTA (R322). -/
  | cvta (f : RForm)
  /-- FALLOC (R324). -/
  | falloc (f : IForm)
  /-- FALLOC_C (R67). -/
  | fallocC (f : IForm)
  /-- FOPEN (R325). -/
  | fopen (f : RForm)
  /-- FFREE (R326). -/
  | ffree (f : RForm)
  /-- FBIND (R327). -/
  | fbind (f : RForm)
  /-- FBIND_B (R327). -/
  | fbindB (f : RForm)
  /-- FDONE (R327). -/
  | fdone (f : RForm)
  /-- FRWAIT_ST (R73). -/
  | frwaitSt (f : RForm)
  /-- FRWAIT_W (R328). -/
  | frwaitW (f : RForm)
  /-- FRWAIT_CAP (R73). -/
  | frwaitCap (f : RForm)
  /-- FDROP (R326). -/
  | fdrop (f : RForm)
  /-- FQUERY (R329). -/
  | fquery (f : RForm)
  /-- NOP (R228). -/
  | nop (f : RForm)
  /-- BRA (R333). -/
  | bra (f : BForm)
  /-- BRS (R334). -/
  | brs (f : BForm)
  /-- JMP (R335). -/
  | jmp (f : RForm)
  /-- CALL (R335). -/
  | call (f : BForm)
  /-- RET (R335). -/
  | ret (f : RForm)
  /-- EXIT (R337). -/
  | exit (f : RForm)
  /-- BAR (R341). -/
  | bar (f : RForm)
  /-- BARR (R341). -/
  | barr (f : RForm)
  /-- BARW (R341). -/
  | barw (f : RForm)
  /-- WCNT (R342). -/
  | wcnt (f : RForm)
  /-- SLEEP (R343). -/
  | sleep (f : RForm)
  /-- YIELD (R343). -/
  | yield (f : RForm)
  /-- PFI (R343). -/
  | pfi (f : BForm)
  /-- TRAP (R344). -/
  | trap (f : RForm)
  /-- BRK (R346). -/
  | brk (f : RForm)
  /-- BRX (R336). -/
  | brx (f : RForm)
  /-- SHFL (R347). -/
  | shfl (f : RForm)
  /-- VOTE (R348). -/
  | vote (f : RForm)
  /-- BAL (R349). -/
  | bal (f : RForm)
  /-- REDUX (R350). -/
  | redux (f : RForm)
  /-- SCAN (R350). -/
  | scan (f : RForm)
  /-- BCAST (R351). -/
  | bcast (f : RForm)
  /-- PERM (R351). -/
  | perm (f : RForm)
  /-- KAND (R352). -/
  | kand (f : RForm)
  /-- KOR (R352). -/
  | kor (f : RForm)
  /-- KXOR (R352). -/
  | kxor (f : RForm)
  /-- KNOT (R352). -/
  | knot (f : RForm)
  /-- KMOV (R352). -/
  | kmov (f : RForm)
  /-- KPOP (R352). -/
  | kpop (f : RForm)
  /-- KFST (R352). -/
  | kfst (f : RForm)
  /-- KFROM (R352). -/
  | kfrom (f : RForm)
  /-- KTO (R352). -/
  | kto (f : RForm)
  /-- MMAC (R364). -/
  | mmac (f : XForm)
  /-- MCLR (R373). -/
  | mclr (f : XForm)
  /-- MLD (R375). -/
  | mld (f : XForm)
  /-- MST (R375). -/
  | mst (f : XForm)
  /-- MXV (R376). -/
  | mxv (f : XForm)
  /-- MVX (R376). -/
  | mvx (f : XForm)
  /-- QMK (R361). -/
  | qmk (f : XForm)
  /-- QMK_M (R361). -/
  | qmkM (f : XForm)
  /-- QINV (R362). -/
  | qinv (f : XForm)
  /-- CPY (R380). -/
  | cpy (f : XForm)
  /-- CPY_RA (R382). -/
  | cpyRa (f : XForm)
  /-- CPYG (R383). -/
  | cpyg (f : XForm)
  /-- GRINIT (R384). -/
  | grinit (f : XForm)
  /-- GRINIT_RE (R384). -/
  | grinitRe (f : XForm)
  /-- GRGET (R385). -/
  | grget (f : XForm)
  /-- GRPUT_RES (R386). -/
  | grputRes (f : XForm)
  /-- GRPUT (R386). -/
  | grput (f : XForm)
  /-- GRREL (R387). -/
  | grrel (f : XForm)
  /-- STCH (R388). -/
  | stch (f : XForm)
  /-- LNCH (R391). -/
  | lnch (f : XForm)
  /-- CNCL_LAUNCH (R392). -/
  | cnclLaunch (f : XForm)
  /-- CNCL_GRAPH (R392). -/
  | cnclGraph (f : XForm)
  /-- CNCL_JOB (R392). -/
  | cnclJob (f : XForm)
  /-- PWRH (R372). -/
  | pwrh (f : XForm)
  /-- RDS (R395). -/
  | rds (f : RForm)
  /-- WRS (R395). -/
  | wrs (f : RForm)
  /-- TRET (R399). -/
  | tret (f : RForm)
  /-- CINV (R401). -/
  | cinv (f : MForm)
  /-- CFLUSH (R401). -/
  | cflush (f : MForm)
  /-- TLBINV_ADDR (R402). -/
  | tlbinvAddr (f : RForm)
  /-- TLBINV_CTX (R402). -/
  | tlbinvCtx (f : RForm)
  /-- TLBINV_RNG (R402). -/
  | tlbinvRng (f : RForm)
  /-- CTXSV (R403). -/
  | ctxsv (f : RForm)
  /-- CTXLD (R403). -/
  | ctxld (f : RForm)
  /-- CAPSET (R404). -/
  | capset (f : RForm)
  /-- BLST (R405). -/
  | blst (f : RForm)
  /-- HALT (R406). -/
  | halt (f : RForm)
  /-- KERNEL_PACKET (R413). -/
  | kernelPacket (part queue : Nat)
  /-- COPY_PACKET (R414). -/
  | copyPacket (part queue : Nat)
  /-- GRAPH_PACKET (R424). -/
  | graphPacket (part queue : Nat)
  /-- DEFINE_PACKET (R423). -/
  | definePacket (part queue : Nat)
  /-- JOBEND_PACKET (R422). -/
  | jobendPacket (part queue : Nat)
  /-- WORKGROUP_DISPATCH (R428). -/
  | workgroupDispatch (part launch die : Nat)
  /-- LAUNCH_COMPLETION (R420). -/
  | launchCompletion (part launch : Nat)
  /-- JOB_COMPLETION (R422). -/
  | jobCompletion (part job : Nat)
  /-- NODE_KERNEL_START (R425). -/
  | nodeKernelStart (part run node : Nat)
  /-- NODE_COND (R425). -/
  | nodeCond (part run node : Nat)
  /-- NODE_WHILE (R426). -/
  | nodeWhile (part run node : Nat)
  /-- WHILE_PASS_END (R426). -/
  | whilePassEnd (part run node : Nat)
  /-- NODE_JOIN (R425). -/
  | nodeJoin (part run node : Nat)
  /-- NODE_SIGNAL (R425). -/
  | nodeSignal (part run node : Nat)
  /-- RD_READ_REQUEST (R115). -/
  | rdReadRequest (p : Packet)
  /-- WR_WRITE (R115). -/
  | wrWrite (p : Packet)
  /-- AT_ATOMIC (R115). -/
  | atAtomic (p : Packet)
  /-- FEN_FENCE_PROBE (R149). -/
  | fenFenceProbe (p : Packet)
  /-- BAR_BARRIER_MESSAGE (R115). -/
  | barBarrierMessage (p : Packet)
  /-- FLT_FAULT_REPORT (R115). -/
  | fltFaultReport (p : Packet)
  /-- INT_INTERRUPT (R478). -/
  | intInterrupt (p : Packet)
  /-- RDX_READ_DATA (R115). -/
  | rdxReadData (p : Packet)
  /-- ACK_ACKNOWLEDGEMENT (R149). -/
  | ackAcknowledgement (p : Packet)
  /-- ATR_ATOMIC_RESULT (R115). -/
  | atrAtomicResult (p : Packet)
  /-- CER_ENGINE_READ (R115): of a word of an operation; a packet brings its own address, and neither number counts. -/
  | cerEngineRead (core : EngineOf) (op word : Nat)
  /-- CEW_ENGINE_WRITE (R496), likewise. -/
  | cewEngineWrite (core : EngineOf) (op word : Nat)
  /-- CTL_CONTEXT_TRANSFER (R115). -/
  | ctlContextTransfer (p : Packet)
  /-- ABORT_FLIT (R121). -/
  | abortFlit (p : Packet)
  /-- FLIT_CRC_FAILURE (R122). -/
  | flitCrcFailure (link : Nat)
  /-- LINK_FAILURE (R122). -/
  | linkFailure (link : Nat)
  /-- LINK_RETRAIN_COMPLETE (R493). -/
  | linkRetrainComplete (link : Nat) (ok : Bool)
  /-- HEADER_PARITY_ERROR (R124). -/
  | headerParityError (die : Nat) (inH0 : Bool) (p : Packet)
  /-- PAYLOAD_ERROR (R123). -/
  | payloadError (p : Packet)
  /-- WALK_COMPLETE (R52). -/
  | walkComplete (die walk : Nat)
  /-- FAULT_RECORD_WRITE (R41). -/
  | faultRecordWrite (queue : Nat)
  /-- COPY_COMPLETION (R377). -/
  | copyCompletion (core op : Nat)
  /-- STITCH_COMPLETION (R390). -/
  | stitchCompletion (core op : Nat)
  /-- REMOTE_COMPLETION (R377). -/
  | remoteCompletion (core op : Nat) (reply : RemoteReply)
  /-- GATHERING_RESERVE (R107). -/
  | gatheringReserve (core record : Nat)
  /-- MMAC_COMPLETE (R365). -/
  | mmacComplete (core : Nat)
  /-- SPECULATION_RESOLUTION (R212). -/
  | speculationResolution (core warp record : Nat)
  /-- QUANTUM_TIMEOUT (R147). -/
  | quantumTimeout (core warp : Nat)
  /-- LOCK_RETRY (R102). -/
  | lockRetry (core warp fragment : Nat)
  /-- LOCK_TIMEOUT (R104). -/
  | lockTimeout (core bank index : Nat)
  /-- WATCHDOG (R436). -/
  | watchdog (part launch : Nat)
  /-- SPLITFULL_DETECTION (R201). -/
  | splitfullDetection (core warp : Nat)
  /-- ISSUE_AGE_EXPIRY (R199). -/
  | issueAgeExpiry (core slot : Nat)
  /-- WAIT_TIMEOUT (R73). -/
  | waitTimeout (core warp fragment : Nat)
  /-- SLEEP_EXPIRY (R343). -/
  | sleepExpiry (core warp fragment : Nat)
  /-- TIME_SLICE_END (R435). -/
  | timeSliceEnd (part ctx : Nat)
  /-- FORCED_SAVE_TIMEOUT (R48). -/
  | forcedSaveTimeout (core wg : Nat)
  /-- WORKGROUP_SAVE (R408). -/
  | workgroupSave (core wg : Nat)
  /-- WORKGROUP_RESTORE (R410). -/
  | workgroupRestore (index core : Nat)
  /-- MOVE_START (R442). -/
  | moveStart (cluster : Nat)
  /-- BANK_CLOSE_POINT (R76). -/
  | bankClosePoint (core : Nat)
  /-- BANKS_DARK (R79). -/
  | banksDark (cluster : Nat)
  /-- RELOCK_COMPLETE (R442). -/
  | relockComplete (cluster : Nat)
  /-- VOLTAGE_MOVE_COMPLETE (R442). -/
  | voltageMoveComplete (cluster : Nat)
  /-- POWER_CONTROLLER_PERIOD (R450). -/
  | powerControllerPeriod (watts : BitVec 12) (targets : List ControllerTarget)
  /-- TEMPERATURE_TREE_READING (R452). -/
  | temperatureTreeReading (readings : List Reading)
  /-- EMERGENCY_DARKENING (R453). -/
  | emergencyDarkening (cluster : Nat)
  /-- SEWN_EMERGENCY (R85). -/
  | sewnEmergency (cluster : Nat)
  /-- EMERGENCY_HOLD_RELEASE (R454). -/
  | emergencyHoldRelease (cluster : Nat)
  /-- BYTE_BUDGET_INTERVAL (R455). -/
  | byteBudgetInterval (cluster : Nat)
  /-- GOVERNOR_WINDOW (R369). -/
  | governorWindow (core : Nat)
  /-- SUBARRAY_GATE (R370). -/
  | subarrayGate (core sub : Nat)
  /-- WAKE_SLOT_OPEN (R458). -/
  | wakeSlotOpen (core : Nat)
  /-- BALLAST_LIMIT_EXPIRY (R456). -/
  | ballastLimitExpiry
  /-- TELEMETRY_RECORD (R460). -/
  | telemetryRecord (die : Nat) (milliwatts microjoules : Nat) (predicted : BitVec 16)
  /-- ILLEGAL_OPCODE (R247). -/
  | illegalOpcode (opcode : BitVec 10)
  /-- SUBARRAY_AWAKE (R458). -/
  | subarrayAwake (core : Nat)
  /-- CAPSET_RELIGHT_COMPLETE (R79). -/
  | capsetRelightComplete (cluster : Nat)
  /-- PACKAGE_RESET (R484). -/
  | packageReset
  /-- PARTITION_RESET (R490). -/
  | partitionReset (part : Nat)
  /-- FUNCTION_LEVEL_RESET (R481). -/
  | functionLevelReset (part : Nat)
  /-- CTXCMD_CREATE (R465). -/
  | ctxcmdCreate (part : Nat)
  /-- CTXCMD_DESTROY (R465). -/
  | ctxcmdDestroy (part : Nat)
  /-- CTXCMD_RESUME (R465). -/
  | ctxcmdResume (part : Nat)
  /-- TLBCMD_ADDR (R477). -/
  | tlbcmdAddr (part ctx : Nat)
  /-- TLBCMD_CTX (R477). -/
  | tlbcmdCtx (part ctx : Nat)
  /-- TLBCMD_RNG (R477). -/
  | tlbcmdRng (part ctx : Nat)
  /-- S2CMD_PAGE (R477). -/
  | s2cmdPage (part : Nat)
  /-- S2CMD_PARTITION (R477). -/
  | s2cmdPartition (part : Nat)
  /-- S2CMD_RANGE (R477). -/
  | s2cmdRange (part : Nat)
  /-- FQREPLY_RETRY (R40). -/
  | fqreplyRetry (queue : Nat) (fid : BitVec 16)
  /-- FQREPLY_FATAL (R40). -/
  | fqreplyFatal (queue : Nat) (fid : BitVec 16)
  /-- FQCONS_WRITE (R44). -/
  | fqconsWrite (queue : Nat) (value : BitVec 17)
  /-- PRECMD (R475). -/
  | precmd (part : Nat) (value : BitVec 32)
  /-- PLREL (R474). -/
  | plrel (part : Nat) (value : BitVec 64)
  /-- PMOVE (R467). -/
  | pmove (value : BitVec 32)
  /-- PMAP_WRITE (R464). -/
  | pmapWrite (part n : Nat) (value : BitVec 8)
  /-- PCFG_WRITE (R466). -/
  | pcfgWrite (part : Nat) (value : BitVec 32)
  /-- VFMBOX_WRITE (R440). -/
  | vfmboxWrite (cluster : Nat) (value : BitVec 32)
  /-- FWLOAD (R485). -/
  | fwload
  /-- ATTGO (R486). -/
  | attgo
  /-- FSTATE_WRITE (R480). -/
  | fstateWrite (fn : Nat) (value : BitVec 32)
  /-- FEATACK_WRITE (R482). -/
  | featackWrite (part : Nat) (value : BitVec 64)
  /-- AQI_SUBMISSION (R473). -/
  | aqiSubmission (part aqi : Nat) (pasid : Option (BitVec 20)) (whole : Bool) (packet : List (BitVec 64))
  /-- REGISTER_WRITE (R7). -/
  | registerWrite (fn offset : Nat) (wide : Bool) (value : BitVec 64)
  /-- RS_REGISTER_READ (R7). -/
  | rsRegisterRead (fn offset : Nat)
  /-- HOST_BAR_ACCESS (R469). -/
  | hostBarAccess (part module ipa len : Nat) (write : Option (List (BitVec 8)))
  /-- UCIE_MODULE_FAILURE (R470). -/
  | ucieModuleFailure (module : Nat)
  deriving DecidableEq, Repr

end Sys2Proof
end

