-- ==== Sys2Proof/Machine/FieldCheck.lean ====
section
/-!
DEFINITION. The opcode map (07 R246, R247) and the field checks of every opcode (07 R241 to R243, R248, and the
field-use tables 08 R258 to R267, 09 R290 to R292, 10 R306 to R323, 11 R331, R332, 12 R353, 13 R394). A check is a
list of offending bits; the lowest of them is what RESERVED_FIELD reports (07 R249; notes/assumptions/8.md).
-/
namespace Sys2Proof

/-- The formats of instruction words (07 R238 to R240). -/
inductive Fmt where
  | r | i | m | b | x
  deriving DecidableEq, Repr

/-- The fields of one instruction word, by format. -/
inductive Form where
  | r (f : RForm)
  | i (f : IForm)
  | m (f : MForm)
  | b (f : BForm)
  | x (f : XForm)
  deriving DecidableEq, Repr

/-- The 8-bit code of a register specifier (07 R242). -/
def Operand.code : Operand → BitVec 8
  | .v n => 0#2 ++ n
  | .s n => 1#2 ++ n
  | .k n => 8#4 ++ n
  | .g n => 9#4 ++ n
  | .f n => 0x14#5 ++ n
  | .reserved c => c
  | .none => 0xFE#8
  | .imm => 0xFF#8

/-- What an 8-bit register specifier names (07 R242). -/
def Operand.ofCode (c : BitVec 8) : Operand :=
  if c.toNat < 0x40 then .v (c.extractLsb' 0 6)
  else if c.toNat < 0x80 then .s (c.extractLsb' 0 6)
  else if c.toNat < 0x90 then .k (c.extractLsb' 0 4)
  else if c.toNat < 0xA0 then .g (c.extractLsb' 0 4)
  else if c.toNat < 0xA8 then .f (c.extractLsb' 0 3)
  else if c = 0xFE#8 then .none
  else if c = 0xFF#8 then .imm
  else .reserved c

/-- The type of a code (07 R245). -/
def Ty.ofCode (c : BitVec 4) : Ty :=
  match c.toNat with
  | 0 => .i32 | 1 => .n32 | 2 => .i16 | 3 => .n16 | 4 => .i8 | 5 => .n8 | 6 => .i64 | 7 => .n64
  | 8 => .f32 | 9 => .f16 | 10 => .bf16 | 11 => .rB | 12 => .rC | 13 => .rD | 14 => .rE | _ => .rF

/-- The code of a type (07 R245). -/
def Ty.code : Ty → BitVec 4
  | .i32 => 0#4 | .n32 => 1#4 | .i16 => 2#4 | .n16 => 3#4 | .i8 => 4#4 | .n8 => 5#4 | .i64 => 6#4 | .n64 => 7#4
  | .f32 => 8#4 | .f16 => 9#4 | .bf16 => 10#4 | .rB => 11#4 | .rC => 12#4 | .rD => 13#4 | .rE => 14#4 | .rF => 15#4

/-- Whether a type is 64 bits wide (07 R245). -/
def Ty.is64 : Ty → Bool
  | .i64 | .n64 => true
  | _ => false

/-- Whether a type is a floating-point type (07 R245). -/
def Ty.isFloat : Ty → Bool
  | .f32 | .f16 | .bf16 => true
  | _ => false

/-- Whether an integer type is signed (07 R245). -/
def Ty.isSigned : Ty → Bool
  | .i32 | .i16 | .i8 | .i64 => true
  | _ => false

/-- The width of a type in bits (08 R260, 09 R281). -/
def Ty.width : Ty → Nat
  | .i16 | .n16 | .f16 | .bf16 => 16
  | .i8 | .n8 => 8
  | .i64 | .n64 => 64
  | _ => 32

/-- The opcode of an assigned mnemonic (07 R246). -/
def Op.code : Op → BitVec 10
  | .sadd => 0x001#10
  | .ssub => 0x002#10
  | .smul => 0x003#10
  | .smulh => 0x004#10
  | .smad => 0x005#10
  | .sdiv => 0x006#10
  | .srem => 0x007#10
  | .smin => 0x008#10
  | .smax => 0x009#10
  | .sand => 0x00A#10
  | .sor => 0x00B#10
  | .sxor => 0x00C#10
  | .sshl => 0x00D#10
  | .sshr => 0x00E#10
  | .ssra => 0x00F#10
  | .sbfx => 0x010#10
  | .sbfi => 0x011#10
  | .sclz => 0x012#10
  | .spop => 0x013#10
  | .scmp => 0x014#10
  | .ssel => 0x015#10
  | .smov => 0x016#10
  | .sli => 0x017#10
  | .slea => 0x018#10
  | .vadd => 0x080#10
  | .vsub => 0x081#10
  | .vmul => 0x082#10
  | .vmulh => 0x083#10
  | .vmad => 0x084#10
  | .vabs => 0x085#10
  | .vneg => 0x086#10
  | .vmin => 0x087#10
  | .vmax => 0x088#10
  | .vand => 0x089#10
  | .vor => 0x08A#10
  | .vxor => 0x08B#10
  | .vnot => 0x08C#10
  | .vshl => 0x08D#10
  | .vshr => 0x08E#10
  | .vsra => 0x08F#10
  | .vrot => 0x090#10
  | .vbfx => 0x091#10
  | .vbfi => 0x092#10
  | .vclz => 0x093#10
  | .vpop => 0x094#10
  | .vbrev => 0x095#10
  | .vcmp => 0x096#10
  | .vsel => 0x097#10
  | .vmov => 0x098#10
  | .vli => 0x099#10
  | .vdot4 => 0x09A#10
  | .vlea => 0x09B#10
  | .vlane => 0x09C#10
  | .fadd => 0x100#10
  | .fsub => 0x101#10
  | .fmul => 0x102#10
  | .ffma => 0x103#10
  | .fmin => 0x104#10
  | .fmax => 0x105#10
  | .fcmp => 0x106#10
  | .fclass => 0x107#10
  | .frcp => 0x108#10
  | .frsq => 0x109#10
  | .fsqrt => 0x10A#10
  | .fexp2 => 0x10B#10
  | .flog2 => 0x10C#10
  | .fsin => 0x10D#10
  | .fcos => 0x10E#10
  | .ftanh => 0x10F#10
  | .frnd => 0x110#10
  | .fcvt => 0x111#10
  | .fscale => 0x112#10
  | .fxpk => 0x113#10
  | .fxup => 0x114#10
  | .fdiv => 0x115#10
  | .ld => 0x180#10
  | .st => 0x181#10
  | .lds => 0x182#10
  | .sts => 0x183#10
  | .atom => 0x184#10
  | .ldlk => 0x185#10
  | .stul => 0x186#10
  | .fence => 0x187#10
  | .pfm => 0x188#10
  | .cvta => 0x189#10
  | .falloc => 0x18A#10
  | .fopen => 0x18B#10
  | .ffree => 0x18C#10
  | .fbind => 0x18D#10
  | .fdone => 0x18E#10
  | .frwait => 0x18F#10
  | .fdrop => 0x190#10
  | .fquery => 0x191#10
  | .nop => 0x200#10
  | .bra => 0x201#10
  | .brs => 0x202#10
  | .jmp => 0x203#10
  | .call => 0x204#10
  | .ret => 0x205#10
  | .exit => 0x206#10
  | .bar => 0x207#10
  | .barr => 0x208#10
  | .barw => 0x209#10
  | .wcnt => 0x20A#10
  | .sleep => 0x20B#10
  | .yield => 0x20C#10
  | .pfi => 0x20D#10
  | .trap => 0x20E#10
  | .brk => 0x20F#10
  | .brx => 0x210#10
  | .shfl => 0x280#10
  | .vote => 0x281#10
  | .bal => 0x282#10
  | .redux => 0x283#10
  | .scan => 0x284#10
  | .bcast => 0x285#10
  | .perm => 0x286#10
  | .kand => 0x287#10
  | .kor => 0x288#10
  | .kxor => 0x289#10
  | .knot => 0x28A#10
  | .kmov => 0x28B#10
  | .kpop => 0x28C#10
  | .kfst => 0x28D#10
  | .kfrom => 0x28E#10
  | .kto => 0x28F#10
  | .mmac => 0x300#10
  | .mclr => 0x301#10
  | .mld => 0x302#10
  | .mst => 0x303#10
  | .mxv => 0x304#10
  | .mvx => 0x305#10
  | .qmk => 0x306#10
  | .qinv => 0x307#10
  | .cpy => 0x308#10
  | .cpyg => 0x309#10
  | .grinit => 0x30A#10
  | .grget => 0x30B#10
  | .grput => 0x30C#10
  | .grrel => 0x30D#10
  | .stch => 0x30E#10
  | .lnch => 0x30F#10
  | .cncl => 0x310#10
  | .pwrh => 0x311#10
  | .rds => 0x380#10
  | .wrs => 0x381#10
  | .tret => 0x382#10
  | .cinv => 0x383#10
  | .cflush => 0x384#10
  | .tlbinv => 0x385#10
  | .ctxsv => 0x386#10
  | .ctxld => 0x387#10
  | .capset => 0x388#10
  | .blst => 0x389#10
  | .halt => 0x38A#10

/-- Every assigned mnemonic, in the order of the opcode map (07 R246). -/
def Op.all : List Op :=
  [.sadd, .ssub, .smul, .smulh, .smad, .sdiv, .srem, .smin, .smax, .sand, .sor, .sxor, .sshl, .sshr, .ssra, .sbfx, .sbfi, .sclz, .spop, .scmp, .ssel, .smov, .sli, .slea, .vadd, .vsub, .vmul, .vmulh, .vmad, .vabs, .vneg] ++
  [.vmin, .vmax, .vand, .vor, .vxor, .vnot, .vshl, .vshr, .vsra, .vrot, .vbfx, .vbfi, .vclz, .vpop, .vbrev, .vcmp, .vsel, .vmov, .vli, .vdot4, .vlea, .vlane, .fadd, .fsub, .fmul, .ffma, .fmin, .fmax, .fcmp, .fclass, .frcp] ++
  [.frsq, .fsqrt, .fexp2, .flog2, .fsin, .fcos, .ftanh, .frnd, .fcvt, .fscale, .fxpk, .fxup, .fdiv, .ld, .st, .lds, .sts, .atom, .ldlk, .stul, .fence, .pfm, .cvta, .falloc, .fopen, .ffree, .fbind, .fdone, .frwait, .fdrop, .fquery] ++
  [.nop, .bra, .brs, .jmp, .call, .ret, .exit, .bar, .barr, .barw, .wcnt, .sleep, .yield, .pfi, .trap, .brk, .brx, .shfl, .vote, .bal, .redux, .scan, .bcast, .perm, .kand, .kor, .kxor, .knot, .kmov, .kpop, .kfst] ++
  [.kfrom, .kto, .mmac, .mclr, .mld, .mst, .mxv, .mvx, .qmk, .qinv, .cpy, .cpyg, .grinit, .grget, .grput, .grrel, .stch, .lnch, .cncl, .pwrh, .rds, .wrs, .tret, .cinv, .cflush, .tlbinv, .ctxsv, .ctxld, .capset, .blst, .halt]

/-- The assigned opcodes of class 0, by OPC[6:0] (07 R246). -/
def Op.ofClass0 (n : Nat) : Option Op :=
  match n with
  | 1 => some .sadd
  | 2 => some .ssub
  | 3 => some .smul
  | 4 => some .smulh
  | 5 => some .smad
  | 6 => some .sdiv
  | 7 => some .srem
  | 8 => some .smin
  | 9 => some .smax
  | 10 => some .sand
  | 11 => some .sor
  | 12 => some .sxor
  | 13 => some .sshl
  | 14 => some .sshr
  | 15 => some .ssra
  | 16 => some .sbfx
  | 17 => some .sbfi
  | 18 => some .sclz
  | 19 => some .spop
  | 20 => some .scmp
  | 21 => some .ssel
  | 22 => some .smov
  | 23 => some .sli
  | 24 => some .slea
  | _ => none

/-- The assigned opcodes of class 1, by OPC[6:0] (07 R246). -/
def Op.ofClass1 (n : Nat) : Option Op :=
  match n with
  | 0 => some .vadd
  | 1 => some .vsub
  | 2 => some .vmul
  | 3 => some .vmulh
  | 4 => some .vmad
  | 5 => some .vabs
  | 6 => some .vneg
  | 7 => some .vmin
  | 8 => some .vmax
  | 9 => some .vand
  | 10 => some .vor
  | 11 => some .vxor
  | 12 => some .vnot
  | 13 => some .vshl
  | 14 => some .vshr
  | 15 => some .vsra
  | 16 => some .vrot
  | 17 => some .vbfx
  | 18 => some .vbfi
  | 19 => some .vclz
  | 20 => some .vpop
  | 21 => some .vbrev
  | 22 => some .vcmp
  | 23 => some .vsel
  | 24 => some .vmov
  | 25 => some .vli
  | 26 => some .vdot4
  | 27 => some .vlea
  | 28 => some .vlane
  | _ => none

/-- The assigned opcodes of class 2, by OPC[6:0] (07 R246). -/
def Op.ofClass2 (n : Nat) : Option Op :=
  match n with
  | 0 => some .fadd
  | 1 => some .fsub
  | 2 => some .fmul
  | 3 => some .ffma
  | 4 => some .fmin
  | 5 => some .fmax
  | 6 => some .fcmp
  | 7 => some .fclass
  | 8 => some .frcp
  | 9 => some .frsq
  | 10 => some .fsqrt
  | 11 => some .fexp2
  | 12 => some .flog2
  | 13 => some .fsin
  | 14 => some .fcos
  | 15 => some .ftanh
  | 16 => some .frnd
  | 17 => some .fcvt
  | 18 => some .fscale
  | 19 => some .fxpk
  | 20 => some .fxup
  | 21 => some .fdiv
  | _ => none

/-- The assigned opcodes of class 3, by OPC[6:0] (07 R246). -/
def Op.ofClass3 (n : Nat) : Option Op :=
  match n with
  | 0 => some .ld
  | 1 => some .st
  | 2 => some .lds
  | 3 => some .sts
  | 4 => some .atom
  | 5 => some .ldlk
  | 6 => some .stul
  | 7 => some .fence
  | 8 => some .pfm
  | 9 => some .cvta
  | 10 => some .falloc
  | 11 => some .fopen
  | 12 => some .ffree
  | 13 => some .fbind
  | 14 => some .fdone
  | 15 => some .frwait
  | 16 => some .fdrop
  | 17 => some .fquery
  | _ => none

/-- The assigned opcodes of class 4, by OPC[6:0] (07 R246). -/
def Op.ofClass4 (n : Nat) : Option Op :=
  match n with
  | 0 => some .nop
  | 1 => some .bra
  | 2 => some .brs
  | 3 => some .jmp
  | 4 => some .call
  | 5 => some .ret
  | 6 => some .exit
  | 7 => some .bar
  | 8 => some .barr
  | 9 => some .barw
  | 10 => some .wcnt
  | 11 => some .sleep
  | 12 => some .yield
  | 13 => some .pfi
  | 14 => some .trap
  | 15 => some .brk
  | 16 => some .brx
  | _ => none

/-- The assigned opcodes of class 5, by OPC[6:0] (07 R246). -/
def Op.ofClass5 (n : Nat) : Option Op :=
  match n with
  | 0 => some .shfl
  | 1 => some .vote
  | 2 => some .bal
  | 3 => some .redux
  | 4 => some .scan
  | 5 => some .bcast
  | 6 => some .perm
  | 7 => some .kand
  | 8 => some .kor
  | 9 => some .kxor
  | 10 => some .knot
  | 11 => some .kmov
  | 12 => some .kpop
  | 13 => some .kfst
  | 14 => some .kfrom
  | 15 => some .kto
  | _ => none

/-- The assigned opcodes of class 6, by OPC[6:0] (07 R246). -/
def Op.ofClass6 (n : Nat) : Option Op :=
  match n with
  | 0 => some .mmac
  | 1 => some .mclr
  | 2 => some .mld
  | 3 => some .mst
  | 4 => some .mxv
  | 5 => some .mvx
  | 6 => some .qmk
  | 7 => some .qinv
  | 8 => some .cpy
  | 9 => some .cpyg
  | 10 => some .grinit
  | 11 => some .grget
  | 12 => some .grput
  | 13 => some .grrel
  | 14 => some .stch
  | 15 => some .lnch
  | 16 => some .cncl
  | 17 => some .pwrh
  | _ => none

/-- The assigned opcodes of class 7, by OPC[6:0] (07 R246). -/
def Op.ofClass7 (n : Nat) : Option Op :=
  match n with
  | 0 => some .rds
  | 1 => some .wrs
  | 2 => some .tret
  | 3 => some .cinv
  | 4 => some .cflush
  | 5 => some .tlbinv
  | 6 => some .ctxsv
  | 7 => some .ctxld
  | 8 => some .capset
  | 9 => some .blst
  | 10 => some .halt
  | _ => none

/-- The mnemonic of an opcode; none for 0x000 and the unassigned ranges (07 R246, R247). -/
def Op.ofCode (c : BitVec 10) : Option Op :=
  let n := (c.extractLsb' 0 7).toNat
  match (c.extractLsb' 7 3).toNat with
  | 0 => Op.ofClass0 n
  | 1 => Op.ofClass1 n
  | 2 => Op.ofClass2 n
  | 3 => Op.ofClass3 n
  | 4 => Op.ofClass4 n
  | 5 => Op.ofClass5 n
  | 6 => Op.ofClass6 n
  | _ => Op.ofClass7 n

/-- The class of a mnemonic, OPC[9:7] (07 R246). -/
def Op.cls (o : Op) : Nat := o.code.toNat / 128

/-- The format of a mnemonic (07 R246). -/
def Op.fmt : Op → Fmt
  | .sli | .vli | .falloc => .i
  | .ld | .st | .lds | .sts | .atom | .ldlk | .stul | .pfm | .cinv | .cflush => .m
  | .bra | .brs | .call | .pfi => .b
  | .mmac | .mclr | .mld | .mst | .mxv | .mvx | .qmk | .qinv | .cpy | .cpyg | .grinit | .grget | .grput | .grrel | .stch | .lnch | .cncl | .pwrh => .x
  | _ => .r

/-- The privilege level a mnemonic needs (07 R248). -/
def Op.level : Op → Nat
  | .tlbinv | .halt => 1
  | .ctxsv | .ctxld | .capset | .blst => 2
  | _ => 0

/-- The pipe groups (07 R233). -/
inductive Pipe where
  | s | v | m | x | c
  deriving DecidableEq, Repr

/-- The pipe group of an opcode, by its class (07 R233). -/
def pipeOf (opcode : BitVec 10) : Pipe :=
  match (opcode.extractLsb' 7 3).toNat with
  | 0 => .s
  | 1 | 2 | 5 => .v
  | 3 => .m
  | 6 => .x
  | _ => .c

/-- The legal pairs of pipe groups, in either order (07 R233). -/
def pairLegal : Pipe → Pipe → Bool
  | .s, .v | .s, .m | .s, .x | .v, .s | .v, .m | .v, .x | .m, .s | .m, .v | .x, .s | .x, .v => true
  | _, _ => false

namespace Check

/-- The register classes a position may accept (07 R242). -/
inductive Kd where
  | v | s | k | g | f | none | imm
  deriving DecidableEq, Repr

/-- How many registers an operand takes (07 R243). -/
inductive Wd where
  | one | pair | quad | oct
  /-- up to the given register number -/
  | upTo (n : Nat)
  deriving DecidableEq, Repr

/-- The class of a specifier; none for a reserved one. -/
def kindOf : Operand → Option Kd
  | .v _ => some .v
  | .s _ => some .s
  | .k _ => some .k
  | .g _ => some .g
  | .f _ => some .f
  | .reserved _ => Option.none
  | .none => some .none
  | .imm => some .imm

/-- The register number of a specifier. -/
def idx : Operand → Nat
  | .v n => n.toNat
  | .s n => n.toNat
  | .k n => n.toNat
  | .g n => n.toNat
  | .f n => n.toNat
  | _ => 0

/-- Whether a specifier is accepted: its class is listed and its number suits the width (07 R243). -/
def accepts (kinds : List Kd) (w : Wd) (o : Operand) : Bool :=
  match kindOf o with
  | Option.none => false
  | some kd =>
    kinds.contains kd &&
    match kd with
    | .none | .imm => true
    | .g | .f => w == .one
    | .k => true
    | .v | .s =>
      match w with
      | .one => true
      | .pair => idx o % 2 == 0
      | .quad => idx o % 4 == 0
      | .oct => idx o % 8 == 0 && idx o ≤ 48
      | .upTo n => idx o ≤ n

/-- The width a 64-bit type gives an operand (07 R243). -/
def byTy (t : Ty) : Wd := if t.is64 then .pair else .one

/-- The width a type gives an operand of an instruction that accepts some types. -/
def byTyOf (accepted : List Ty) (t : Ty) : Wd := if accepted.contains t then byTy t else .one

/-- The lowest set bit of a value, at an offset; nothing when it is zero. (DEDUCED, notes/assumptions/8.md.) -/
def nonzero (lo : Nat) {w : Nat} (x : BitVec w) : List Nat :=
  ((List.range w).find? (fun i => x.getLsbD i)).toList.map (· + lo)

/-- An offending field, by its lowest bit. -/
def bad (lo : Nat) (b : Bool) : List Nat := if b then [lo] else []

/-- A position that takes a register. -/
def reg (lo : Nat) (kinds : List Kd) (w : Wd) (o : Operand) : List Nat := bad lo (!accepts kinds w o)

/-- A position that must be zero. -/
def zeroOp (lo : Nat) (o : Operand) : List Nat := nonzero lo o.code

/-- The guard fields (07 R236): zero above the enable bit when it is clear; no guard on an unguarded instruction. -/
def guard (unguarded : Bool) (g : Guard) : List Nat :=
  if g.e then bad 26 unguarded
  else bad 27 g.n ++ nonzero 28 g.k

/-- The type field: one of the accepted types; zero where an instruction takes none. -/
def ty (accepted : List Ty) (t : Ty) : List Nat :=
  if accepted.isEmpty then nonzero 36 t.code else bad 36 (!accepted.contains t)

/-- The MOD bits an instruction accepts; any other set bit offends. -/
structure Mods where
  rnd : Bool := false
  sat : Bool := false
  a : Bool := false
  b : Bool := false
  negA : Bool := false
  negB : Bool := false
  negC : Bool := false

/-- The MOD check (08 R261, 09 R291, 11 R332). -/
def mods (m : Mods) (x : Mod) : List Nat :=
  (if m.rnd then [] else nonzero 40 x.rnd) ++ bad 42 (x.sat && !m.sat) ++
  bad 43 (x.nega && !(m.a || m.negA)) ++ bad 44 (x.negb && !(m.b || m.negB)) ++ bad 45 (x.negc && !m.negC) ++
  bad 46 (x.absa && !m.a) ++ bad 47 (x.absb && !m.b)

/-- EXT24 as the immediate of B: zero unless B is 0xFF (08 R267). -/
def extImm (f : RForm) : List Nat := if f.b = .imm then [] else nonzero 64 f.ext

/-- EXT24 with the low n bits in use. -/
def extLow (n : Nat) (f : RForm) : List Nat := nonzero (64 + n) (f.ext.extractLsb' n (24 - n))

/-- The types of 08 R260. -/
def tN : List Ty := [.i32, .n32, .i16, .n16, .i8, .n8]
/-- The types of 08 R260. -/
def tW : List Ty := tN ++ [.i64, .n64]
/-- The types of 08 R260. -/
def tS : List Ty := [.i32, .i16, .i8]
/-- The 32-bit integer types. -/
def t32 : List Ty := [.i32, .n32]
/-- The 64-bit integer types. -/
def t64 : List Ty := [.i64, .n64]
/-- The types of whole-register moves (08 R274, R277, R278). -/
def tMov : List Ty := [.i32, .n32, .i64, .n64]
/-- The floating-point types (09 R281). -/
def tF : List Ty := [.f32, .f16, .bf16]

/-- Scalar destinations (08 R258). -/
def sD : List Kd := [.s, .g, .none]
/-- Scalar B sources (08 R258). -/
def sB : List Kd := [.s, .g, .none, .imm]
/-- Vector destinations (08 R259, 09 R290). -/
def vD : List Kd := [.v, .g, .none]
/-- Vector sources (08 R259, 09 R290). -/
def vA : List Kd := [.v, .s, .g, .none]
/-- Vector B sources (08 R259, 09 R290). -/
def vB : List Kd := [.v, .s, .g, .none, .imm]
/-- Handle operands (10 R323, 12 R353). -/
def hnd : List Kd := [.f, .s]

/-- The common body of Format R: four positions, a type list, the MOD bits, the extension and the guard. -/
def rBody (f : RForm) (unguarded : Bool) (d a b c : List Nat) (tys : List Ty) (m : Mods) (ext : List Nat) :
    List Nat :=
  guard unguarded f.guard ++ d ++ a ++ ty tys f.ty ++ mods m f.mod ++ b ++ c ++ ext

/-- A scalar two-source form (08 R258, R267). -/
def s2 (f : RForm) (tys : List Ty) (sat : Bool) (bw : Wd) : List Nat :=
  rBody f false (reg 10 sD (byTyOf tys f.ty) f.d) (reg 18 sD (byTyOf tys f.ty) f.a) (reg 48 sB bw f.b) (zeroOp 56 f.c) tys
    { sat := sat } (extImm f)

/-- A vector two-source form (08 R259, R267). -/
def v2 (f : RForm) (tys : List Ty) (sat : Bool) (bw : Wd) : List Nat :=
  rBody f false (reg 10 vD (byTyOf tys f.ty) f.d) (reg 18 vA (byTyOf tys f.ty) f.a) (reg 48 vB bw f.b) (zeroOp 56 f.c) tys
    { sat := sat } (extImm f)

/-- A vector one-source form; the destination is one register where `wide` is false (08 R272, R275). -/
def v1 (f : RForm) (tys : List Ty) (sat wide : Bool) : List Nat :=
  rBody f false (reg 10 vD (if wide then byTyOf tys f.ty else .one) f.d) (reg 18 vA (byTyOf tys f.ty) f.a) (zeroOp 48 f.b)
    (zeroOp 56 f.c) tys { sat := sat } (nonzero 64 f.ext)

/-- A condition code in C (08 R266, 09 R297). -/
def condC (f : RForm) : List Nat :=
  bad 56 (f.c.code.getLsbD 3) ++ nonzero 60 (f.c.code.extractLsb' 4 4)

/-- A float two-source form (09 R290 to R292). -/
def f2 (f : RForm) (d c : List Nat) (m : Mods) : List Nat :=
  rBody f false d (reg 18 vA .one f.a) (reg 48 vB .one f.b) c tF m (extImm f)

/-- A float one-source form (09 R290 to R292). -/
def f1 (f : RForm) (m : Mods) (ext : List Nat) : List Nat :=
  rBody f false (reg 10 vD .one f.d) (reg 18 vA .one f.a) (zeroOp 48 f.b) (zeroOp 56 f.c) tF m ext

/-- A form in Format R that uses no TY and no MOD bit. -/
def plain (f : RForm) (unguarded : Bool) (d a b c ext : List Nat) : List Nat :=
  rBody f unguarded d a b c [] {} ext

/-- A class 5 form of type i32 that uses no MOD bit (11 R332). -/
def plain5 (f : RForm) (unguarded : Bool) (d a b c ext : List Nat) : List Nat :=
  rBody f unguarded d a b c [.i32] {} ext

/-- The m field of fxpk and fxup (09 R292). -/
def xbM (f : RForm) : List Nat :=
  let m := (f.ext.extractLsb' 0 4).toNat
  bad 64 (decide (m < 2 || 8 < m))

/-- The types that the operation of a redux or scan accepts; those of every operation where it is a reserved one (11 R350). -/
def reduceTys (f : RForm) : List Ty :=
  let op := (f.ext.extractLsb' 0 4).toNat
  if op ≤ 5 then tMov else if op ≤ 8 then tF else tMov ++ tF

/-- The operation field of redux and scan with its types and MOD bits (11 R350). -/
def reduceOp (f : RForm) : List Nat :=
  let op := (f.ext.extractLsb' 0 4).toNat
  let all := f.ext.getLsbD 5
  bad 64 (decide (8 < op)) ++ nonzero 70 (f.ext.extractLsb' 6 18) ++ bad 36 (decide (op ≤ 8) && !(reduceTys f).contains f.ty) ++
  bad 42 (f.mod.sat && op != 0) ++ (if op == 6 then [] else nonzero 40 f.mod.rnd) ++
  (if all then zeroOp 56 f.c else reg 56 [.k] .one f.c)

/-- Special-register indices of 64 bits, of LO halves, and of the rest (13 R396, R397). -/
def sprListed (n : Nat) : Bool :=
  n ≤ 0x11 || (0x18 ≤ n && n ≤ 0x1D) || n == 0x20 || n == 0x21 || (0x28 ≤ n && n ≤ 0x30) ||
  (0x38 ≤ n && n ≤ 0x3A) || (0x40 ≤ n && n ≤ 0x42) || n == 0x48 || n == 0x49

/-- The index and type checks of rds and wrs (13 R395 to R397). -/
def spr (f : RForm) (read : Bool) : List Nat :=
  let n := (f.ext.extractLsb' 0 8).toNat
  let lo := n == 0x0D || n == 0x18 || n == 0x1A || n == 0x1C
  bad 64 (!sprListed n) ++ nonzero 72 (f.ext.extractLsb' 8 16) ++
  bad 36 (sprListed n && if n == 0x28 then f.ty != .n64 else if read && lo then f.ty != .i32 && f.ty != .n64 else f.ty != .i32)

/-- The field checks of the opcodes of Format R. -/
def rform (op : Op) (f : RForm) : List Nat :=
  let t := byTy f.ty
  match op with
  | .sadd | .ssub | .smul => s2 f tW true t
  | .smulh => s2 f tN false .one
  | .smad => rBody f false (reg 10 sD t f.d) (reg 18 sD t f.a) (reg 48 sB t f.b) (reg 56 sD t f.c) tW { sat := true }
      (extImm f)
  | .sdiv | .srem | .smin | .smax | .sand | .sor | .sxor => s2 f tW false t
  | .sshl => s2 f tW true .one
  | .sshr | .ssra => s2 f tW false .one
  | .sbfx => s2 f t32 false .one
  | .sbfi => rBody f false (reg 10 sD .one f.d) (reg 18 sD .one f.a) (reg 48 sB .one f.b) (reg 56 sD .one f.c) t32 {}
      (extImm f)
  | .sclz | .spop => rBody f false (reg 10 sD .one f.d) (reg 18 sD t f.a) (zeroOp 48 f.b) (zeroOp 56 f.c) tW {}
      (nonzero 64 f.ext)
  | .scmp => rBody f false (reg 10 sD .one f.d) (reg 18 sD t f.a) (reg 48 sB t f.b) (condC f) tW {} (extImm f)
  | .ssel => rBody f false (reg 10 sD t f.d) (reg 18 sD t f.a) (reg 48 sB t f.b) (condC f) tMov {} (extImm f)
  | .smov => rBody f false (reg 10 (.f :: sD) t f.d) (reg 18 (.f :: sD) t f.a) (zeroOp 48 f.b) (zeroOp 56 f.c) tMov
      {} (nonzero 64 f.ext)
  | .slea => rBody f false (reg 10 sD .pair f.d) (reg 18 sD .pair f.a) (reg 48 sB .one f.b)
      (nonzero 59 (f.c.code.extractLsb' 3 5)) t64 {} (extImm f)
  | .vadd | .vsub | .vmul => v2 f tW true t
  | .vmulh => v2 f tN false .one
  | .vmad => rBody f false (reg 10 vD .one f.d) (reg 18 vA .one f.a) (reg 48 vB .one f.b) (reg 56 vA .one f.c) tN { sat := true }
      (extImm f)
  | .vabs => v1 f tS true true
  | .vneg => v1 f tW true true
  | .vmin | .vmax | .vand | .vor | .vxor => v2 f tW false t
  | .vnot => v1 f tW false true
  | .vshl => v2 f tW true .one
  | .vshr | .vsra => v2 f tW false .one
  | .vrot => v2 f tN false .one
  | .vbfx => v2 f t32 false .one
  | .vbfi => rBody f false (reg 10 vD .one f.d) (reg 18 vA .one f.a) (reg 48 vB .one f.b) (reg 56 vA .one f.c) t32 {}
      (extImm f)
  | .vclz | .vpop => v1 f tW false false
  | .vbrev => v1 f tN false true
  | .vcmp => rBody f false (reg 10 [.k, .none] .one f.d) (reg 18 vA t f.a) (reg 48 vB t f.b) (condC f) tW {} (extImm f)
  | .vsel => rBody f false (reg 10 vD t f.d) (reg 18 vA t f.a) (reg 48 vB t f.b) (reg 56 [.k] .one f.c) tMov {}
      (extImm f)
  | .vmov => v1 f tMov false true
  | .vdot4 => rBody f false (reg 10 vD .one f.d) (reg 18 vA .one f.a) (reg 48 vA .one f.b) (reg 56 vA .one f.c) t32
      { sat := true } (extLow 1 f ++ bad 64 (f.ext.getLsbD 0 && f.ty == .n32))
  | .vlea => rBody f false (reg 10 vD .pair f.d) (reg 18 vA .pair f.a) (reg 48 vB .one f.b)
      (nonzero 59 (f.c.code.extractLsb' 3 5)) t64 {} (extImm f)
  | .vlane => rBody f false (reg 10 vD .one f.d) (zeroOp 18 f.a) (reg 48 vB .one f.b) (zeroOp 56 f.c) t32 {} (extImm f)
  | .fadd | .fsub | .fmul | .fdiv => f2 f (reg 10 vD .one f.d) (zeroOp 56 f.c) { rnd := true, a := true, b := true }
  | .ffma => f2 f (reg 10 vD .one f.d) (reg 56 vA .one f.c) { rnd := true, a := true, b := true, negC := true }
  | .fmin | .fmax => f2 f (reg 10 vD .one f.d) (zeroOp 56 f.c) { a := true, b := true }
  | .fcmp => f2 f (reg 10 [.k, .none] .one f.d) (condC f) { a := true, b := true }
  | .fscale => f2 f (reg 10 vD .one f.d) (zeroOp 56 f.c) { rnd := true, a := true }
  | .fclass => f1 f {} (nonzero 64 f.ext)
  | .frcp | .frsq | .fexp2 | .flog2 | .fsin | .fcos | .ftanh => f1 f { a := true } (nonzero 64 f.ext)
  | .fsqrt | .frnd => f1 f { rnd := true, a := true } (nonzero 64 f.ext)
  | .fcvt =>
      let src := Ty.ofCode (f.ext.extractLsb' 0 4)
      let known := (tW ++ tF).contains src
      let unfit := known && (decide (f.ty = src) || !(f.ty.isFloat || src.isFloat))
      rBody f false (reg 10 vD (if unfit then .one else t) f.d) (reg 18 vA (byTy src) f.a) (zeroOp 48 f.b) (zeroOp 56 f.c) (tW ++ tF)
        { rnd := true, a := src.isFloat || !known } (extLow 4 f ++ bad 64 (!known) ++ bad 36 unfit)
  | .fxpk => f1 f {} (xbM f ++ extLow 6 f)
  | .fxup => f1 f { rnd := true } (xbM f ++ extLow 4 f)
  | .fence => plain f true (zeroOp 10 f.d) (zeroOp 18 f.a) (zeroOp 48 f.b) (zeroOp 56 f.c)
      (bad 64 (f.ext.extractLsb' 0 2 == 0#2) ++ bad 66 (decide (4 < (f.ext.extractLsb' 2 3).toNat)) ++ extLow 5 f)
  | .cvta => plain f false (reg 10 [.v, .s] .pair f.d) (reg 18 [.v, .s] .pair f.a) (zeroOp 48 f.b) (zeroOp 56 f.c)
      (nonzero 64 f.ext)
  | .fopen => plain f false (reg 10 hnd .one f.d) (zeroOp 18 f.a) (reg 48 [.s, .imm] .one f.b) (zeroOp 56 f.c)
      (extImm f)
  | .ffree | .fdrop => plain f false (zeroOp 10 f.d) (reg 18 hnd .one f.a) (zeroOp 48 f.b) (zeroOp 56 f.c)
      (nonzero 64 f.ext)
  | .fbind => plain f false (reg 10 [.s, .none] .one f.d) (reg 18 hnd .one f.a) (zeroOp 48 f.b) (zeroOp 56 f.c)
      (extLow 1 f)
  | .fdone => plain f false (reg 10 [.s, .none] .one f.d) (reg 18 hnd .one f.a) (zeroOp 48 f.b) (zeroOp 56 f.c)
      (nonzero 64 f.ext)
  | .frwait =>
      let kind := (f.ext.extractLsb' 0 2).toNat
      plain f false (reg 10 [.s, .none] .one f.d) (if kind == 2 then zeroOp 18 f.a else reg 18 hnd .one f.a)
        (if kind == 1 then reg 48 [.s] .one f.b else zeroOp 48 f.b)
        (if kind == 1 then reg 56 [.s] .one f.c else zeroOp 56 f.c) (bad 64 (kind == 3) ++ extLow 18 f)
  | .fquery => plain f false (reg 10 [.s] .pair f.d) (reg 18 hnd .one f.a) (zeroOp 48 f.b) (zeroOp 56 f.c) (extLow 2 f)
  | .nop | .exit => plain f false (zeroOp 10 f.d) (zeroOp 18 f.a) (zeroOp 48 f.b) (zeroOp 56 f.c) (nonzero 64 f.ext)
  | .jmp => plain f true (zeroOp 10 f.d) (reg 18 [.s] .pair f.a) (zeroOp 48 f.b) (zeroOp 56 f.c) (nonzero 64 f.ext)
  | .ret => plain f true (zeroOp 10 f.d) (reg 18 [.s, .v] .pair f.a) (zeroOp 48 f.b) (zeroOp 56 f.c)
      (nonzero 64 f.ext)
  | .brx => plain f true (zeroOp 10 f.d) (reg 18 [.s, .v] .pair f.a) (zeroOp 48 f.b) (zeroOp 56 f.c)
      (if kindOf f.a == some .v then bad 64 (f.ext == 0#24) else nonzero 64 f.ext)
  | .bar | .barr | .barw => plain f true (zeroOp 10 f.d) (zeroOp 18 f.a) (zeroOp 48 f.b) (zeroOp 56 f.c) (extLow 4 f)
  | .wcnt => plain f true (zeroOp 10 f.d) (zeroOp 18 f.a) (zeroOp 48 f.b) (zeroOp 56 f.c)
      (bad 64 (f.ext.extractLsb' 0 2 == 3#2) ++ extLow 8 f)
  | .sleep => plain f true (zeroOp 10 f.d) (zeroOp 18 f.a) (reg 48 [.s, .g, .imm] .one f.b) (zeroOp 56 f.c)
      (extImm f ++ bad 64 (f.b == .imm && f.ext.msb))
  | .yield => plain f true (zeroOp 10 f.d) (zeroOp 18 f.a) (zeroOp 48 f.b) (zeroOp 56 f.c) (nonzero 64 f.ext)
  | .trap => plain f false (zeroOp 10 f.d) (reg 18 [.s, .none] .one f.a) (zeroOp 48 f.b) (zeroOp 56 f.c) (extLow 16 f)
  | .brk => plain f true (zeroOp 10 f.d) (zeroOp 18 f.a) (zeroOp 48 f.b) (zeroOp 56 f.c) (extLow 16 f)
  | .shfl => rBody f true (reg 10 [.v] (byTyOf [.i32, .i64] f.ty) f.d) (reg 18 [.v] (byTyOf [.i32, .i64] f.ty) f.a) (reg 48 [.v, .s, .g, .imm] .one f.b)
      (bad 58 (decide (5 < (f.c.code.extractLsb' 2 3).toNat)) ++ nonzero 61 (f.c.code.extractLsb' 5 3)) [.i32, .i64]
      {} (extImm f)
  | .vote => plain5 f true (reg 10 [.s, .k, .none] .one f.d) (reg 18 [.k] .one f.a) (zeroOp 48 f.b)
      (bad 56 (f.c.code.extractLsb' 0 2 == 3#2) ++ nonzero 58 (f.c.code.extractLsb' 2 6)) (nonzero 64 f.ext)
  | .bal => plain5 f true (reg 10 [.k, .s] (.upTo 58) f.d) (reg 18 [.v] .one f.a) (reg 48 [.s, .g, .imm] .one f.b)
      (zeroOp 56 f.c) (extImm f)
  | .redux => rBody f true (reg 10 [.s, .v, .g, .none] (byTyOf (reduceTys f) f.ty) f.d) (reg 18 [.v] (byTyOf (reduceTys f) f.ty) f.a) (zeroOp 48 f.b) [] (tMov ++ tF)
      { sat := true, rnd := true } (bad 68 (f.ext.getLsbD 4) ++ reduceOp f)
  | .scan => rBody f true (reg 10 [.v] (byTyOf (reduceTys f) f.ty) f.d) (reg 18 [.v] (byTyOf (reduceTys f) f.ty) f.a) (zeroOp 48 f.b) [] (tMov ++ tF)
      { sat := true, rnd := true } (reduceOp f)
  | .bcast => rBody f false (reg 10 [.v] (byTyOf [.i32, .i64] f.ty) f.d) (reg 18 [.v] (byTyOf [.i32, .i64] f.ty) f.a) (reg 48 [.s, .g, .imm] .one f.b) (zeroOp 56 f.c)
      [.i32, .i64] {} (extImm f)
  | .perm => rBody f false (reg 10 [.v] (byTyOf [.i32, .i64] f.ty) f.d) (reg 18 [.v] (byTyOf [.i32, .i64] f.ty) f.a) (reg 48 [.v] .one f.b) (zeroOp 56 f.c)
      [.i32, .i64] {} (nonzero 64 f.ext)
  | .kand | .kor | .kxor => rBody f false (reg 10 [.k] .one f.d) (reg 18 [.k] .one f.a) (reg 48 [.k] .one f.b)
      (zeroOp 56 f.c) [.i32] { negA := true, negB := true } (nonzero 64 f.ext)
  | .knot | .kmov => plain5 f false (reg 10 [.k] .one f.d) (reg 18 [.k] .one f.a) (zeroOp 48 f.b) (zeroOp 56 f.c)
      (nonzero 64 f.ext)
  | .kpop | .kfst => plain5 f false (reg 10 [.s, .none] .one f.d) (reg 18 [.k] .one f.a) (zeroOp 48 f.b) (zeroOp 56 f.c)
      (nonzero 64 f.ext)
  | .kfrom => plain5 f false (reg 10 [.k] .one f.d) (reg 18 [.s] (.upTo 61) f.a) (zeroOp 48 f.b) (zeroOp 56 f.c)
      (nonzero 64 f.ext)
  | .kto => plain5 f true (bad 10 (!(accepts [.s] (.upTo 58) f.d || f.d == .s 61#6))) (reg 18 [.k] .one f.a)
      (zeroOp 48 f.b) (zeroOp 56 f.c) (nonzero 64 f.ext)
  | .rds => rBody f false (reg 10 [.s, .none] (byTyOf [.i32, .n64] f.ty) f.d) (zeroOp 18 f.a) (zeroOp 48 f.b) (zeroOp 56 f.c) [.i32, .n64] {}
      (spr f true)
  | .wrs => rBody f false (zeroOp 10 f.d) (reg 18 [.s] (byTyOf [.i32, .n64] f.ty) f.a) (zeroOp 48 f.b) (zeroOp 56 f.c)
      [.i32, .n64] {} (spr f false)
  | .tret | .halt => plain f true (zeroOp 10 f.d) (zeroOp 18 f.a) (zeroOp 48 f.b) (zeroOp 56 f.c) (nonzero 64 f.ext)
  | .tlbinv => plain f true (zeroOp 10 f.d) (reg 18 [.s, .none] .pair f.a) (reg 48 [.s, .none] .one f.b)
      (zeroOp 56 f.c) (bad 64 (f.ext.extractLsb' 0 2 == 3#2) ++ extLow 2 f)
  | .ctxsv | .ctxld => plain f true (reg 10 [.s] .one f.d) (reg 18 [.s] .pair f.a) (reg 48 [.s] .one f.b)
      (zeroOp 56 f.c) (nonzero 64 f.ext)
  | .capset => plain f true (reg 10 [.s] .one f.d) (reg 18 [.s] .one f.a) (reg 48 [.s] .one f.b) (zeroOp 56 f.c)
      (nonzero 64 f.ext)
  | .blst => plain f true (zeroOp 10 f.d) (reg 18 [.s] .one f.a) (zeroOp 48 f.b) (zeroOp 56 f.c) (nonzero 64 f.ext)
  | _ => []

/-- The field checks of the opcodes of Format I (08 R267, R274, R278, 10 R323). -/
def iform (op : Op) (f : IForm) : List Nat :=
  let t := byTy f.ty
  match op with
  | .sli => guard false f.guard ++ reg 10 [.s, .g, .f, .none] t f.d ++ zeroOp 18 f.a ++ ty tMov f.ty ++ mods {} f.mod ++
      zeroOp 48 f.b ++ nonzero 88 f.ext8
  | .vli => guard false f.guard ++ reg 10 [.v] t f.d ++ zeroOp 18 f.a ++ ty tMov f.ty ++ mods {} f.mod ++
      zeroOp 48 f.b ++ nonzero 88 f.ext8
  | .falloc => guard false f.guard ++ reg 10 hnd .one f.d ++ reg 18 [.s, .none] .quad f.a ++ ty [] f.ty ++
      mods {} f.mod ++ (if f.ext8.getLsbD 3 then reg 48 [.s] .one f.b else zeroOp 48 f.b) ++
      nonzero 92 (f.ext8.extractLsb' 4 4)
  | _ => []

/-- The base register of a Format M instruction in a space (10 R306). -/
def mBase (f : MForm) (lane : Bool) (space : Nat) : List Nat :=
  match space with
  | 0 | 1 => reg 18 (if lane then [.v, .s] else [.s]) .pair f.a
  | 2 => reg 18 hnd .one f.a
  | _ => reg 18 (if lane then [.v, .s, .none] else [.s]) .one f.a

/-- The base register, by SPACE; where SPACE itself is rejected the base offends only if no accepted space takes it (10 R306).
(DEDUCED, notes/assumptions/8.md.) -/
def mBaseOf (f : MForm) (lane : Bool) (spaces : List Nat) : List Nat :=
  if spaces.contains f.space.toNat then mBase f lane f.space.toNat
  else bad 18 (spaces.all fun x => mBase f lane x != [])

/-- The index register and the scale (10 R305, R306). -/
def mIndex (f : MForm) (lane : Bool) : List Nat :=
  reg 48 (if lane then [.v, .s, .g, .none] else [.s, .none]) .one f.b ++
  (if f.b = .none then nonzero 69 f.scale else [])

/-- The number of registers a value of a WIDTH takes, one where an instruction whose greatest WIDTH is `most` rejects it (10 R310).
(DEDUCED, notes/assumptions/8.md.) -/
def mWd (f : MForm) (most : Nat) : Wd :=
  match f.width.toNat with
  | 3 => .pair
  | 4 => if 4 ≤ most then .quad else .one
  | _ => .one

/-- The fields every load, store and atomic checks: guard, SPACE, WIDTH, SCOPE, base and index. -/
def mCommon (f : MForm) (lane : Bool) (maxWidth : Nat) (spaces : List Nat) : List Nat :=
  guard false f.guard ++ bad 36 (!spaces.contains f.space.toNat) ++ bad 39 (decide (maxWidth < f.width.toNat)) ++
  bad 44 (decide (4 < f.scope.toNat)) ++ mBaseOf f lane spaces ++ mIndex f lane

/-- The field checks of the opcodes of Format M (10 R305 to R321, 13 R401). The pair of a cas of one register is C and C + 1: v63 and
s63 begin no such pair (DESIGN CHOICE, notes/assumptions/153.md). -/
def mform (op : Op) (f : MForm) : List Nat :=
  match op with
  | .ld | .lds =>
    let vec := op == .ld
    mCommon f vec (if vec then 4 else 3) (if vec then [0, 1, 2, 3] else [0, 1, 2]) ++
    reg 10 (if vec then [.v, .none] else [.s, .none]) (mWd f (if vec then 4 else 3)) f.d ++ zeroOp 56 f.c ++
    bad 42 (decide (1 < f.ord.toNat)) ++ bad 47 (f.sx && decide (2 ≤ f.width.toNat)) ++
    bad 64 (decide (2 < f.ncls.toNat) || (f.ord == 1#2 && f.ncls != 0#2)) ++ nonzero 66 f.use ++ nonzero 72 f.aop
  | .st | .sts =>
    let vec := op == .st
    mCommon f vec (if vec then 4 else 3) (if vec then [0, 1, 2, 3] else [0, 1, 2]) ++ zeroOp 10 f.d ++
    reg 56 (if vec then [.v, .s, .none] else [.s, .none]) (mWd f (if vec then 4 else 3)) f.c ++
    bad 42 (!(f.ord == 0#2 || f.ord == 2#2)) ++ bad 47 f.sx ++
    bad 64 (decide (1 < f.ncls.toNat) || (f.ord == 2#2 && f.ncls != 0#2)) ++ nonzero 66 f.use ++ nonzero 72 f.aop
  | .atom =>
    let aop := f.aop.toNat
    let use := f.use.toNat
    mCommon f true 3 [0, 1, 2] ++ bad 39 (decide (f.width.toNat < 2)) ++
    reg 10 [.v, .none] (if decide (10 ≤ aop) && decide (aop ≤ 12) then .one else mWd f 3) f.d ++ bad 10 (use == 4 && f.d != .none) ++
    reg 56 [.v, .s] (if f.width == 3#3 then (if aop == 7 then .quad else .pair) else
      if aop == 7 then .upTo 62 else .one) f.c ++
    bad 47 (f.sx && aop != 1 && aop != 2) ++ nonzero 64 f.ncls ++ bad 66 (decide (5 < use)) ++
    bad 42 (decide (1 ≤ use) && decide (use ≤ 5) && f.ord != 0#2) ++ bad 72 (decide (12 < aop)) ++
    bad 72 ((use == 2 || use == 4) && !(aop ≤ 5 || aop == 11 || aop == 12)) ++
    bad 72 (use == 5 && aop != 0 && aop != 5) ++ bad 39 (decide (10 ≤ aop) && decide (aop ≤ 12) && f.width == 3#3)
  | .ldlk | .stul =>
    let isLd := op == .ldlk
    mCommon f true 3 [2] ++ bad 39 (decide (f.width.toNat < 2)) ++
    (if isLd then reg 10 [.v, .none] (mWd f 3) f.d ++ zeroOp 56 f.c
     else reg 10 [.k, .none] .one f.d ++ reg 56 [.v, .s, .none] (mWd f 3) f.c) ++
    bad 42 (if isLd then decide (1 < f.ord.toNat) else !(f.ord == 0#2 || f.ord == 2#2)) ++ bad 47 f.sx ++
    nonzero 64 f.ncls ++ nonzero 66 f.use ++ nonzero 72 f.aop
  | .pfm =>
    mCommon f true 4 [0, 1, 3] ++ zeroOp 10 f.d ++ zeroOp 56 f.c ++ nonzero 42 f.ord ++ bad 47 f.sx ++
    bad 64 (f.ncls == 3#2) ++ nonzero 66 f.use ++ nonzero 72 f.aop
  | .cinv | .cflush =>
    mCommon f true 4 [0, 1, 3] ++ nonzero 44 f.scope ++ zeroOp 10 f.d ++ zeroOp 56 f.c ++ nonzero 42 f.ord ++
    bad 47 f.sx ++ nonzero 64 f.ncls ++ nonzero 66 f.use ++
    (if op == .cinv then bad 72 (decide (2 < f.aop.toNat)) else nonzero 72 f.aop)
  | _ => []

/-- The field checks of the opcodes of Format B (11 R331, 06 R203). -/
def bform (op : Op) (f : BForm) : List Nat :=
  match op with
  | .bra =>
    guard false f.guard ++ zeroOp 10 f.d ++ zeroOp 18 f.a ++ nonzero 36 f.cond ++
    (if f.guard.e then bad 40 (f.hint.extractLsb' 0 2 == 3#2) ++ nonzero 42 (f.hint.extractLsb' 2 6) ++
        bad 72 (f.rcv == 0#24)
     else nonzero 40 f.hint ++ nonzero 72 f.rcv)
  | .brs =>
    let c := f.cond.toNat
    guard (c < 11) f.guard ++ bad 26 (decide (11 ≤ c && c ≤ 13) && !f.guard.e) ++ zeroOp 10 f.d ++ zeroOp 18 f.a ++
    bad 36 (decide (13 < c)) ++ nonzero 40 f.hint ++ nonzero 72 f.rcv
  | .call =>
    guard true f.guard ++ reg 10 [.s, .v] .pair f.d ++ zeroOp 18 f.a ++ nonzero 36 f.cond ++ nonzero 40 f.hint ++
    nonzero 72 f.rcv
  | .pfi =>
    guard true f.guard ++ zeroOp 10 f.d ++ zeroOp 18 f.a ++ nonzero 40 f.hint ++ nonzero 72 f.rcv
  | _ => []

/-- The body of a Format X check (12 R353). -/
def xBody (f : XForm) (unguarded tile : Bool) (d a b c xfl ext : List Nat) : List Nat :=
  guard unguarded f.guard ++ d ++ a ++ (if tile then [] else nonzero 36 f.tile) ++ xfl ++ b ++ c ++ ext

/-- XFL with the low n bits in use. -/
def xflLow (n : Nat) (f : XForm) : List Nat := nonzero (43 + n) (f.xfl.extractLsb' n (5 - n))

/-- EXT32 with the low n bits in use. -/
def xextLow (n : Nat) (f : XForm) : List Nat := nonzero (64 + n) (f.ext.extractLsb' n (32 - n))

/-- The field checks of the opcodes of Format X (12 R353, R354, R374 to R384, R391, R392). -/
def xform (op : Op) (f : XForm) : List Nat :=
  let zd := zeroOp 10 f.d
  let za := zeroOp 18 f.a
  let zb := zeroOp 48 f.b
  let zc := zeroOp 56 f.c
  let zx := nonzero 43 f.xfl
  let ze := nonzero 64 f.ext
  let s1 (lo : Nat) (o : Operand) := reg lo [.s] .one o
  let s2 (lo : Nat) (o : Operand) := reg lo [.s] .pair o
  let row := bad 64 (decide (29 < (f.ext.extractLsb' 0 5).toNat)) ++ xextLow 5 f
  match op with
  | .mmac => xBody f true true zd (s1 18 f.a) (s1 48 f.b) (s1 56 f.c) (xflLow 1 f) ze
  | .mclr => xBody f true true zd za zb zc zx ze
  | .mld | .mst =>
    let space := (f.xfl.extractLsb' 0 2).toNat
    let fmt := (f.ext.extractLsb' 0 4).toNat
    let blk := (f.ext.extractLsb' 4 2).toNat
    xBody f true true zd (if space == 0 then s2 18 f.a else if space == 1 then reg 18 hnd .one f.a
        else bad 18 (s2 18 f.a != [] && reg 18 hnd .one f.a != []))
      (reg 48 [.s, .none] .one f.b) (reg 56 [.s, .none] .one f.c) (bad 43 (decide (1 < space)) ++ xflLow 2 f)
      (bad 64 (fmt == 3 || decide (10 < fmt)) ++ bad 68 (decide (1 < blk) || (decide (fmt < 3) && blk != 0)) ++
        xextLow 6 f)
  | .mxv => xBody f true true (reg 10 [.v] .one f.d) za zb zc zx row
  | .mvx => xBody f true true zd (reg 18 [.v] .one f.a) zb zc zx row
  | .qmk =>
    let m := f.xfl.getLsbD 0
    xBody f false false (s1 10 f.d) (if m then s2 18 f.a else reg 18 [.s] .oct f.a) (s1 48 f.b) zc (xflLow 1 f)
      (if m then ze else xextLow 7 f)
  | .qinv => xBody f false false zd (s1 18 f.a) zb zc zx ze
  | .cpy =>
    let dsp := (f.xfl.extractLsb' 0 2).toNat
    let ssp := (f.xfl.extractLsb' 2 2).toNat
    let big := f.xfl.getLsbD 4
    let aop := (f.ext.extractLsb' 13 4).toNat
    if ssp == 3 then
      xBody f false false zd (s2 18 f.a) (reg 48 [.s] (if big then .quad else .pair) f.b)
        (reg 56 [.s, .none] .pair f.c) (bad 43 (dsp != 2))
        (bad 77 (decide (12 < aop) || (decide (10 ≤ aop) && big)) ++ xextLow 17 f)
    else
      xBody f false false zd (s2 18 f.a) (s2 48 f.b) (if big then reg 56 [.s] .quad f.c else s1 56 f.c)
        (bad 43 (dsp == 2 && ssp == 2)) (if dsp == 2 || ssp == 2 then xextLow 13 f else ze)
  | .cpyg =>
    let dsp := (f.xfl.extractLsb' 0 2).toNat
    let ssp := (f.xfl.extractLsb' 2 2).toNat
    xBody f false false (reg 10 [.v] .one f.d) (s2 18 f.a) (s2 48 f.b) (s2 56 f.c)
      (bad 43 (dsp == 2) ++ bad 45 (decide (1 < ssp)) ++ xflLow 4 f) ze
  | .grinit =>
    let re := f.xfl.getLsbD 0
    xBody f false false (s1 10 f.d) (reg 18 hnd .one f.a) (s1 48 f.b) (s1 56 f.c) (xflLow 1 f)
      (if re then xextLow 4 f else ze)
  | .grget => xBody f false false (s1 10 f.d) (s1 18 f.a) zb zc zx ze
  | .grput => xBody f false false (if f.xfl.getLsbD 0 then s1 10 f.d else zd) (s1 18 f.a) zb zc (xflLow 1 f) ze
  | .grrel => xBody f false false zd (s1 18 f.a) zb zc zx ze
  | .stch => xBody f false false zd (s2 18 f.a) zb zc zx ze
  | .lnch => xBody f false false (s1 10 f.d) (bad 18 (!(f.a == .s 0#6 || f.a == .s 16#6 || f.a == .s 32#6)))
      (s1 48 f.b) zc zx ze
  | .cncl => xBody f false false (reg 10 [.s, .none] .one f.d) (s1 18 f.a) zb zc zx
      (bad 64 (f.ext.extractLsb' 0 2 == 3#2) ++ xextLow 2 f)
  | .pwrh => xBody f true false zd za zb zc zx []
  | _ => []

/-- The offending bits of an instruction's fields. -/
def form (op : Op) : Form → List Nat
  | .r f => rform op f
  | .i f => iform op f
  | .m f => mform op f
  | .b f => bform op f
  | .x f => xform op f

/-- The lowest offending bit, if any field offends (07 R249). (DEDUCED, notes/assumptions/8.md.) -/
def lowest (l : List Nat) : Option Nat :=
  l.foldl (fun m n => match m with
    | Option.none => some n
    | some k => some (Nat.min k n)) Option.none

end Check

/-- The mnemonic and the fields of an instruction; none for an event, which has no encoding. -/
def Instr.parts : Instr → Option (Op × Form)
  | .sadd f => some (.sadd, .r f)
  | .ssub f => some (.ssub, .r f)
  | .smul f => some (.smul, .r f)
  | .smulh f => some (.smulh, .r f)
  | .smad f => some (.smad, .r f)
  | .sdiv f => some (.sdiv, .r f)
  | .srem f => some (.srem, .r f)
  | .smin f => some (.smin, .r f)
  | .smax f => some (.smax, .r f)
  | .sand f => some (.sand, .r f)
  | .sor f => some (.sor, .r f)
  | .sxor f => some (.sxor, .r f)
  | .sshl f => some (.sshl, .r f)
  | .sshr f => some (.sshr, .r f)
  | .ssra f => some (.ssra, .r f)
  | .sbfx f => some (.sbfx, .r f)
  | .sbfi f => some (.sbfi, .r f)
  | .sclz f => some (.sclz, .r f)
  | .spop f => some (.spop, .r f)
  | .scmp f => some (.scmp, .r f)
  | .ssel f => some (.ssel, .r f)
  | .smov f => some (.smov, .r f)
  | .sli f => some (.sli, .i f)
  | .slea f => some (.slea, .r f)
  | .vadd f => some (.vadd, .r f)
  | .vsub f => some (.vsub, .r f)
  | .vmul f => some (.vmul, .r f)
  | .vmulh f => some (.vmulh, .r f)
  | .vmad f => some (.vmad, .r f)
  | .vabs f => some (.vabs, .r f)
  | .vneg f => some (.vneg, .r f)
  | .vmin f => some (.vmin, .r f)
  | .vmax f => some (.vmax, .r f)
  | .vand f => some (.vand, .r f)
  | .vor f => some (.vor, .r f)
  | .vxor f => some (.vxor, .r f)
  | .vnot f => some (.vnot, .r f)
  | .vshl f => some (.vshl, .r f)
  | .vshr f => some (.vshr, .r f)
  | .vsra f => some (.vsra, .r f)
  | .vrot f => some (.vrot, .r f)
  | .vbfx f => some (.vbfx, .r f)
  | .vbfi f => some (.vbfi, .r f)
  | .vclz f => some (.vclz, .r f)
  | .vpop f => some (.vpop, .r f)
  | .vbrev f => some (.vbrev, .r f)
  | .vcmp f => some (.vcmp, .r f)
  | .vsel f => some (.vsel, .r f)
  | .vmov f => some (.vmov, .r f)
  | .vli f => some (.vli, .i f)
  | .vdot4 f => some (.vdot4, .r f)
  | .vlea f => some (.vlea, .r f)
  | .vlane f => some (.vlane, .r f)
  | .fadd f => some (.fadd, .r f)
  | .fsub f => some (.fsub, .r f)
  | .fmul f => some (.fmul, .r f)
  | .ffma f => some (.ffma, .r f)
  | .fmin f => some (.fmin, .r f)
  | .fmax f => some (.fmax, .r f)
  | .fcmp f => some (.fcmp, .r f)
  | .fclass f => some (.fclass, .r f)
  | .frcp f => some (.frcp, .r f)
  | .frsq f => some (.frsq, .r f)
  | .fsqrt f => some (.fsqrt, .r f)
  | .fexp2 f => some (.fexp2, .r f)
  | .flog2 f => some (.flog2, .r f)
  | .fsin f => some (.fsin, .r f)
  | .fcos f => some (.fcos, .r f)
  | .ftanh f => some (.ftanh, .r f)
  | .frnd f => some (.frnd, .r f)
  | .fcvt f => some (.fcvt, .r f)
  | .fscale f => some (.fscale, .r f)
  | .fxpk f => some (.fxpk, .r f)
  | .fxup f => some (.fxup, .r f)
  | .fdiv f => some (.fdiv, .r f)
  | .ld f => some (.ld, .m f)
  | .st f => some (.st, .m f)
  | .lds f => some (.lds, .m f)
  | .sts f => some (.sts, .m f)
  | .atom f => some (.atom, .m f)
  | .ldlk f => some (.ldlk, .m f)
  | .stul f => some (.stul, .m f)
  | .fenceAcq f => some (.fence, .r f)
  | .fenceRel f => some (.fence, .r f)
  | .fenceSc f => some (.fence, .r f)
  | .pfm f => some (.pfm, .m f)
  | .cvta f => some (.cvta, .r f)
  | .falloc f => some (.falloc, .i f)
  | .fallocC f => some (.falloc, .i f)
  | .fopen f => some (.fopen, .r f)
  | .ffree f => some (.ffree, .r f)
  | .fbind f => some (.fbind, .r f)
  | .fbindB f => some (.fbind, .r f)
  | .fdone f => some (.fdone, .r f)
  | .frwaitSt f => some (.frwait, .r f)
  | .frwaitW f => some (.frwait, .r f)
  | .frwaitCap f => some (.frwait, .r f)
  | .fdrop f => some (.fdrop, .r f)
  | .fquery f => some (.fquery, .r f)
  | .nop f => some (.nop, .r f)
  | .bra f => some (.bra, .b f)
  | .brs f => some (.brs, .b f)
  | .jmp f => some (.jmp, .r f)
  | .call f => some (.call, .b f)
  | .ret f => some (.ret, .r f)
  | .exit f => some (.exit, .r f)
  | .bar f => some (.bar, .r f)
  | .barr f => some (.barr, .r f)
  | .barw f => some (.barw, .r f)
  | .wcnt f => some (.wcnt, .r f)
  | .sleep f => some (.sleep, .r f)
  | .yield f => some (.yield, .r f)
  | .pfi f => some (.pfi, .b f)
  | .trap f => some (.trap, .r f)
  | .brk f => some (.brk, .r f)
  | .brx f => some (.brx, .r f)
  | .shfl f => some (.shfl, .r f)
  | .vote f => some (.vote, .r f)
  | .bal f => some (.bal, .r f)
  | .redux f => some (.redux, .r f)
  | .scan f => some (.scan, .r f)
  | .bcast f => some (.bcast, .r f)
  | .perm f => some (.perm, .r f)
  | .kand f => some (.kand, .r f)
  | .kor f => some (.kor, .r f)
  | .kxor f => some (.kxor, .r f)
  | .knot f => some (.knot, .r f)
  | .kmov f => some (.kmov, .r f)
  | .kpop f => some (.kpop, .r f)
  | .kfst f => some (.kfst, .r f)
  | .kfrom f => some (.kfrom, .r f)
  | .kto f => some (.kto, .r f)
  | .mmac f => some (.mmac, .x f)
  | .mclr f => some (.mclr, .x f)
  | .mld f => some (.mld, .x f)
  | .mst f => some (.mst, .x f)
  | .mxv f => some (.mxv, .x f)
  | .mvx f => some (.mvx, .x f)
  | .qmk f => some (.qmk, .x f)
  | .qmkM f => some (.qmk, .x f)
  | .qinv f => some (.qinv, .x f)
  | .cpy f => some (.cpy, .x f)
  | .cpyRa f => some (.cpy, .x f)
  | .cpyg f => some (.cpyg, .x f)
  | .grinit f => some (.grinit, .x f)
  | .grinitRe f => some (.grinit, .x f)
  | .grget f => some (.grget, .x f)
  | .grputRes f => some (.grput, .x f)
  | .grput f => some (.grput, .x f)
  | .grrel f => some (.grrel, .x f)
  | .stch f => some (.stch, .x f)
  | .lnch f => some (.lnch, .x f)
  | .cnclLaunch f => some (.cncl, .x f)
  | .cnclGraph f => some (.cncl, .x f)
  | .cnclJob f => some (.cncl, .x f)
  | .pwrh f => some (.pwrh, .x f)
  | .rds f => some (.rds, .r f)
  | .wrs f => some (.wrs, .r f)
  | .tret f => some (.tret, .r f)
  | .cinv f => some (.cinv, .m f)
  | .cflush f => some (.cflush, .m f)
  | .tlbinvAddr f => some (.tlbinv, .r f)
  | .tlbinvCtx f => some (.tlbinv, .r f)
  | .tlbinvRng f => some (.tlbinv, .r f)
  | .ctxsv f => some (.ctxsv, .r f)
  | .ctxld f => some (.ctxld, .r f)
  | .capset f => some (.capset, .r f)
  | .blst f => some (.blst, .r f)
  | .halt f => some (.halt, .r f)
  | _ => none

/-- Whether the fields of a mnemonic that stands for several rows select the constructor they are in. -/
def Instr.formOk : Instr → Bool
  | .fenceAcq f => f.ext.extractLsb' 0 2 == 1#2
  | .fenceRel f => f.ext.extractLsb' 0 2 == 2#2
  | .fenceSc f => f.ext.extractLsb' 0 2 == 3#2
  | .falloc f => !f.ext8.getLsbD 3
  | .fallocC f => f.ext8.getLsbD 3
  | .fbind f => !f.ext.getLsbD 0
  | .fbindB f => f.ext.getLsbD 0
  | .frwaitSt f => f.ext.extractLsb' 0 2 == 0#2
  | .frwaitW f => f.ext.extractLsb' 0 2 == 1#2
  | .frwaitCap f => f.ext.extractLsb' 0 2 == 2#2
  | .qmk f => !f.xfl.getLsbD 0
  | .qmkM f => f.xfl.getLsbD 0
  | .cpy f => !(f.xfl.extractLsb' 2 2 == 3#2)
  | .cpyRa f => f.xfl.extractLsb' 2 2 == 3#2
  | .grinit f => !f.xfl.getLsbD 0
  | .grinitRe f => f.xfl.getLsbD 0
  | .grputRes f => f.xfl.getLsbD 0
  | .grput f => !f.xfl.getLsbD 0
  | .cnclLaunch f => f.ext.extractLsb' 0 2 == 0#2
  | .cnclGraph f => f.ext.extractLsb' 0 2 == 1#2
  | .cnclJob f => f.ext.extractLsb' 0 2 == 2#2
  | .tlbinvAddr f => f.ext.extractLsb' 0 2 == 0#2
  | .tlbinvCtx f => f.ext.extractLsb' 0 2 == 1#2
  | .tlbinvRng f => f.ext.extractLsb' 0 2 == 2#2
  | _ => true

/-- The row that a mnemonic and its fields stand for; none for a sub-form value the spec reserves. -/
def Instr.ofParts (op : Op) (form : Form) : Option Instr :=
  match op, form with
  | .sadd, .r f => some (.sadd f)
  | .ssub, .r f => some (.ssub f)
  | .smul, .r f => some (.smul f)
  | .smulh, .r f => some (.smulh f)
  | .smad, .r f => some (.smad f)
  | .sdiv, .r f => some (.sdiv f)
  | .srem, .r f => some (.srem f)
  | .smin, .r f => some (.smin f)
  | .smax, .r f => some (.smax f)
  | .sand, .r f => some (.sand f)
  | .sor, .r f => some (.sor f)
  | .sxor, .r f => some (.sxor f)
  | .sshl, .r f => some (.sshl f)
  | .sshr, .r f => some (.sshr f)
  | .ssra, .r f => some (.ssra f)
  | .sbfx, .r f => some (.sbfx f)
  | .sbfi, .r f => some (.sbfi f)
  | .sclz, .r f => some (.sclz f)
  | .spop, .r f => some (.spop f)
  | .scmp, .r f => some (.scmp f)
  | .ssel, .r f => some (.ssel f)
  | .smov, .r f => some (.smov f)
  | .sli, .i f => some (.sli f)
  | .slea, .r f => some (.slea f)
  | .vadd, .r f => some (.vadd f)
  | .vsub, .r f => some (.vsub f)
  | .vmul, .r f => some (.vmul f)
  | .vmulh, .r f => some (.vmulh f)
  | .vmad, .r f => some (.vmad f)
  | .vabs, .r f => some (.vabs f)
  | .vneg, .r f => some (.vneg f)
  | .vmin, .r f => some (.vmin f)
  | .vmax, .r f => some (.vmax f)
  | .vand, .r f => some (.vand f)
  | .vor, .r f => some (.vor f)
  | .vxor, .r f => some (.vxor f)
  | .vnot, .r f => some (.vnot f)
  | .vshl, .r f => some (.vshl f)
  | .vshr, .r f => some (.vshr f)
  | .vsra, .r f => some (.vsra f)
  | .vrot, .r f => some (.vrot f)
  | .vbfx, .r f => some (.vbfx f)
  | .vbfi, .r f => some (.vbfi f)
  | .vclz, .r f => some (.vclz f)
  | .vpop, .r f => some (.vpop f)
  | .vbrev, .r f => some (.vbrev f)
  | .vcmp, .r f => some (.vcmp f)
  | .vsel, .r f => some (.vsel f)
  | .vmov, .r f => some (.vmov f)
  | .vli, .i f => some (.vli f)
  | .vdot4, .r f => some (.vdot4 f)
  | .vlea, .r f => some (.vlea f)
  | .vlane, .r f => some (.vlane f)
  | .fadd, .r f => some (.fadd f)
  | .fsub, .r f => some (.fsub f)
  | .fmul, .r f => some (.fmul f)
  | .ffma, .r f => some (.ffma f)
  | .fmin, .r f => some (.fmin f)
  | .fmax, .r f => some (.fmax f)
  | .fcmp, .r f => some (.fcmp f)
  | .fclass, .r f => some (.fclass f)
  | .frcp, .r f => some (.frcp f)
  | .frsq, .r f => some (.frsq f)
  | .fsqrt, .r f => some (.fsqrt f)
  | .fexp2, .r f => some (.fexp2 f)
  | .flog2, .r f => some (.flog2 f)
  | .fsin, .r f => some (.fsin f)
  | .fcos, .r f => some (.fcos f)
  | .ftanh, .r f => some (.ftanh f)
  | .frnd, .r f => some (.frnd f)
  | .fcvt, .r f => some (.fcvt f)
  | .fscale, .r f => some (.fscale f)
  | .fxpk, .r f => some (.fxpk f)
  | .fxup, .r f => some (.fxup f)
  | .fdiv, .r f => some (.fdiv f)
  | .ld, .m f => some (.ld f)
  | .st, .m f => some (.st f)
  | .lds, .m f => some (.lds f)
  | .sts, .m f => some (.sts f)
  | .atom, .m f => some (.atom f)
  | .ldlk, .m f => some (.ldlk f)
  | .stul, .m f => some (.stul f)
  | .fence, .r f =>
    if f.ext.extractLsb' 0 2 == 1#2 then some (.fenceAcq f) else if f.ext.extractLsb' 0 2 == 2#2 then some (.fenceRel f) else if f.ext.extractLsb' 0 2 == 3#2 then some (.fenceSc f) else none
  | .pfm, .m f => some (.pfm f)
  | .cvta, .r f => some (.cvta f)
  | .falloc, .i f =>
    if !f.ext8.getLsbD 3 then some (.falloc f) else if f.ext8.getLsbD 3 then some (.fallocC f) else none
  | .fopen, .r f => some (.fopen f)
  | .ffree, .r f => some (.ffree f)
  | .fbind, .r f =>
    if !f.ext.getLsbD 0 then some (.fbind f) else if f.ext.getLsbD 0 then some (.fbindB f) else none
  | .fdone, .r f => some (.fdone f)
  | .frwait, .r f =>
    if f.ext.extractLsb' 0 2 == 0#2 then some (.frwaitSt f) else if f.ext.extractLsb' 0 2 == 1#2 then some (.frwaitW f) else if f.ext.extractLsb' 0 2 == 2#2 then some (.frwaitCap f) else none
  | .fdrop, .r f => some (.fdrop f)
  | .fquery, .r f => some (.fquery f)
  | .nop, .r f => some (.nop f)
  | .bra, .b f => some (.bra f)
  | .brs, .b f => some (.brs f)
  | .jmp, .r f => some (.jmp f)
  | .call, .b f => some (.call f)
  | .ret, .r f => some (.ret f)
  | .exit, .r f => some (.exit f)
  | .bar, .r f => some (.bar f)
  | .barr, .r f => some (.barr f)
  | .barw, .r f => some (.barw f)
  | .wcnt, .r f => some (.wcnt f)
  | .sleep, .r f => some (.sleep f)
  | .yield, .r f => some (.yield f)
  | .pfi, .b f => some (.pfi f)
  | .trap, .r f => some (.trap f)
  | .brk, .r f => some (.brk f)
  | .brx, .r f => some (.brx f)
  | .shfl, .r f => some (.shfl f)
  | .vote, .r f => some (.vote f)
  | .bal, .r f => some (.bal f)
  | .redux, .r f => some (.redux f)
  | .scan, .r f => some (.scan f)
  | .bcast, .r f => some (.bcast f)
  | .perm, .r f => some (.perm f)
  | .kand, .r f => some (.kand f)
  | .kor, .r f => some (.kor f)
  | .kxor, .r f => some (.kxor f)
  | .knot, .r f => some (.knot f)
  | .kmov, .r f => some (.kmov f)
  | .kpop, .r f => some (.kpop f)
  | .kfst, .r f => some (.kfst f)
  | .kfrom, .r f => some (.kfrom f)
  | .kto, .r f => some (.kto f)
  | .mmac, .x f => some (.mmac f)
  | .mclr, .x f => some (.mclr f)
  | .mld, .x f => some (.mld f)
  | .mst, .x f => some (.mst f)
  | .mxv, .x f => some (.mxv f)
  | .mvx, .x f => some (.mvx f)
  | .qmk, .x f =>
    if !f.xfl.getLsbD 0 then some (.qmk f) else if f.xfl.getLsbD 0 then some (.qmkM f) else none
  | .qinv, .x f => some (.qinv f)
  | .cpy, .x f =>
    if !(f.xfl.extractLsb' 2 2 == 3#2) then some (.cpy f) else if f.xfl.extractLsb' 2 2 == 3#2 then some (.cpyRa f) else none
  | .cpyg, .x f => some (.cpyg f)
  | .grinit, .x f =>
    if !f.xfl.getLsbD 0 then some (.grinit f) else if f.xfl.getLsbD 0 then some (.grinitRe f) else none
  | .grget, .x f => some (.grget f)
  | .grput, .x f =>
    if f.xfl.getLsbD 0 then some (.grputRes f) else if !f.xfl.getLsbD 0 then some (.grput f) else none
  | .grrel, .x f => some (.grrel f)
  | .stch, .x f => some (.stch f)
  | .lnch, .x f => some (.lnch f)
  | .cncl, .x f =>
    if f.ext.extractLsb' 0 2 == 0#2 then some (.cnclLaunch f) else if f.ext.extractLsb' 0 2 == 1#2 then some (.cnclGraph f) else if f.ext.extractLsb' 0 2 == 2#2 then some (.cnclJob f) else none
  | .pwrh, .x f => some (.pwrh f)
  | .rds, .r f => some (.rds f)
  | .wrs, .r f => some (.wrs f)
  | .tret, .r f => some (.tret f)
  | .cinv, .m f => some (.cinv f)
  | .cflush, .m f => some (.cflush f)
  | .tlbinv, .r f =>
    if f.ext.extractLsb' 0 2 == 0#2 then some (.tlbinvAddr f) else if f.ext.extractLsb' 0 2 == 1#2 then some (.tlbinvCtx f) else if f.ext.extractLsb' 0 2 == 2#2 then some (.tlbinvRng f) else none
  | .ctxsv, .r f => some (.ctxsv f)
  | .ctxld, .r f => some (.ctxld f)
  | .capset, .r f => some (.capset f)
  | .blst, .r f => some (.blst f)
  | .halt, .r f => some (.halt f)
  | _, _ => none

end Sys2Proof
end

