-- ==== Sys2Proof/WellFormed.lean ====
section
/-!
DEFINITION. Which instructions are well-formed: every field holds a value its entry accepts (07 R241 to R243), and
every operand is written in the one way its specifier is read (07 R242). An event has no fields of an encoding.
-/
namespace Sys2Proof

/-- An operand that is the reading of its own code; `reserved` of a code that names a register is not. -/
def Operand.canonical (o : Operand) : Bool := Operand.ofCode o.code = o

/-- Every operand of the form is canonical. -/
def Form.canonical : Form → Bool
  | .r f => f.a.canonical && f.d.canonical && f.b.canonical && f.c.canonical
  | .i f => f.a.canonical && f.d.canonical && f.b.canonical
  | .m f => f.a.canonical && f.d.canonical && f.b.canonical && f.c.canonical
  | .b f => f.a.canonical && f.d.canonical
  | .x f => f.a.canonical && f.d.canonical && f.b.canonical && f.c.canonical

/-- No field offends, and the sub-form field names this row. -/
def Instr.wellFormed (i : Instr) : Bool :=
  match i.parts with
  | none => true
  | some (op, form) => form.canonical && i.formOk && (Check.form op form).isEmpty

end Sys2Proof
end

