-- ==== Sys2Proof/Decode.lean ====
section
/-!
DEFINITION. From the 96 bits of an instruction to its row, and back (07 R228, R235 to R249). Decoding is total: a word
is an instruction, an unassigned opcode, or a word with an offending field, named by its lowest offending bit.
-/
namespace Sys2Proof

/-- What decoding finds (07 R249, orders 4 and 6). -/
inductive Decoded where
  | ok (i : Instr)
  | illegalOpcode (opcode : BitVec 10)
  | reservedField (bit : Nat)
  deriving DecidableEq, Repr

/-- The opcode of a word (07 R235). -/
def opcodeOf (w : BitVec 96) : BitVec 10 := w.extractLsb' 0 10

/-- The register specifier at a bit position. -/
def operandAt (w : BitVec 96) (lo : Nat) : Operand := Operand.ofCode (w.extractLsb' lo 8)

/-- The guard fields of a word (07 R235). -/
def guardOf (w : BitVec 96) : Guard := { k := w.extractLsb' 28 4, n := w.getLsbD 27, e := w.getLsbD 26 }

/-- The MOD field of a word (07 R238). -/
def modOf (w : BitVec 96) : Mod :=
  { absb := w.getLsbD 47, absa := w.getLsbD 46, negc := w.getLsbD 45, negb := w.getLsbD 44, nega := w.getLsbD 43
    sat := w.getLsbD 42, rnd := w.extractLsb' 40 2 }

/-- The fields of a word read in a format (07 R235 to R240). -/
def formOf (fmt : Fmt) (w : BitVec 96) : Form :=
  let lr := w.extractLsb' 32 3
  let g := guardOf w
  let a := operandAt w 18
  let d := operandAt w 10
  match fmt with
  | .r => .r { lr := lr, guard := g, a := a, d := d, ty := Ty.ofCode (w.extractLsb' 36 4), mod := modOf w
               b := operandAt w 48, c := operandAt w 56, ext := w.extractLsb' 64 24 }
  | .i => .i { lr := lr, guard := g, a := a, d := d, ty := Ty.ofCode (w.extractLsb' 36 4), mod := modOf w
               b := operandAt w 48, imm := w.extractLsb' 56 32, ext8 := w.extractLsb' 88 8 }
  | .m => .m { lr := lr, guard := g, a := a, d := d, space := w.extractLsb' 36 3, width := w.extractLsb' 39 3
               ord := w.extractLsb' 42 2, scope := w.extractLsb' 44 3, sx := w.getLsbD 47, b := operandAt w 48
               c := operandAt w 56, ncls := w.extractLsb' 64 2, use := w.extractLsb' 66 3
               scale := w.extractLsb' 69 2, aop := w.extractLsb' 72 4, off := w.extractLsb' 76 20 }
  | .b => .b { lr := lr, guard := g, a := a, d := d, cond := w.extractLsb' 36 4, hint := w.extractLsb' 40 8
               tgt := w.extractLsb' 48 24, rcv := w.extractLsb' 72 24 }
  | .x => .x { lr := lr, guard := g, a := a, d := d, tile := w.extractLsb' 36 7, xfl := w.extractLsb' 43 5
               b := operandAt w 48, c := operandAt w 56, ext := w.extractLsb' 64 32 }

/-- The reserved bits of a format that are set: bit 35, and what 07 R238 and R239 reserve above it. -/
def reservedBits (fmt : Fmt) (w : BitVec 96) : List Nat :=
  Check.bad 35 (w.getLsbD 35) ++
  match fmt with
  | .r => Check.nonzero 88 (w.extractLsb' 88 8)
  | .m => Check.bad 71 (w.getLsbD 71)
  | _ => []

/-- Decode one instruction word. -/
def decode (w : BitVec 96) : Decoded :=
  match Op.ofCode (opcodeOf w) with
  | none => .illegalOpcode (opcodeOf w)
  | some op =>
    let form := formOf op.fmt w
    match Check.lowest (reservedBits op.fmt w ++ Check.form op form) with
    | some bit => .reservedField bit
    | none =>
      match Instr.ofParts op form with
      | some i => .ok i
      | none => .reservedField 64

/-- The bits of a MOD field. -/
def Mod.bits (m : Mod) : BitVec 8 :=
  BitVec.ofBool m.absb ++ BitVec.ofBool m.absa ++ BitVec.ofBool m.negc ++ BitVec.ofBool m.negb ++
    BitVec.ofBool m.nega ++ BitVec.ofBool m.sat ++ m.rnd

/-- Bits 35 to 0 of a word (07 R235). -/
def commonBits (lr : BitVec 3) (g : Guard) (a d : Operand) (op : Op) : BitVec 36 :=
  0#1 ++ lr ++ g.k ++ BitVec.ofBool g.n ++ BitVec.ofBool g.e ++ a.code ++ d.code ++ op.code

/-- The 96 bits of a mnemonic and its fields (07 R235 to R240). -/
def Form.bits (op : Op) : Form → BitVec 96
  | .r f => 0#8 ++ f.ext ++ f.c.code ++ f.b.code ++ f.mod.bits ++ f.ty.code ++ commonBits f.lr f.guard f.a f.d op
  | .i f => f.ext8 ++ f.imm ++ f.b.code ++ f.mod.bits ++ f.ty.code ++ commonBits f.lr f.guard f.a f.d op
  | .m f => f.off ++ f.aop ++ 0#1 ++ f.scale ++ f.use ++ f.ncls ++ f.c.code ++ f.b.code ++ BitVec.ofBool f.sx ++
      f.scope ++ f.ord ++ f.width ++ f.space ++ commonBits f.lr f.guard f.a f.d op
  | .b f => f.rcv ++ f.tgt ++ f.hint ++ f.cond ++ commonBits f.lr f.guard f.a f.d op
  | .x f => f.ext ++ f.c.code ++ f.b.code ++ f.xfl ++ f.tile ++ commonBits f.lr f.guard f.a f.d op

/-- The word of an instruction; none for an event. -/
def encode (i : Instr) : Option (BitVec 96) := i.parts.map fun p => p.2.bits p.1

/-- The instruction the decoder reads from an instruction whose bits are `w`; bits above 95 do not exist. -/
def decodeTableWord (_nbits w : Nat) : Option Instr :=
  match decode (BitVec.ofNat 96 w) with
  | .ok i => some i
  | _ => none

end Sys2Proof
end

