-- ==== Sys2Proof/Machine/FloatLib.lean ====
section
/-!
DEFINITION. The number formats and their arithmetic on exact values, rounded once (09 R281 to R289, R295 to R304).
A finite number is a sign, a whole number and a power of two; a rounded result is its bits and its FFLAGS.
-/
namespace Sys2Proof.Machine

/-- A binary format: exponent bits and fraction bits (09 R281). -/
structure FloatFmt where
  ebits : Nat
  fbits : Nat
  deriving DecidableEq, Repr

/-- The format of a floating-point type; binary32 for any other type. -/
def FloatFmt.of : Ty → FloatFmt
  | .f16 => { ebits := 5, fbits := 10 }
  | .bf16 => { ebits := 8, fbits := 7 }
  | _ => { ebits := 8, fbits := 23 }

/-- binary32. -/
def FloatFmt.f32 : FloatFmt := { ebits := 8, fbits := 23 }
/-- The exponent bias. -/
def FloatFmt.bias (f : FloatFmt) : Nat := 2 ^ (f.ebits - 1) - 1
/-- The exponent of the smallest normal. -/
def FloatFmt.emin (f : FloatFmt) : Int := 1 - (f.bias : Int)
/-- The value of the exponent field of infinities and NaNs. -/
def FloatFmt.emax (f : FloatFmt) : Nat := 2 ^ f.ebits - 1
/-- The sign bit in place. -/
def FloatFmt.sign (f : FloatFmt) (neg : Bool) : Nat := if neg then 2 ^ (f.ebits + f.fbits) else 0
/-- The canonical NaN (09 R281). -/
def FloatFmt.nan (f : FloatFmt) : Nat := f.emax * 2 ^ f.fbits + 2 ^ (f.fbits - 1)
/-- An infinity. -/
def FloatFmt.inf (f : FloatFmt) (neg : Bool) : Nat := f.sign neg + f.emax * 2 ^ f.fbits
/-- One. -/
def FloatFmt.one (f : FloatFmt) (neg : Bool) : Nat := f.sign neg + f.bias * 2 ^ f.fbits

/-- What bits stand for: a NaN (signalling or not), an infinity, or ± m × 2^x. -/
inductive FVal where
  | nan (signalling : Bool)
  | inf (neg : Bool)
  | num (neg : Bool) (m : Nat) (x : Int)
  deriving DecidableEq, Repr

/-- A result and the flags it raises: bit 0 NX, 1 UF, 2 OF, 3 DZ, 4 IV (09 R286). -/
structure FRes where
  bits : Nat
  flags : Nat
  deriving DecidableEq, Repr

/-- NX in FFLAGS. -/
def flagNX : Nat := 1
/-- UF in FFLAGS. -/
def flagUF : Nat := 2
/-- OF in FFLAGS. -/
def flagOF : Nat := 4
/-- DZ in FFLAGS. -/
def flagDZ : Nat := 8
/-- IV in FFLAGS. -/
def flagIV : Nat := 16

/-- The value of bits in a format; bits above the format are ignored (09 R281, R282). -/
def FloatFmt.value (f : FloatFmt) (x : Nat) : FVal :=
  let neg := x.testBit (f.ebits + f.fbits)
  let e := x / 2 ^ f.fbits % 2 ^ f.ebits
  let m := x % 2 ^ f.fbits
  if e == f.emax then (if m == 0 then .inf neg else .nan (!m.testBit (f.fbits - 1)))
  else if e == 0 then .num neg m (f.emin - (f.fbits : Int))
  else .num neg (m + 2 ^ f.fbits) ((e : Int) - (f.bias : Int) - (f.fbits : Int))

/-- Whether a value is a NaN. -/
def FVal.isNan : FVal → Bool
  | .nan _ => true
  | _ => false

/-- Whether a value is a signalling NaN. -/
def FVal.isSnan : FVal → Bool
  | .nan s => s
  | _ => false

/-- The sign of a value. -/
def FVal.neg : FVal → Bool
  | .nan _ => false
  | .inf s => s
  | .num s _ _ => s

/-- A value with its sign inverted. -/
def FVal.negate : FVal → FVal
  | .nan s => .nan s
  | .inf s => .inf !s
  | .num s m x => .num (!s) m x

/-- Whether a value is a zero. -/
def FVal.isZero : FVal → Bool
  | .num _ m _ => m == 0
  | _ => false

/-- The canonical NaN of a result, IV when some source is signalling (09 R283). -/
def FloatFmt.nanOf (f : FloatFmt) (l : List FVal) : FRes :=
  { bits := f.nan, flags := if l.any FVal.isSnan then flagIV else 0 }

/-- The canonical NaN of an invalid operation (09 R285). -/
def FloatFmt.invalid (f : FloatFmt) : FRes := { bits := f.nan, flags := flagIV }

/-- floor of log2 of a positive fraction. -/
def log2Frac (n d : Nat) : Int :=
  let e : Int := (n.log2 : Int) - (d.log2 : Int)
  if n * 2 ^ (-e).toNat < d * 2 ^ e.toNat then e - 1 else e

/-- A fraction divided by 2^q. -/
def scaleFrac (n d : Nat) (q : Int) : Nat × Nat := (n * 2 ^ (-q).toNat, d * 2 ^ q.toNat)

/-- A fraction rounded to a whole number in a mode, 0 rne, 1 rz, 2 rdn, 3 rup, and whether it was inexact (09 R284). -/
def roundFrac (mode : Nat) (neg : Bool) (n d : Nat) : Nat × Bool :=
  let m := n / d
  let r := n % d
  let up := match mode with
    | 0 => decide (d < 2 * r) || (2 * r == d && m % 2 == 1)
    | 1 => false
    | 2 => neg
    | _ => !neg
  if r == 0 then (m, false) else (if up then m + 1 else m, true)

/-- An exact non-zero fraction rounded into a format: the bits, and whether it is inexact, tiny and overflowed. -/
def FloatFmt.roundTo (f : FloatFmt) (mode : Nat) (neg : Bool) (n d : Nat) : Nat × Bool × Bool × Bool :=
  let e := log2Frac n d
  let q := max e f.emin - (f.fbits : Int)
  let s := scaleFrac n d q
  let (m, inexact) := roundFrac mode neg s.1 s.2
  let u := scaleFrac n d (e - (f.fbits : Int))
  let tiny := decide (e < f.emin) &&
    decide ((roundFrac mode neg u.1 u.2).1 < 2 ^ ((f.emin - e).toNat + f.fbits))
  let (m, q) := if m == 2 ^ (f.fbits + 1) then (m / 2, q + 1) else (m, q)
  let ex : Nat := if m < 2 ^ f.fbits then 0 else (q + (f.fbits : Int) + (f.bias : Int)).toNat
  if f.emax ≤ ex then
    let toInf := match mode with
      | 0 => true
      | 1 => false
      | 2 => neg
      | _ => !neg
    (if toInf then f.inf neg else f.inf neg - 1, true, false, true)
  else (f.sign neg + ex * 2 ^ f.fbits + m % 2 ^ f.fbits, inexact, tiny, false)

/-- An exact fraction rounded into a format, with its flags (09 R284, R285). -/
def FloatFmt.round (f : FloatFmt) (mode : Nat) (neg : Bool) (n d : Nat) : FRes :=
  if n == 0 then { bits := f.sign neg, flags := 0 }
  else
    let (b, inexact, tiny, past) := f.roundTo mode neg n d
    { bits := b, flags := (if inexact then flagNX else 0) + (if inexact && tiny then flagUF else 0) +
        (if past then flagOF else 0) }

/-- ± m × 2^x rounded into a format. -/
def FloatFmt.roundNum (f : FloatFmt) (mode : Nat) (neg : Bool) (m : Nat) (x : Int) : FRes :=
  f.round mode neg (m * 2 ^ x.toNat) (2 ^ (-x).toNat)

/-- The product of two values, exact; the second part is true for 0 × ∞. -/
def FVal.mul (a b : FVal) : FVal × Bool :=
  match a, b with
  | .nan s, .nan t => (.nan (s || t), false)
  | .nan s, _ => (.nan s, false)
  | _, .nan s => (.nan s, false)
  | .inf s, .inf t => (.inf (s != t), false)
  | .inf s, .num t m _ => if m == 0 then (.nan false, true) else (.inf (s != t), false)
  | .num s m _, .inf t => if m == 0 then (.nan false, true) else (.inf (s != t), false)
  | .num s m x, .num t n y => (.num (s != t) (m * n) (x + y), false)

/-- The finite part of a sum, in units of 2^low. -/
def sumInt (low : Int) (l : List FVal) : Int :=
  l.foldl (fun acc v => match v with
    | .num s m x => acc + (if s then -1 else 1) * ((m * 2 ^ (x - low).toNat : Nat) : Int)
    | _ => acc) 0

/-- The lowest exponent of the non-zero terms. -/
def lowExp (l : List FVal) : Int :=
  (l.foldl (fun acc v => match v with
    | .num _ m x => if m == 0 then acc else some (match acc with
        | none => x
        | some y => min x y)
    | _ => acc) (none : Option Int)).getD 0

/-- The exact sum of values without a NaN, rounded once (09 R284, R285). -/
def FloatFmt.sum (f : FloatFmt) (mode : Nat) (l : List FVal) : FRes :=
  let pos := l.any fun v => v == .inf false
  let neg := l.any fun v => v == .inf true
  if pos && neg then f.invalid
  else if pos || neg then { bits := f.inf neg, flags := 0 }
  else
    let low := lowExp l
    let t := sumInt low l
    if t == 0 then
      let sign := if l.all FVal.isZero && l.all (fun v => v.neg == (l.head?.map FVal.neg).getD false)
        then (l.head?.map FVal.neg).getD false else mode == 2
      { bits := f.sign sign, flags := 0 }
    else f.roundNum mode (decide (t < 0)) t.natAbs low

/-- a + b (09 R295). -/
def FloatFmt.add (f : FloatFmt) (mode : Nat) (a b : FVal) : FRes :=
  if a.isNan || b.isNan then f.nanOf [a, b] else f.sum mode [a, b]

/-- a × b (09 R295). -/
def FloatFmt.mul (f : FloatFmt) (mode : Nat) (a b : FVal) : FRes :=
  if a.isNan || b.isNan then f.nanOf [a, b]
  else
    match a.mul b with
    | (_, true) => f.invalid
    | (p, false) => f.sum mode [p]

/-- a × b + c, rounded once (09 R285, R295). -/
def FloatFmt.fma (f : FloatFmt) (mode : Nat) (a b c : FVal) : FRes :=
  match a.mul b with
  | (_, true) => f.invalid
  | (p, false) => if a.isNan || b.isNan || c.isNan then f.nanOf [a, b, c] else f.sum mode [p, c]

/-- a ÷ b (09 R285, R295). -/
def FloatFmt.div (f : FloatFmt) (mode : Nat) (a b : FVal) : FRes :=
  match a, b with
  | .num s m x, .num t n y =>
    if n == 0 then (if m == 0 then f.invalid else { bits := f.inf (s != t), flags := flagDZ })
    else f.round mode (s != t) (m * 2 ^ (x - y).toNat) (n * 2 ^ (y - x).toNat)
  | .inf _, .inf _ => f.invalid
  | .inf s, .num t _ _ => { bits := f.inf (s != t), flags := 0 }
  | .num s _ _, .inf t => { bits := f.sign (s != t), flags := 0 }
  | _, _ => f.nanOf [a, b]

/-- The whole square root, bit by bit from a given bit down. -/
def sqrtFrom (n : Nat) : Nat → Nat → Nat
  | 0, r => if (r + 1) * (r + 1) ≤ n then r + 1 else r
  | k + 1, r => sqrtFrom n k (if (r + 2 ^ (k + 1)) * (r + 2 ^ (k + 1)) ≤ n then r + 2 ^ (k + 1) else r)

/-- The floor of the square root. -/
def natSqrt (n : Nat) : Nat := sqrtFrom n (n.log2 / 2 + 1) 0

/-- The root of n / d as a fraction that rounds as the exact root: with 256 binary places, and half a place more when
inexact. No rounding boundary of a format lies between two neighbours of that grid. -/
def sqrtFrac (n d : Nat) : Nat × Nat :=
  let v := natSqrt (n * 2 ^ 512 / d)
  if v * v * d == n * 2 ^ 512 then (v, 2 ^ 256) else (2 * v + 1, 2 ^ 257)

/-- The square root (09 R285, R295). -/
def FloatFmt.sqrt (f : FloatFmt) (mode : Nat) (a : FVal) : FRes :=
  match a with
  | .nan _ => f.nanOf [a]
  | .inf s => if s then f.invalid else { bits := f.inf false, flags := 0 }
  | .num s m x =>
    if m == 0 then { bits := f.sign s, flags := 0 }
    else if s then f.invalid
    else
      let r := sqrtFrac (m * 2 ^ x.toNat) (2 ^ (-x).toNat)
      f.round mode false r.1 r.2

/-- a × 2^b (09 R295). Beyond ± 1,000 no result changes further. -/
def FloatFmt.scale (f : FloatFmt) (mode : Nat) (a : FVal) (b : Int) : FRes :=
  match a with
  | .nan _ => f.nanOf [a]
  | .inf s => { bits := f.inf s, flags := 0 }
  | .num s m x => if m == 0 then { bits := f.sign s, flags := 0 } else f.roundNum mode s m (x + max (-1000) (min 1000 b))

/-- Rounding to an integral value (09 R301). -/
def FloatFmt.rint (f : FloatFmt) (mode : Nat) (a : FVal) (bits : Nat) : FRes :=
  match a with
  | .nan _ => f.nanOf [a]
  | .inf _ => { bits := bits, flags := 0 }
  | .num s m x =>
    if m == 0 || decide (0 ≤ x) then { bits := bits, flags := 0 }
    else
      let r := (roundFrac mode s m (2 ^ (-x).toNat)).1
      { bits := (f.round mode s r 1).bits, flags := 0 }

/-- The order of two values that are no NaN, with both zeros equal. -/
def FVal.order (a b : FVal) : Ordering :=
  match a, b with
  | .inf s, .inf t => if s == t then .eq else if s then .lt else .gt
  | .inf s, _ => if s then .lt else .gt
  | _, .inf t => if t then .gt else .lt
  | _, _ =>
    let low := lowExp [a, b]
    compare (sumInt low [a]) (sumInt low [b])

/-- The condition of fcmp and whether IV is raised (09 R297). -/
def fcmpOp (cond : Nat) (a b : FVal) : Bool × Bool :=
  if a.isNan || b.isNan then
    (cond == 1 || cond == 6, a.isSnan || b.isSnan || (2 ≤ cond && cond ≤ 5 : Bool))
  else
    let o := a.order b
    (match cond with
      | 0 => o == .eq
      | 1 => o != .eq
      | 2 => o == .lt
      | 3 => o != .gt
      | 4 => o == .gt
      | 5 => o != .lt
      | 6 => false
      | _ => true, false)

/-- minimumNumber and maximumNumber of two sources given as bits (09 R296). -/
def FloatFmt.minMax (f : FloatFmt) (wantMax : Bool) (x y : Nat) : FRes :=
  let a := f.value x
  let b := f.value y
  let w := 2 ^ (1 + f.ebits + f.fbits)
  let fl := if a.isSnan || b.isSnan then flagIV else 0
  if a.isNan && b.isNan then { bits := f.nan, flags := fl }
  else if a.isNan then { bits := y % w, flags := fl }
  else if b.isNan then { bits := x % w, flags := fl }
  else
    let aLess := match a.order b with
      | .lt => true
      | .gt => false
      | .eq => a.neg && !b.neg
    { bits := (if aLess != wantMax then x else y) % w, flags := fl }

/-- The class bits of fclass (09 R298). -/
def FloatFmt.classOf (f : FloatFmt) (x : Nat) : Nat :=
  match f.value x with
  | .nan s => if s then 0x100 else 0x200
  | .inf s => if s then 0x001 else 0x080
  | .num s m _ =>
    if m == 0 then (if s then 0x008 else 0x010)
    else if m < 2 ^ f.fbits then (if s then 0x004 else 0x020)
    else (if s then 0x002 else 0x040)

/-- A value converted to a float format (09 R302). -/
def FloatFmt.convert (f : FloatFmt) (mode : Nat) (a : FVal) : FRes :=
  match a with
  | .nan _ => f.nanOf [a]
  | .inf s => { bits := f.inf s, flags := 0 }
  | .num s m x => if m == 0 then { bits := f.sign s, flags := 0 } else f.roundNum mode s m x

/-- A whole number converted to a float format (09 R302). -/
def FloatFmt.ofInt (f : FloatFmt) (mode : Nat) (i : Int) : FRes := f.round mode (decide (i < 0)) i.natAbs 1

/-- A float converted to a whole number of a width, as its bit pattern (09 R302). -/
def toIntType (width : Nat) (signed : Bool) (mode : Nat) (a : FVal) : FRes :=
  let lo : Int := if signed then -(2 ^ (width - 1) : Nat) else 0
  let hi : Int := if signed then (2 ^ (width - 1) - 1 : Nat) else (2 ^ width - 1 : Nat)
  let pat (i : Int) : Nat := (i % (2 ^ width : Nat)).toNat
  match a with
  | .nan _ => { bits := 0, flags := flagIV }
  | .inf s => { bits := pat (if s then lo else hi), flags := flagIV }
  | .num s m x =>
    let (r, inexact) := if decide (0 ≤ x) then (m * 2 ^ x.toNat, false) else roundFrac mode s m (2 ^ (-x).toNat)
    let v : Int := if s then -(r : Int) else r
    if v < lo then { bits := pat lo, flags := flagIV }
    else if hi < v then { bits := pat hi, flags := flagIV }
    else { bits := pat v, flags := if inexact then flagNX else 0 }

/-! The approximated functions (09 R299, R300): an interval that holds the exact value, in units of 2^-p, is narrowed
until both its ends round alike. -/

/-- Terms of a series: t, t × a / b_1 / 2^p, and so on, as many as given. -/
def seriesSum (p a : Nat) (alt : Bool) (step : Nat → Nat) : Nat → Nat → Int → Nat → Int
  | 0, _, acc, _ => acc
  | n + 1, i, acc, t =>
    let t' := t * a / 2 ^ p / step i
    seriesSum p a alt step n (i + 1) (if alt && i % 2 == 1 then acc - t' else acc + t') t'

/-- arctan of 1 / n, or arctanh of it, in units of 2^-p. -/
def inverseSum (p n : Nat) (alt : Bool) : Nat → Nat → Int → Nat → Int
  | 0, _, acc, _ => acc
  | k + 1, i, acc, t =>
    let t' := t / (n * n)
    let u : Int := (t' / (2 * i + 1) : Nat)
    inverseSum p n alt k (i + 1) (if alt && i % 2 == 1 then acc - u else acc + u) t'

/-- arctan (alternating) or arctanh of 1 / n. -/
def invFix (p n : Nat) (alt : Bool) : Int := inverseSum p n alt p 1 (2 ^ p / n : Nat) (2 ^ p / n)

/-- π / 2 in units of 2^-p, by Machin's formula. -/
def halfPi (p : Nat) : Nat := (8 * invFix p 5 true - 2 * invFix p 239 true).toNat

/-- ln 2 in units of 2^-p: 2 arctanh (1/3). -/
def ln2Fix (p : Nat) : Nat := (2 * invFix p 3 false).toNat

/-- exp of a / 2^p, for a below 2^p, in units of 2^-p. -/
def expFix (p a : Nat) : Nat := (seriesSum p a false (fun i => i) p 1 (2 ^ p : Nat) (2 ^ p)).toNat

/-- arctanh of a / 2^p in units of 2^-p. -/
def atanhFix (p a : Nat) : Nat :=
  let rec go : Nat → Nat → Nat → Nat → Nat
    | 0, _, acc, _ => acc
    | n + 1, i, acc, t =>
      let t' := t * a / 2 ^ p * a / 2 ^ p
      go n (i + 1) (acc + t' / (2 * i + 1)) t'
  go p 1 a a

/-- The error allowed for, in units of 2^-p: above the sum of the truncations of every term. -/
def slack (p : Nat) : Nat := 64 * p

/-- The absolute value of the sine or cosine of a / 2^p for a from 0 to π/2, in units of 2^-p. -/
def trigFix (p a : Nat) (cosine : Bool) : Int :=
  let a2 := a * a / 2 ^ p
  if cosine then seriesSum p a2 true (fun i => (2 * i - 1) * (2 * i)) p 1 (2 ^ p : Nat) (2 ^ p)
  else seriesSum p a2 true (fun i => (2 * i) * (2 * i + 1)) p 1 (a : Int) a

/-- The functions of 09 R299 but frcp and frsq. -/
inductive ApproxFn where
  | exp2 | log2 | sin | cos | tanh
  deriving DecidableEq, Repr

/-- An interval for the function at ± m × 2^x (m non-zero), in units of 2^-p times 2^k: low, high, k.
(DESIGN CHOICE, notes/assumptions/9.md.) -/
def ApproxFn.bounds (fn : ApproxFn) (p : Nat) (s : Bool) (m : Nat) (x : Int) : Int × Int × Int :=
  let fix : Nat := m * 2 ^ (x + (p : Int)).toNat / 2 ^ (-(x + (p : Int))).toNat
  let e := (slack p : Int)
  match fn with
  | .exp2 =>
    let v : Int := if s then -(fix : Int) else fix
    let k := v / (2 ^ p : Nat)
    let r := (v % (2 ^ p : Nat)).toNat
    let y : Int := expFix p (r * ln2Fix p / 2 ^ p)
    (y - e, y + e, k)
  | .log2 =>
    let k : Int := (m.log2 : Int) + x
    let z := m * 2 ^ p / 2 ^ m.log2
    let y := 2 * atanhFix p ((z - 2 ^ p) * 2 ^ p / (z + 2 ^ p))
    let v : Int := k * (2 ^ p : Nat) + (y * 2 ^ p / ln2Fix p : Nat)
    (v - 4 * e, v + 4 * e, 0)
  | .tanh =>
    if decide (64 * 2 ^ p ≤ fix) then
      let v : Int := (2 ^ p : Nat)
      let lo := v - (2 ^ (p - 100) : Nat)
      if s then (-v, -lo, 0) else (lo, v, 0)
    else
      -- 1 - 2 / (exp (2 a) + 1), with exp (2 a) = 2^q × exp r
      let t := 2 * fix
      let q := t / ln2Fix p
      let ex := expFix p (t - q * ln2Fix p) * 2 ^ q
      let v : Int := (2 ^ p : Nat) - ((2 * 2 ^ p * 2 ^ p / (ex + 2 ^ p) : Nat) : Int)
      let w := if s then -v else v
      (w - 256 * e, w + 256 * e, 0)
  | .sin | .cos =>
    let g := p + 160
    let big := m * 2 ^ (x + (g : Int)).toNat / 2 ^ (-(x + (g : Int))).toNat
    -- π/2 to enough places for the whole part of the quotient
    let h := g + 160
    let q := big * 2 ^ (h - g) / halfPi h
    let r := (big * 2 ^ (h - g) - q * halfPi h) / 2 ^ (h - p)
    let j := (q + (if fn == .cos then 1 else 0)) % 4
    let y := trigFix p r (j % 2 == 1)
    let y := if decide (2 ≤ j) then -y else y
    let y := if s && fn == .sin then -y else y
    (y - e, y + e, 0)

/-- Round an interval end. -/
def FloatFmt.roundEnd (f : FloatFmt) (p : Nat) (v k : Int) : Nat × Bool × Bool × Bool :=
  if v == 0 then (0, true, true, false)
  else
    let t := (p : Int) - k
    f.roundTo 0 (decide (v < 0)) (v.natAbs * 2 ^ (-t).toNat) (2 ^ t.toNat)

/-- Narrow the interval until both ends round alike; the fuel is more than any source needs
(notes/assumptions/9.md). -/
def FloatFmt.narrow (f : FloatFmt) (fn : ApproxFn) (s : Bool) (m : Nat) (x : Int) : Nat → Nat → FRes
  | 0, _ => { bits := 0, flags := flagNX }
  | n + 1, p =>
    let (lo, hi, k) := fn.bounds p s m x
    let a := f.roundEnd p lo k
    let b := f.roundEnd p hi k
    if decide (lo < 0) == decide (hi < 0) && a.1 == b.1 && a.2.2 == b.2.2 then
      { bits := a.1, flags := flagNX + (if a.2.2.1 then flagUF else 0) + (if a.2.2.2 then flagOF else 0) }
    else f.narrow fn s m x n (2 * p)

/-- 1 ÷ a (09 R299, R300). -/
def FloatFmt.rcp (f : FloatFmt) (a : FVal) : FRes :=
  match a with
  | .nan _ => f.nanOf [a]
  | .inf s => { bits := f.sign s, flags := 0 }
  | .num s m x =>
    if m == 0 then { bits := f.inf s, flags := flagDZ }
    else f.round 0 s (2 ^ (-x).toNat) (m * 2 ^ x.toNat)

/-- 1 ÷ √a (09 R299, R300). -/
def FloatFmt.rsq (f : FloatFmt) (a : FVal) : FRes :=
  match a with
  | .nan _ => f.nanOf [a]
  | .inf s => if s then f.invalid else { bits := f.sign false, flags := 0 }
  | .num s m x =>
    if m == 0 then { bits := f.inf s, flags := flagDZ }
    else if s then f.invalid
    else
      let r := sqrtFrac (2 ^ (-x).toNat) (m * 2 ^ x.toNat)
      f.round 0 false r.1 r.2

/-- 2^a (09 R299, R300): whole powers exactly, and beyond every format only the overflow or underflow. -/
def FloatFmt.exp2 (f : FloatFmt) (a : FVal) : FRes :=
  match a with
  | .nan _ => f.nanOf [a]
  | .inf s => { bits := if s then f.sign false else f.inf false, flags := 0 }
  | .num s m x =>
    if m == 0 then { bits := f.one false, flags := 0 }
    else if decide (400 * 2 ^ (-x).toNat ≤ m * 2 ^ x.toNat) then
      f.roundNum 0 false 1 (if s then -400 else 400)
    else if m * 2 ^ x.toNat % 2 ^ (-x).toNat == 0 then
      let i : Int := (m * 2 ^ x.toNat / 2 ^ (-x).toNat : Nat)
      f.roundNum 0 false 1 (if s then -i else i)
    else f.narrow .exp2 s m x 8 64

/-- log2 a (09 R299, R300). -/
def FloatFmt.log2 (f : FloatFmt) (a : FVal) : FRes :=
  match a with
  | .nan _ => f.nanOf [a]
  | .inf s => if s then f.invalid else { bits := f.inf false, flags := 0 }
  | .num s m x =>
    if m == 0 then { bits := f.inf true, flags := flagDZ }
    else if s then f.invalid
    else if 2 ^ m.log2 == m then f.ofInt 0 ((m.log2 : Int) + x)
    else f.narrow .log2 s m x 8 64

/-- sin a or cos a (09 R299, R300). -/
def FloatFmt.trig (f : FloatFmt) (cosine : Bool) (a : FVal) : FRes :=
  match a with
  | .nan _ => f.nanOf [a]
  | .inf _ => f.invalid
  | .num s m x =>
    if m == 0 then { bits := if cosine then f.one false else f.sign s, flags := 0 }
    else f.narrow (if cosine then .cos else .sin) s m x 8 64

/-- tanh a (09 R299, R300). -/
def FloatFmt.tanh (f : FloatFmt) (a : FVal) : FRes :=
  match a with
  | .nan _ => f.nanOf [a]
  | .inf s => { bits := f.one s, flags := 0 }
  | .num s m x => if m == 0 then { bits := f.sign s, flags := 0 } else f.narrow .tanh s m x 8 64

/-! Block formats (09 R287, R289). -/

/-- floor of log2 of the largest magnitude, for values not all zero. -/
def topExp (l : List FVal) : Option Int :=
  l.foldl (fun acc v => match v with
    | .num _ m x => if m == 0 then acc else
        let e := (m.log2 : Int) + x
        some (match acc with
          | none => e
          | some y => max e y)
    | _ => acc) none

/-- The exponent of a packed block (09 R289). -/
def xbExp (l : List FVal) : Nat :=
  if l.any fun v => match v with
      | .num _ _ _ => false
      | _ => true
  then 0xFF
  else
    match topExp l with
    | none => 0
    | some e => (min 254 (max 0 (e + 128))).toNat

/-- A mantissa of a packed block, and whether it reads back as another value (09 R289, R303). -/
def xbMant (m e : Nat) (v : FVal) : Int × Bool :=
  match v with
  | .num s a x =>
    if e == 0xFF then (0, false)
    else
      let sh : Int := x + (m : Int) - 1 - ((e : Int) - 127)
      let (r, inexact) := roundFrac 0 s (a * 2 ^ sh.toNat) (2 ^ (-sh).toNat)
      let w : Int := if s then -(r : Int) else r
      let c := min ((2 ^ (m - 1) : Nat) - 1 : Int) (max (-(2 ^ (m - 1) : Nat)) w)
      (c, inexact || c != w)
  | _ => (0, false)

/-- The value of a block element (09 R287). -/
def xbValue (m e : Nat) (mant : Int) : FVal :=
  if e == 0xFF then .nan false
  else .num (decide (mant < 0)) mant.natAbs ((e : Int) - 127 - ((m : Int) - 1))

/-- The element read back into a float format (09 R304). -/
def FloatFmt.unpack (f : FloatFmt) (mode m e : Nat) (mant : Int) : FRes :=
  if e == 0xFF then { bits := f.nan, flags := 0 }
  else if mant == 0 then { bits := 0, flags := 0 }
  else f.convert mode (xbValue m e mant)

end Sys2Proof.Machine
end

