-- ==== Sys2Proof/Machine/Maps.lean ====
section
/-!
DEFINITION. Reading and changing finite maps. A map keeps its keys in strictly rising order, so equal maps are equal
lists.
-/
namespace Sys2Proof

/-- The value at a key. -/
def FMap.get {α : Type} : FMap α → Nat → Option α
  | [], _ => none
  | (j, a) :: r, k => if j = k then some a else FMap.get r k

/-- The value at a key, or a default. -/
def FMap.getD {α : Type} (m : FMap α) (k : Nat) (d : α) : α := (FMap.get m k).getD d

/-- Put a value at a key. -/
def FMap.set {α : Type} : FMap α → Nat → α → FMap α
  | [], k, a => [(k, a)]
  | (j, b) :: r, k, a =>
    if k < j then (k, a) :: (j, b) :: r
    else if j = k then (k, a) :: r
    else (j, b) :: FMap.set r k a

/-- Drop a key. -/
def FMap.erase {α : Type} : FMap α → Nat → FMap α
  | [], _ => []
  | (j, b) :: r, k => if j = k then FMap.erase r k else (j, b) :: FMap.erase r k

/-- Change the value at a key, if there is one. -/
def FMap.modify {α : Type} : FMap α → Nat → (α → α) → FMap α
  | [], _, _ => []
  | (j, b) :: r, k, f => if j = k then (j, f b) :: r else (j, b) :: FMap.modify r k f

/-- Put or drop a key. -/
def FMap.put {α : Type} (m : FMap α) (k : Nat) (a : Option α) : FMap α :=
  match a with
  | some x => FMap.set m k x
  | none => FMap.erase m k

/-- Whether a key is there. -/
def FMap.has {α : Type} (m : FMap α) (k : Nat) : Bool := (FMap.get m k).isSome

/-- The keys, rising. -/
def FMap.keys {α : Type} (m : FMap α) : List Nat := m.map (·.1)

/-- The values, by rising key. -/
def FMap.values {α : Type} (m : FMap α) : List α := m.map (·.2)

/-- Change every value. -/
def FMap.mapV {α β : Type} (m : FMap α) (f : Nat → α → β) : FMap β := m.map fun p => (p.1, f p.1 p.2)

/-- Keep the entries that pass. -/
def FMap.keep {α : Type} (m : FMap α) (p : Nat → α → Bool) : FMap α := m.filter fun e => p e.1 e.2

/-- The lowest free key below a bound. -/
def FMap.freeKey {α : Type} (m : FMap α) (bound : Nat) : Option Nat :=
  (List.range bound).find? fun k => !FMap.has m k

/-- Keys strictly rising from a bound. -/
def FMap.sorted {α : Type} : FMap α → Bool
  | [] => true
  | [_] => true
  | (j, _) :: (k, b) :: r => decide (j < k) && FMap.sorted ((k, b) :: r)

/-- Bytes, lowest address first, of a value. -/
def bytesOf (n v : Nat) : List Byte := (List.range n).map fun i => BitVec.ofNat 8 (v >>> (8 * i))

/-- The little-endian value of bytes (00 R6). -/
def leOf (l : List Byte) : Nat := l.foldr (fun b v => b.toNat + 256 * v) 0

/-- A sum of values. -/
def sumNat (l : List Nat) : Nat := l.foldl (· + ·) 0

/-- Bits [lo + n - 1 : lo] of a number. -/
def bitsAt (v lo n : Nat) : Nat := v / 2 ^ lo % 2 ^ n

/-- One bit of a number. -/
def bitAt (v i : Nat) : Bool := v.testBit i

/-- A mask of the lanes that pass. -/
def maskOf (p : Nat → Bool) : Mask :=
  BitVec.ofNat 96 ((List.range 96).foldl (fun m i => if p i then m ||| (1 <<< i) else m) 0)

/-- The lanes of a mask, rising. -/
def lanesOf (m : Mask) : List Nat := (List.range 96).filter fun i => m.getLsbD i

/-- The lowest lane of a mask. -/
def lowLane (m : Mask) : Option Nat := (List.range 96).find? fun i => m.getLsbD i

/-- The highest lane of a mask. -/
def highLane (m : Mask) : Option Nat := ((List.range 96).filter fun i => m.getLsbD i).getLast?

/-- The number of lanes of a mask. -/
def countLanes (m : Mask) : Nat := (lanesOf m).length

/-- Word i of a mask: lanes 32 i to 32 i + 31. -/
def maskWord (m : Mask) (i : Nat) : Word := m.extractLsb' (32 * i) 32

/-- A mask from its three words. -/
def maskFrom (w0 w1 w2 : Word) : Mask := w2 ++ w1 ++ w0

/-- The lanes of one mask all in another. -/
def subMask (a b : Mask) : Bool := a &&& ~~~b == 0

/-- A saturating count. -/
def satAdd (bound a b : Nat) : Nat := Nat.min bound (a + b)

/-- The signed value of the low w bits of x. -/
def toSigned (w x : Nat) : Int := if x % 2 ^ w < 2 ^ (w - 1) then (x % 2 ^ w : Nat) else (x % 2 ^ w : Nat) - (2 ^ w : Nat)

/-- The lanes given by a function of the lane number. -/
def lanesFrom (f : Nat → Word) : Lanes := Vector.ofFn fun i : Fin 96 => f i.val

/-- One lane of a vector register. -/
def Lanes.at (l : Lanes) (i : Nat) : Word := l.toArray.getD i 0

/-- Every lane the same. -/
def Lanes.splat (x : Word) : Lanes := lanesFrom fun _ => x

/-- Take the lanes of a mask from one vector, and the rest from another. -/
def Lanes.merge (m : Mask) (new old : Lanes) : Lanes :=
  lanesFrom fun i => if m.getLsbD i then new.at i else old.at i

end Sys2Proof
end

