-- ==== Sys2Proof/Config.lean ====
section
/-!
DEFINITION. What one package fixes and the values the spec leaves open. An opaque constant has no body: nothing can
be proved about its value, so whatever is proved holds for every value (notes/assumptions/4.md, 7.md).
-/
namespace Sys2Proof.Config

/-- FREE VALUE. The value of an overlapped destination word of an engine operation (12 R379).
(DESIGN CHOICE, notes/assumptions/4.md.) -/
opaque freeWord : Nat → BitVec 32
/-- FREE VALUE. Which of several free things the device takes where the spec does not say.
(DESIGN CHOICE, notes/assumptions/4.md.) -/
opaque choice : Nat → Nat
/-- FREE VALUE. The remap handle that a fault queue, HALTED or a partition error names, by source (16 R478).
(DESIGN CHOICE, notes/assumptions/61.md.) -/
opaque irqHandle : Nat → BitVec 16
/-- FREE VALUE. The bytes of a saved image whose place the spec does not give (13 R407). -/
opaque freeImageByte : Nat → BitVec 8
/-- FREE VALUE. The entry of a disagreeing CONT group that the device translates by (01 R30). -/
opaque contChoice : Nat → BitVec 4
/-- FUSED. How far PLIM.WATTS lies above 600 at reset; the register reads 600 plus this (15 R449).
(DESIGN CHOICE, notes/assumptions/7.md.) -/
opaque plimAbove : Fin 2201
/-- The fused PLIM.WATTS. -/
def plimFused : BitVec 12 := BitVec.ofNat 12 (600 + plimAbove.val)
/-- FREE VALUE. What the meters of a die tell its telemetry: its mean power in milliwatts (0), its energy in microjoules (1) and its
highest predicted temperature (2) of a millisecond, numbered 4 × millisecond + die (15 R461).
(DESIGN CHOICE, notes/assumptions/3.md.) -/
opaque meter : Nat → Nat → Nat
/-- FUSED. How far TLIM lies above the lowest temperature of its field (15 R453). -/
opaque tlimAbove : Fin 65534
/-- FUSED. Which of the temperatures above TLIM, the last one left out, TTRIP is (15 R453). -/
opaque ttripAbove : Nat
/-- FUSED. Which of the temperatures above TTRIP TCRIT is (15 R453). -/
opaque tcritAbove : Nat
/-- TLIM in 1/16 degree (15 R453). -/
def tlimAt : Int := (tlimAbove.val : Int) - 32768
/-- TTRIP in 1/16 degree: above TLIM (15 R453). -/
def ttripAt : Int := tlimAt + 1 + (ttripAbove : Int) % (32766 - tlimAt)
/-- TCRIT in 1/16 degree: above TTRIP (15 R453). -/
def tcritAt : Int := ttripAt + 1 + (tcritAbove : Int) % (32767 - ttripAt)
/-- The register TLIM, two's complement (15 R453). (DESIGN CHOICE, notes/assumptions/7.md.) -/
def tlim : BitVec 16 := BitVec.ofInt 16 tlimAt
/-- The register TTRIP (15 R453). -/
def ttrip : BitVec 16 := BitVec.ofInt 16 ttripAt
/-- The register TCRIT (15 R453). -/
def tcrit : BitVec 16 := BitVec.ofInt 16 tcritAt
/-- FUSED. The energy of a lane-beat-cycle (0), a matrix plane-cycle (1), a scratchpad access (2) and a register bank access (3) in
a power estimate, in picojoules (15 R451). (DESIGN CHOICE, notes/assumptions/137.md.) -/
opaque eventEnergy : Nat → Nat
/-- FUSED. The leakage of a cluster over a controller period, by its voltage step (15 R451). -/
opaque leakage : Nat → Nat
/-- FUSED. HARVEST, bit c for physical cluster c (16 R462, R476). -/
opaque harvest : BitVec 32
/-- FUSED. The rollback counter of the firmware (16 R484). -/
opaque rollback : BitVec 64
/-- FREE VALUE. The SHA-512 digest of a firmware image, byte i (16 R484, R486). -/
opaque imageDigest : Nat → Nat → BitVec 8
/-- FREE VALUE. The signature bytes of the n-th attestation report (16 R486). -/
opaque signature : Nat → Nat → BitVec 8
/-- FREE VALUE. What the n-th verification of an image finds (16 R484). -/
opaque verify : Nat → BitVec 4

/-- The feature bits that FEATCAP offers, 16 R482 and R483: all seven (DESIGN CHOICE, notes/assumptions/5.md). -/
def featcap : BitVec 64 := 0x7F#64
/-- Lanes of a warp (05 R161). -/
def lanes : Nat := 96
/-- Warp slots of a core (05 R162). -/
def warpSlots : Nat := 24
/-- Split-table entries and reconvergence records of a warp (05 R165). -/
def fragEntries : Nat := 8
/-- Speculation records of a warp (06 R208). -/
def specRecords : Nat := 4
/-- Entries of the speculative store queue of an issue slot (06 R221). -/
def storeQueue : Nat := 32
/-- Physical vector registers of the speculation pool of a core (05 R175). -/
def specPool : Nat := 256
/-- Physical vector registers that serve architectural and trap-bank names (05 R175). -/
def archRegs : Nat := 1792
/-- Folio-table slots of a core (02 R57). -/
def folioSlots : Nat := 4096
/-- Units of 512 bytes in the sewn region (02 R55). -/
def sewnUnits : Nat := 512
/-- Walks a die's walker holds (01 R50). -/
def walkSlots : Nat := 256
/-- Entries of a die's miss queue (01 R50). -/
def missSlots : Nat := 1024
/-- Entries of a die's fault pending table (01 R45). -/
def pendSlots : Nat := 1024
/-- Quanta of a warp (04 R147). -/
def quanta : Nat := 16
/-- Accumulator tiles of a core (00 R4). -/
def coreTiles : Nat := 128
/-- HBM bytes of the package (01 R24). -/
def hbmBytes : Nat := 0x80_0000_0000
/-- First address of host memory (01 R24). -/
def hostBase : Nat := 0x1_0000_0000_0000
/-- First address past the physical map (01 R24). -/
def paEnd : Nat := 0x10_0000_0000_0000

end Sys2Proof.Config
end

