-- ==== Sys2Proof/Machine/State.lean ====
section
/-!
DEFINITION. The state of the package as plain data: every piece of state the spec names (INVENTORY.md, State), what
the model adds (agenda, cur, freeCount), the reasons a step stops, and the state after reset. Finite maps list only
what differs from the value at creation; every register a map does not list holds that value.
-/
namespace Sys2Proof.Machine

/-- A context of the package: 4,096 × partition + identifier (16 R465). -/
abbrev CtxKey := Nat
/-- A launch of the package: 2^32 × partition + launch identifier (14 R412). -/
abbrev LaunchKey := Nat

/-- Why the machine stops with a fault. -/
inductive Fault where
  /-- A unit of the device that writes a record of its own (a ring, a table, a record) was given an address in the
  hole of the physical map or beyond it, where 01 R24 says nothing exists. Safe: the spec gives no effect. -/
  | deviceHole (pa : Nat)
  deriving DecidableEq, Repr

/-- Why the machine refuses an instruction. -/
inductive Refusal where
  /-- Raised by the dispatcher for a row that has no meaning yet. Safe: nothing is claimed of it. -/
  | notModelled (mnemonic : String)
  deriving DecidableEq, Repr

/-- What one instruction or event answers. -/
abbrev Answer (σ : Type) := Host.Outcome σ Fault Refusal

/-- The states of a fragment (05 R165). -/
inductive FragState where
  | ready | speculative | parked | waiting
  deriving DecidableEq, Repr

/-- What a WAITING fragment waits for (05 R165), with what the wait needs to end. -/
inductive Wait where
  | none
  | record
  | bar (b : Nat)
  /-- the lanes had already arrived in the phase; the instruction issues again when the phase completes -/
  | barAgain (b : Nat)
  | barw (b : Nat)
  | collective
  /-- a tret that waits for the parked lanes of its handler (05 R186) -/
  | tret
  | wcnt (cls n : Nat)
  | folioState (handle : Word) (dst : Operand) (limit : Option Nat)
  | folioWord (handle : Word) (off : Nat) (value : Word) (dst : Operand) (limit : Option Nat)
  | capacity (base : Nat) (dst : Operand) (limit : Option Nat)
  | grget (record : Nat) (dst : Operand)
  | grputRes (record : Nat) (dst : Operand)
  | sleep (limit : Nat)
  /-- lock retry, for a bit of a bank (03 R101, R102) -/
  | lock (bank : Nat)
  deriving DecidableEq, Repr

/-- A fault ID a parked fragment is attached to: its lanes, the lowest faulting address, the answer if given
(true for FATAL) (01 R40). -/
structure FidRef where
  fid : BitVec 16
  lanes : Mask
  va : Dword
  answer : Option Bool
  /-- an operand read of an mmac: a FATAL answer is a MATRIX_OPERAND trap (12 R367) -/
  matrix : Bool
  deriving DecidableEq, Repr

/-- A kind of access to translated memory (01 R41). -/
inductive Acc where
  | load | store | atomic | fetch | engineRead | engineWrite | tableRead | adUpdate
  deriving DecidableEq, Repr

/-- A page whose walk ended in a fault that is not to be waited for, with the trap it gives (01 R24, R26, R38).
(DEDUCED, notes/assumptions/82.md.) -/
structure FatalNote where
  stage : Nat
  page : Nat
  acc : Acc
  cause : BitVec 8
  sub : BitVec 8
  /-- the fault ID whose reply decides whether it counts; none once it does (01 R40, R51) -/
  fid : Option (BitVec 16)
  deriving DecidableEq, Repr

/-- A quire record (12 R359): V, GEN and its eight words with V and GEN masked out. -/
structure Quire where
  gen : BitVec 16
  valid : Bool
  words : List Dword
  deriving DecidableEq, Repr

/-- A split-table entry in use (05 R165), with the level it runs at and what its state needs. -/
structure Frag where
  state : FragState
  lvl : Nat
  rpl : Bool
  held : Bool
  trm : Bool
  pc : SlotAddr
  rcd : Option Nat
  wait : Wait
  ptrap : BitVec 8
  mask : Mask
  pend : Mask
  /-- privilege level (07 R248, 14 R431) -/
  priv : Nat
  fids : List FidRef
  notes : List FatalNote
  /-- TRAPCTL.STEP applied: trap after one instruction (13 R399) -/
  step : Bool
  /-- the instruction of a step has completed: trap before the next (13 R398) -/
  stepped : Bool
  /-- slot cycles READY without issuing (05 R199) -/
  age : Nat
  /-- stopped by a deferred trap or fault until its level is 0 (06 R220) -/
  deferred : Bool
  /-- the side of each speculation record it descends from, true for target (06 R208) -/
  sides : FMap Bool
  /-- the slot it stands at is still to be checked as a target, for the transfer from this slot (07 R232, R249) -/
  entry : Option SlotAddr
  /-- a release waits for the queue entries of its warp below this number (04 R149) -/
  behind : Option Nat
  /-- the records that an mmac read when it issued, while it waits to start (12 R363) -/
  quires : Option (Quire × Quire)
  /-- by lane: what the half already performed of a 16-byte access read (04 R130) -/
  half : FMap Nat
  deriving DecidableEq, Repr

/-- A reconvergence record in use (05 R166). -/
structure Rec where
  addr : SlotAddr
  expect : Mask
  arrive : Mask
  outer : Option Nat
  deriving DecidableEq, Repr

/-- A physical vector register held by a name: its lanes and its dead mask (05 R175, R176). -/
structure VReg where
  val : Lanes
  dead : Mask
  deriving DecidableEq, Repr

/-- Where a byte of memory lives: a physical address, or an offset in a folio-table slot of a core. -/
inductive Loc where
  | global (pa : Nat)
  | folio (slot : Nat) (off : Nat)
  deriving DecidableEq, Repr

/-- A merged .qnt quantum (04 R147). -/
structure Quantum where
  loc : Loc
  /-- the folio-table slot of the target, if it is a folio -/
  target : Option Nat
  aop : Nat
  bytes : Nat
  scope : Nat
  sx : Bool
  value : Nat
  since : Nat
  /-- the page table entries whose D bit its write sets (01 R31) -/
  dirty : List Nat
  deriving DecidableEq, Repr

/-- A quantum discarded with its folio (02 R82). -/
structure LostQuantum where
  handle : Word
  off : Nat
  scope : Nat
  deriving DecidableEq, Repr

/-- A compensation owed for a squashed .spec atomic, or the atomic it would undo (04 R148). -/
structure Comp where
  lane : Nat
  loc : Loc
  bytes : Nat
  isXor : Bool
  value : Nat
  deriving DecidableEq, Repr

/-- A shadow vector register of a speculation record (06 R214). -/
structure Shadow where
  written : Mask
  val : Lanes
  deriving DecidableEq, Repr

/-- A shadow k register (06 R217). -/
structure KShadow where
  written : Mask
  bits : Mask
  deriving DecidableEq, Repr

/-- A speculation record in use (06 R208). -/
structure SpecRec where
  lvl : Nat
  parent : Option Nat
  mask : Mask
  pred : Mask
  pc : SlotAddr
  tgt : SlotAddr
  fall : SlotAddr
  guardK : Nat
  guardN : Bool
  hint : BitVec 2
  rcd : Nat
  reserved : List Nat
  shadows : FMap Shadow
  kshadows : FMap KShadow
  /-- FFLAGS bits raised by each set of lanes (06 R217) -/
  flags : List (Mask × Word)
  /-- last reads of v names by lanes (06 R216) -/
  lastReads : List (Nat × Mask)
  atomics : List Comp
  deriving DecidableEq, Repr

/-- An outstanding write of a k register by an instruction of a fragment (05 R173). -/
structure KPend where
  frag : Nat
  /-- the mask of the fragment that issued the write (06 R202) -/
  owner : Mask
  k : Nat
  lanes : Mask
  bits : Mask
  /-- the innermost speculation record of the writer at its issue, while it is in use (06 R217, 20 R501) -/
  record : Option Nat
  deriving DecidableEq, Repr

/-- An outstanding write of a v register: a late result of a load, an atomic or an mxv (05 R178, R180; 20 R501). -/
structure VPend where
  /-- the name: n in the ordinary bank, 64 + n in the trap bank -/
  name : Nat
  lanes : Mask
  val : Lanes
  /-- the innermost speculation record of the writer at its issue, while it is in use: it lands in that record's shadow -/
  record : Option Nat
  deriving DecidableEq, Repr

/-- One lane of a queued speculative store or atomic (06 R221). -/
structure QLane where
  lane : Nat
  loc : Loc
  data : Nat
  data2 : Nat
  /-- the page table entries whose D bit its write sets (01 R31) -/
  dirty : List Nat
  deriving DecidableEq, Repr

/-- An entry of the speculative store queue (06 R221). -/
structure SQEntry where
  warp : Nat
  /-- its number among the entries of its warp (04 R149) -/
  seq : Nat
  /-- the innermost speculation record at its issue, while it is in use -/
  record : Option Nat
  pc : SlotAddr
  bytes : Nat
  scope : Nat
  /-- the AOP, SX and destination of an atomic -/
  atomic : Option (Nat × Bool × Operand)
  lanes : List QLane
  deriving DecidableEq, Repr

/-- A trap to be taken by a fragment (05 R183); a TRAPINFO word that its cause does not define is not taken from it. -/
structure TrapReq where
  cause : BitVec 8
  sub : BitVec 8
  pc : SlotAddr
  mask : Mask
  info0 : Word
  info1 : Word
  /-- the HANDLER field of the lost folio (02 R87) -/
  folio : Option Dword
  deriving DecidableEq, Repr

/-- The handler a warp was entered at (11 R345). -/
inductive Handler where
  | folio | kernel | supervisor
  deriving DecidableEq, Repr

/-- The trap state of a warp (05 R183, 13 R396, R398). -/
structure TrapRegs where
  mode : Bool
  handler : Handler
  pc : SlotAddr
  /-- the value TRAPPC received at entry (07 R232) -/
  entryPc : SlotAddr
  cause : BitVec 8
  sub : BitVec 8
  mask : Mask
  info0 : Word
  info1 : Word
  /-- the pending lanes of the trapping fragment's instruction (01 R40) -/
  pend : Mask
  frag : Nat
  elvl : Nat
  exitl : Bool
  step : Bool
  deriving DecidableEq, Repr

/-- A failed engine operation whose status the warp has not yet met (02 R83, 11 R342). -/
structure EngineFail where
  cls : Nat
  seq : Nat
  status : Nat
  info0 : Word
  info1 : Word
  deriving DecidableEq, Repr

/-- The engine counters of a warp and how many operations it has issued in each class (04 R153). -/
structure Counters where
  cp : Nat
  st : Nat
  rm : Nat
  cpIssued : Nat
  stIssued : Nat
  rmIssued : Nat
  deriving DecidableEq, Repr

/-- A resident warp (05 R162 to R174). -/
structure Warp where
  /-- distinguishes warps that use one slot after each other -/
  uid : Nat
  wg : Nat
  index : Nat
  /-- the private index W of 01 R20 -/
  privIndex : Nat
  live : Mask
  frags : FMap Frag
  recs : FMap Rec
  s : FMap Word
  sTrap : FMap Word
  v : FMap VReg
  vTrap : FMap VReg
  k : FMap Mask
  f : FMap Word
  sflags : Word
  fflags : Word
  mprog : Word
  trap : TrapRegs
  /-- traps that wait for a relock or voltage move to end (15 R444) -/
  deferred : List (Nat × TrapReq)
  counters : Counters
  fails : List EngineFail
  quanta : List Quantum
  lostQuanta : List LostQuantum
  comps : List Comp
  /-- gathering slots reserved by grput.res and not filled, oldest first: record and slot (12 R386) -/
  reserved : List (Nat × Nat)
  /-- folio slots whose claim this warp lost without being told (02 R71) -/
  revoked : List Nat
  spec : FMap SpecRec
  /-- last-mask buffer, most recently used first (06 R205) -/
  lastMask : List (SlotAddr × Mask)
  kpend : List KPend
  vpend : List VPend
  /-- entries it has put in the speculative store queue (04 R149) -/
  queued : Nat
  /-- privilege level of the warp's context (14 R431) -/
  klvl : Nat
  /-- a WATCHDOG waits to be taken (05 R505) -/
  watchdog : Bool
  /-- a LOCK_TIMEOUT waits to be taken: lock key, owner lane and core clocks held (03 R104, 05 R505) -/
  lockOut : Option (Nat × Nat × Nat)
  /-- a ctxsv of this warp has commanded a save that has not ended (13 R403) -/
  saving : Bool
  deriving DecidableEq, Repr

/-- A hardware barrier (11 R339). -/
structure Barrier where
  phase : BitVec 16
  arr : List Nat
  mask : FMap Mask
  deriving DecidableEq, Repr

/-- A sewn reservation: its units at rank 7 (14 R428). -/
structure Sewn where
  start : Nat
  len : Nat
  deriving DecidableEq, Repr

/-- A workgroup resident on a core (14 R428). -/
structure Wg where
  launch : LaunchKey
  ctx : CtxKey
  linear : Nat
  x : Nat
  y : Nat
  z : Nat
  nx : Nat
  ny : Nat
  nz : Nat
  nwarps : Nat
  g : FMap Word
  bars : FMap Barrier
  tiles : Nat
  /-- element [r][q] of tile t at key 1024 t + 32 r + q (12 R355) -/
  tile : FMap Word
  live : Nat
  entry : SlotAddr
  handler : SlotAddr
  privsz : Nat
  pbase : Dword
  args : Dword
  prio : Nat
  sewn : Option Sewn
  /-- indices of the warps that have exited -/
  exited : List Nat
  /-- pre-emption asked for, with the instant of the forced save (14 R435) -/
  preempt : Option Nat
  /-- the save is frozen on the answer to this fault ID (13 R409) -/
  frozen : Option (BitVec 16)
  /-- the timeout has passed: the save is forced (14 R435, 01 R48) -/
  forced : Bool
  /-- where a ctxsv saves it (13 R403) -/
  saveIpa : Option Nat
  /-- the place of the image being written, its number, and its pages that are written (13 R409) -/
  image : Option (Nat × Nat × Nat)
  deriving DecidableEq, Repr

/-- The states of a folio (02 R57). -/
inductive FolioState where
  | free | bound | closing | lost | rebinding | backed
  deriving DecidableEq, Repr

/-- A folio-table entry (02 R57), with the context it belongs to (10 R308). (DEDUCED, notes/assumptions/120.md.) -/
structure Folio where
  gen : BitVec 16
  state : FolioState
  rank : Nat
  pers : Bool
  clm : Option Nat
  own : Option Nat
  /-- size in units of 512 bytes -/
  size : Nat
  start : Nat
  handler : Dword
  backing : Dword
  key : Word
  ctx : CtxKey
  /-- placed inside the sewn reservation of its workgroup (14 R428) -/
  inSewn : Bool
  deriving DecidableEq, Repr

/-- A lock bit held: the owner warp, the owner lane and the core clocks held (03 R101, R104). -/
structure Lock where
  warp : Nat
  lane : Nat
  since : Nat
  deriving DecidableEq, Repr

/-- A gathering record in use (03 R106). -/
structure Gath where
  handle : Word
  off : Nat
  slotsz : Nat
  nslot : Nat
  pi : Nat
  ci : Nat
  res : Nat
  fill : Nat
  held : Nat
  /-- reserved slots in order, each with whether its data is complete (03 R107) -/
  order : List (Nat × Bool)
  /-- the workgroup slot that bound it -/
  wg : Nat
  deriving DecidableEq, Repr

/-- An end of an engine operation (12 R380). -/
inductive End where
  | global (va : Nat)
  | loc (handle : Word) (off : Nat)
  | remote (pkg va : Nat)
  | gather (record off : Nat)
  deriving DecidableEq, Repr

/-- What an engine operation does (12 R380 to R390). -/
inductive OpKind where
  /-- rows, bytes a row, source and destination strides -/
  | copy (dst src : End) (rows rowLen sStride dStride : Nat)
  /-- rows by index, in order; none for zeros -/
  | gather (dst src : End) (rows : List (Option Nat)) (rowLen sStride : Nat)
  | stitch (record : Nat)
  /-- remote atomic: AOP, 64-bit, operand, swap value, where the old value goes -/
  | remoteAtomic (dst : End) (aop : Nat) (wide : Bool) (operand swap : Nat) (old : Option Nat)
  deriving DecidableEq, Repr

/-- An engine operation in flight (12 R377, R379). -/
structure EngineOp where
  warp : Nat
  warpUid : Nat
  ctx : CtxKey
  /-- issued at level 0 (01 R13, R29) -/
  level0 : Bool
  launch : LaunchKey
  cls : Nat
  seq : Nat
  kind : OpKind
  /-- words read and not yet written -/
  buf : FMap Word
  /-- words written -/
  done : List Nat
  /-- the line that it read or asked for last: its words there need no request of their own (15 R455) -/
  line : Option Nat
  /-- words of a remote source asked for (03 R120) -/
  asked : Nat
  /-- the lowest of its words that a LOST folio dropped, with the folio's handle and the offset there (02 R81, R86, 17 R496) -/
  lost : Option (Nat × Word × Word)
  /-- the gathering slot reserved for it -/
  slot : Option (Nat × Nat)
  waitsSlot : Bool
  /-- stitch: the record read, eight 64-bit words -/
  record : List Dword
  /-- the fault IDs that hold it -/
  fids : List (BitVec 16)
  /-- pages whose walk ended in a fatal fault for it -/
  notes : List FatalNote
  status : Option Nat
  info0 : Word
  info1 : Word
  deriving DecidableEq, Repr

/-- An mmac in its compute phase: the workgroup, the tile, and the rows its last results wait for (12 R365). -/
structure Compute where
  wg : Nat
  tile : Nat
  rows : FMap Word
  deriving DecidableEq, Repr

/-- A predictor entry (06 R204). -/
structure Pred where
  tag : BitVec 9
  kind : Nat
  conf : Nat
  deriving DecidableEq, Repr

/-- The capacity registers of a core (02 R56). -/
structure Cap where
  lit : Nat
  alloc : Nat
  pend : Bool
  emg : Bool
  grow : Bool
  target : Nat
  /-- the instant of the first close point, when one is to come -/
  closeAt : Option Nat
  seq : BitVec 16
  last : Nat
  deriving DecidableEq, Repr

/-- The event counters of a core (06 R227, 14 R433). -/
structure CoreEvents where
  mpred : Nat
  mphit : Nat
  mpsq : Nat
  mprln : Nat
  mpstall : Nat
  slip : Nat
  mpkill : Nat
  deriving DecidableEq, Repr

/-- A ballast series on a core (15 R459): its instants, the plane-cycles of the window it falls from, and that window. -/
structure Service where
  start : Nat
  stop : Nat
  level : Nat
  window : Nat
  deriving DecidableEq, Repr

/-- The matrix engine's governor, gating and ballast (12 R369 to R371, 13 R405). -/
structure Matrix where
  /-- window length W and budget B (12 R369) -/
  window : Nat
  budget : Nat
  /-- the window the charge belongs to, the charge, and that of the window before (15 R459) -/
  winIdx : Nat
  charge : Nat
  last : Nat
  mgov : Word
  gated : BitVec 4
  wake : BitVec 16
  /-- the core clock at which the waking sub-arrays are awake, and those (15 R458) -/
  wakeAt : Option Nat
  waking : BitVec 4
  /-- by sub-array: the REFTIME since which it has been idle (12 R370) -/
  idleSince : FMap Nat
  compute : Option Compute
  /-- an mmac of this warp waits for budget since this core clock (12 R369, R371) -/
  waitSince : Option (Nat × Nat)
  /-- the core clock at which an mmac first needed a gated sub-array (12 R370, 15 R458) -/
  wantWake : Option Nat
  /-- plane-cycles of ballast still to run (13 R405) -/
  ballast : Nat
  /-- ballast time not yet counted, in parts of a nanosecond as many as the clock's frequency in MHz -/
  ballastSub : Nat
  service : Option Service
  deriving DecidableEq, Repr

/-- A core (00 R4, 05 R162). -/
structure Core where
  warps : FMap Warp
  wgs : FMap Wg
  cap : Cap
  folios : FMap Folio
  pad : FMap Byte
  /-- 64-bit words of the scratchpad that hold an uncorrectable error not yet found (02 R93) -/
  padBad : List Nat
  /-- lock bits held, at key 64 × bank + index; bank 64 is the BACKED set (03 R100) -/
  locks : FMap Lock
  /-- by bank: the warp slot whose retry was served last (03 R102) -/
  lockTurn : FMap Nat
  gath : FMap Gath
  ops : FMap EngineOp
  cdc : FMap (List Byte)
  icache : FMap (List Byte)
  /-- lines that failed parity at their last fill, with the mismatch bits (07 R231) -/
  badLines : FMap Nat
  matrix : Matrix
  /-- predictor entries at key 512 × issue slot + index (06 R204) -/
  predictor : FMap Pred
  /-- speculative store queues by issue slot, oldest first (06 R221) -/
  storeQ : FMap (List SQEntry)
  /-- lines with outstanding requests: class, route and count (03 R120) -/
  lineClass : FMap (Nat × Nat × Nat)
  /-- the issue slot's fragment chosen by age (05 R199) -/
  urgent : FMap (Nat × Nat)
  events : CoreEvents
  /-- the vector registers allocated, by physical number, 128 × bank + index: the warp's number, and the name it serves
  (05 R175) -/
  phys : FMap (Nat × Nat)
  /-- the outstanding writes on registers of warps that have exited: the warp's number and the name, as in `phys` (05 R178) -/
  drain : List (Nat × Nat)
  /-- the falloc.c performed in one core clock, the last: that clock, the warp slot, the context and the key (17 R494) -/
  keyedAt : List (Nat × Nat × CtxKey × Word)
  deriving DecidableEq, Repr

/-- What a cluster's power estimate counts (15 R451). -/
structure Energy where
  /-- lane-beat-cycles performed -/
  lanes : Nat
  /-- those that skipped beats and gated lanes saved -/
  idle : Nat
  /-- matrix plane-cycles -/
  planes : Nat
  /-- scratchpad accesses -/
  pads : Nat
  /-- register bank accesses -/
  regs : Nat
  deriving DecidableEq, Repr

/-- A voltage and frequency target (15 R439). -/
structure Target where
  step : Nat
  freq : Nat
  deriving DecidableEq, Repr

/-- The phases of a move (15 R439, R442). -/
inductive Phase where
  | notice | closing | drained | relock | voltage | relight
  deriving DecidableEq, Repr

/-- A move in progress (15 R442); a capset is a move without target (13 R404). -/
structure Move where
  target : Option Target
  phase : Phase
  emg : Bool
  lit : Nat
  /-- the instant of the first close point -/
  closeAt : Nat
  /-- an emergency that starts from the first edge of the new clock (15 R454, 02 R80) -/
  after : Option Target
  deriving DecidableEq, Repr

/-- A cluster of eight cores (15 R438 to R455). -/
structure Cluster where
  step : Nat
  freq : Nat
  rawcyc : Nat
  /-- CYCLE in units of 1/4096 and the remainder programs do not see (15 R448) -/
  cyc : Nat
  acc : Nat
  /-- thousandths of a core clock passed since the last one -/
  sub : Nat
  mbox : Option Target
  ign : Nat
  move : Option Move
  hold : Option Target
  /-- every unit has read cool since (15 R454) -/
  coolSince : Option Nat
  /-- a unit has read at or above TTRIP at the lowest point since (15 R453) -/
  hotSince : Option Nat
  /-- a unit read at or above TTRIP in the last tree reading (15 R453) -/
  hotRead : Bool
  stopped : Bool
  bbud : BitVec 24
  charge : Nat
  interval : Nat
  overdraw : Nat
  bbheld : Bool
  /-- the events of this controller period, and the estimate and the headroom of the last (15 R451) -/
  energy : Energy
  estimate : Nat
  headroom : Nat
  deriving DecidableEq, Repr

/-- What asks for a translation: the addresses, the access and its level, the core and the warp slot, and the permissions of the
PAGED range that matched (01 R26) with its index (01 R41). -/
structure Ask where
  va : Dword
  ipa : Nat
  acc : Acc
  level0 : Bool
  core : Nat
  wslot : Nat
  range : Option (Nat × BitVec 7)
  deriving DecidableEq, Repr

/-- Who waits for a walk or for the reply to a fault (01 R40, R51): lanes of a fragment, an engine operation, a packet or a graph
node, a save, a request from another package, a write of a unit of the device by its number, or nobody. -/
inductive Who where
  | frag (core warp frag : Nat) (lanes : Mask)
  | engine (core op : Nat)
  | packet (launch : LaunchKey)
  | node (run : LaunchKey) (node : Nat)
  | save (core wg : Nat)
  | remote (p : Packet)
  | write (n : Nat)
  /-- a reader that does not wait (13 R403) -/
  | once
  deriving DecidableEq, Repr

/-- A waiter with what it asked for. -/
structure Waiter extends Ask where
  who : Who
  deriving DecidableEq, Repr

/-- What the reads of a walk did, whether or not it found a translation: the second-stage leaf entries whose A bit they set, and the
table lines read, with their placements (01 R31, R35). -/
structure Trail where
  accessed : List Nat
  /-- physical address, PLC and DIE (01 R33, R35) -/
  reads : List (Nat × Nat × Nat)
  deriving DecidableEq, Repr

/-- A page fault: its stage and kind, the level, the IPA of a second-stage fault, the range that matched, the access that
met it, whether that was one of the walker's own to a first-stage table, and what the walk had read. -/
structure PageFault where
  stage : Nat
  kind : Nat
  level : Nat
  ipa : Nat
  range : Option (Nat × BitVec 7)
  acc : Acc
  inTable : Bool
  trail : Trail
  deriving DecidableEq, Repr

/-- A page walk in progress or waiting in the miss queue (01 R50, R51), with what the first access asked for. -/
structure Walk extends Ask where
  ctx : CtxKey
  stage : Nat
  page : Nat
  waiters : List Waiter
  /-- the fault it ended in, and when, while it keeps its slot for want of a pending entry (01 R41, R52) -/
  found : Option (PageFault × Nat)
  deriving DecidableEq, Repr

/-- A fault pending-table entry in use (01 R45, R52). -/
structure PendEntry where
  gen : BitVec 4
  walk : Walk
  /-- the stage of the fault: the queue it goes to (01 R46) -/
  stage : Nat
  kind : Nat
  level : Nat
  time : Nat
  written : Bool
  deriving DecidableEq, Repr

/-- A write of a unit of the device that waits for a page (01 R38): a record of a launch or a job, or an entry of a fault log; its
context where the address is virtual. -/
structure UnitWrite where
  ctx : Option CtxKey
  part : Nat
  addr : Dword
  bytes : List Byte
  deriving DecidableEq, Repr

/-- A cached translation of one page (01 R32). -/
structure Tlb where
  /-- context for the first stage, partition for the second -/
  owner : Nat
  page : Nat
  frame : Nat
  /-- AT, U, X, W, R of the leaf (01 R29) -/
  perms : BitVec 5
  plc : Nat
  die : Nat
  dirty : Bool
  /-- physical address of the leaf entry -/
  pte : Nat
  /-- the second-stage entries whose D bit an update of the leaf entry sets; none while no update of it has been
  translated (01 R31) -/
  marks : Option (List Nat)
  /-- level of the leaf: it maps 512 ^ level pages -/
  level : Nat
  deriving DecidableEq, Repr

/-- A range entry as read into the copies (01 R27). -/
structure RangeEntry where
  w0 : Dword
  w1 : Dword
  w2 : Dword
  w3 : Dword
  deriving DecidableEq, Repr

/-- A fault record that waits for ring space, as its eight words without PHASE (01 R41, R43). -/
structure Record where
  ctx : CtxKey
  queue : Nat
  fatal : Bool
  /-- the pending-table entry it tells of: die and index -/
  entry : Option (Nat × Nat)
  words : List Dword
  /-- a page fault of its own write has been recorded (01 R38) -/
  told : Bool
  deriving DecidableEq, Repr

/-- A fault queue register set (01 R42). -/
structure FaultQueue where
  base : Dword
  ena : Bool
  log : Nat
  prod : BitVec 17
  cons : BitVec 17
  badrep : Nat
  fullstall : Nat
  fdrop : Nat
  armed : Bool
  /-- a record has waited for space since -/
  stallSince : Option Nat
  deriving DecidableEq, Repr

/-- A context (16 R465). -/
structure Ctx where
  root1 : Nat
  rng1 : Nat
  frply : Bool
  suph : SlotAddr
  klvl : Nat
  pasid : BitVec 20
  halted : Bool
  quires : FMap Quire
  ranges : List RangeEntry
  /-- when its time slice began, and since when it waits for one (14 R435) -/
  sliceAt : Option Nat
  waitsAt : Option Nat
  /-- the contexts that had work ready when it was pre-empted and have not been served since (14 R435) -/
  rivals : List Nat
  deriving DecidableEq, Repr

/-- A request packet in a hardware queue with its launch identifier and context (14 R411, R412). -/
structure Queued where
  id : Nat
  ctx : CtxKey
  words : List Dword
  deriving DecidableEq, Repr

/-- A hardware queue (14 R415). -/
structure Queue where
  ena : Bool
  prio : Nat
  ctx : Nat
  drop : Nat
  packets : List Queued
  /-- by die: its selector's selections that passed over it while ready (14 R417) -/
  passed : FMap Nat
  deriving DecidableEq, Repr

/-- An AQI (16 R472). -/
structure Aqi where
  ena : Bool
  queue : Nat
  pasid : BitVec 20
  badw : Nat
  acc : Nat
  deriving DecidableEq, Repr

/-- A ring without a consumer: telemetry or fault log (15 R460, 16 R489). -/
structure Ring where
  base : Dword
  ena : Bool
  log : Nat
  prod : BitVec 32
  deriving DecidableEq, Repr

/-- A graph node (14 R423). -/
structure Node where
  w0 : Dword
  w1 : Dword
  w2 : Dword
  w3 : Dword
  deriving DecidableEq, Repr

/-- A partition (16 R462 to R489). -/
structure Part where
  pmap : FMap (BitVec 8)
  ena : Bool
  latency : Bool
  floor : Nat
  s2en : Bool
  frply : Bool
  pdesc : Dword
  busy : Bool
  badmap : Bool
  /-- the descriptor as last read: ROOT2, RNG2 (16 R466) -/
  root2 : Nat
  rng2 : Nat
  ranges2 : List RangeEntry
  nextLaunch : Nat
  queues : FMap Queue
  jobbase : Dword
  affinity : List (CtxKey × Word × Nat)
  graphs : FMap (List Node)
  tout : Nat
  tslice : Nat
  fq : FaultQueue
  aqis : FMap Aqi
  aqiEver : Bool
  featack : Dword
  ctxarg : Dword
  ctxResult : Nat
  ctxId : Nat
  tlbva : Dword
  /-- the context of an invalidation in progress (16 R477) -/
  tlbBusy : Option Nat
  /-- the queue last served, at key 8 × die + priority (14 R417) -/
  served : FMap Nat
  plrel : Dword
  /-- the release is not complete: PLRELST (16 R474) -/
  plBusy : Bool
  faultLog : Ring
  hljob : FMap Dword
  /-- brought down until a partition reset (16 R490) -/
  down : Bool
  /-- the move in progress: logical cluster and target (16 R467) -/
  moving : Option (Nat × Nat)
  /-- the IPA where the context engine writes its next image (13 R408, R409). (DESIGN CHOICE, notes/assumptions/87.md.) -/
  saveArea : Nat
  deriving DecidableEq, Repr

/-- How far a launch has come. -/
inductive LaunchState where
  | queued | held | running | ended
  deriving DecidableEq, Repr

/-- A launch: an accepted request packet (14 R412 to R420). -/
structure Launch where
  ctx : CtxKey
  words : List Dword
  queue : Nat
  prio : Nat
  state : LaunchState
  desc : List Dword
  nx : Nat
  ny : Nat
  nz : Nat
  /-- next linear index to dispatch, workgroups exited, workgroups resident or saved -/
  next : Nat
  exited : Nat
  live : Nat
  /-- engine operations in flight -/
  ops : Nat
  error : Option (Nat × Dword × Nat)
  status : Nat
  start : Nat
  cancelled : Bool
  /-- the graph run and node it belongs to -/
  node : Option (Nat × Nat)
  /-- the job it is a member of, 0 for none (14 R422) -/
  job : Nat
  /-- the die that its last workgroup was dealt to (14 R428) -/
  lastDie : Option Nat
  /-- bytes of a COPY packet still to issue and whether one operation runs -/
  copyLeft : Nat
  copyBusy : Bool
  watched : Bool
  deriving DecidableEq, Repr

/-- The state of a node in a run (14 R424). -/
structure NodeState where
  arrivals : Nat
  completed : Bool
  /-- 0 not started, 1 its launch runs, 2 completed, 3 skipped, 4 a pass of its body runs, 5 and 6 held by a fault at
  its start or after a pass -/
  phase : Nat
  /-- the fault kind of a word that its start could not reach, answered FATAL -/
  failed : Option Nat
  deriving DecidableEq, Repr

/-- A run of a graph slot, at the launch key of its GRAPH packet (14 R424). -/
structure Run where
  slot : Nat
  ctx : CtxKey
  job : Nat
  nodes : FMap NodeState
  errored : Bool
  cancelled : Bool
  deriving DecidableEq, Repr

/-- A job, at 65,536 × partition + identifier (14 R422). -/
structure Job where
  members : Nat
  ended : Nat
  errored : Bool
  cancelled : Bool
  error : Option (Nat × Dword × Nat)
  /-- the JOBEND's launch identifier and its context -/
  closed : Option (Nat × CtxKey)
  start : Nat
  /-- its record has been written -/
  done : Bool
  /-- a JOBEND for it has completed (14 R421) -/
  lifted : Bool
  deriving DecidableEq, Repr

/-- What the context engine knows of a saved workgroup beside its image (13 R407): the core it came from, the IPA of its image,
and its parts as they were, from which a restore takes what the image has no place for. -/
structure Saved where
  part : Nat
  ipa : Nat
  /-- a pre-emption saved it: the context engine restores it by itself (14 R435) -/
  pre : Bool
  /-- it has been restored from its image -/
  loaded : Bool
  core : Nat
  wg : Wg
  warps : List (Nat × Warp)
  folios : List (Nat × Folio × List Byte)
  gath : List (Nat × Gath)
  /-- claims of its warps on folios that stay on the core: the place among the warps, the folio's slot and generation, and the number
  that the claim shows meanwhile (02 R71) -/
  claims : List (Nat × Nat × BitVec 16 × Nat)
  /-- a move has taken it to another core, on which it is restored (16 R467) -/
  moved : Bool
  /-- the number of the save, which its image holds -/
  seed : Nat
  /-- the counters of its warps when they were saved: what completes since is taken off those of the image (04 R153, 13 R408) -/
  counts : List Counters
  deriving DecidableEq, Repr

/-- The die's counts for telemetry (15 R461). -/
structure Telemetry where
  ring : Ring
  hotUnit : BitVec 12
  hotTemp : BitVec 16
  energy : Nat
  intHotUnit : BitVec 12
  intHotTemp : BitVec 16
  intSeen : Bool
  slopev : Nat
  ballast : Nat
  emerg : Nat
  placeovf : Nat
  bbhold : Nat
  govst : Nat
  /-- energy repaid, in picojoules (15 R456) -/
  caprep : Nat
  /-- nanoseconds of ballast above PLIM (15 R456) -/
  capover : Nat
  /-- the millisecond of REFTIME whose record was written last (15 R460) -/
  doneAt : Nat
  deriving DecidableEq, Repr

/-- A die: its walker, its fault pending table and its telemetry (01 R45, R50, 15 R460). -/
structure Die where
  walks : FMap Walk
  missq : List Walk
  pending : FMap PendEntry
  pendGen : FMap (BitVec 4)
  tel : Telemetry
  /-- by sensor, numbered as HOTUNIT.UNIT: its temperature at its last reading (15 R452) -/
  sensors : FMap (BitVec 16)
  /-- errors corrected or found in free units (02 R93) -/
  errs : Nat
  deriving DecidableEq, Repr

/-- The management function's registers (15 R449, 16 R476 to R486). -/
structure Mf where
  plim : BitVec 12
  didt : BitVec 11
  pwrnow : BitVec 12
  retire : BitVec 32
  remapbase : Dword
  irqdrop : Nat
  irqstale : Nat
  s2va : Dword
  /-- the partition of an invalidation in progress (16 R477) -/
  s2Busy : Option Nat
  fq : FaultQueue
  fwstat : BitVec 4
  /-- which image the device holds: the first, or the one loaded by a verification (16 R484, R485) -/
  image : Nat
  recovery : FMap Byte
  attnonce : FMap Byte
  attready : Bool
  attbuf : FMap Byte
  /-- run state and reset generation by function (16 R479) -/
  fstate : FMap (Nat × BitVec 7)
  pendbase : FMap Dword
  routes : FMap (BitVec 16)
  /-- ballast above PLIM since (15 R456) -/
  ballastSince : Option Nat
  /-- by cluster: when its last relock began (15 R445) -/
  relocks : FMap Nat
  ballastStopped : Bool
  /-- the energy spent on ballast above PLIM that is still to repay, in picojoules (15 R456) -/
  owed : Nat
  /-- PLIM in force: as the last controller period took it (15 R450) -/
  plimNow : BitVec 12
  /-- the controller period of 100 µs and the period of 5 µs of the maximum tree that were served last (15 R450, R452) -/
  period : Nat
  treeAt : Nat
  verifications : Nat
  reports : Nat
  deriving DecidableEq, Repr

/-- A flit: 256 data bits and the sideband (03 R114). -/
structure Flit where
  data : BitVec 256
  side : BitVec 32
  deriving DecidableEq, Repr

/-- A link of the fabric or a port (03 R109, R114, R119, R122, 16 R493). -/
structure Link where
  failed : Bool
  retraining : Bool
  /-- consecutive failed replays -/
  replays : Nat
  /-- the sequence number of the next flit -/
  seq : BitVec 8
  /-- the flits of the partial packet of each class and virtual channel, at key 2 × class + channel -/
  partial' : FMap (List Flit)
  deriving DecidableEq, Repr

/-- What happens next, as plain data: the order of events and issues is not the spec's to fix (03 R94, 04 R129).
(DESIGN CHOICE, notes/assumptions/49.md.) -/
inductive Turn where
  /-- an issue slot issues this fragment; late: a k-register write of it, or the v-register write of a load, an atomic or an mxv, is
  left outstanding (05 R173, R178) -/
  | issue (core warp frag : Nat) (late : Bool)
  /-- an event of the opcode table occurs -/
  | event (i : Instr)
  /-- REFTIME advances by some nanoseconds -/
  | tick (ns : Nat)
  /-- the oldest outstanding k-register write of a warp lands -/
  | land (core warp : Nat)
  /-- an outstanding v-register write of a warp lands (05 R178, R180) -/
  | landV (core warp n : Nat)
  /-- an outstanding write on a register of a warp that has exited lands and is discarded (05 R178) -/
  | drained (core n : Nat)
  /-- a CDC line is evicted (03 R94) -/
  | evictData (core line : Nat)
  /-- an instruction-cache line is evicted (03 R96) -/
  | evictCode (core line : Nat)
  /-- an MSC slice writes a line back to its HBM stack (03 R97) -/
  | writeBack (slice line : Nat)
  /-- the host takes a line back from its home slice (03 R98) -/
  | snoop (line : Nat)
  /-- a response to a request of an engine of a core for a line arrives (03 R120) -/
  | answer (core line : Nat)
  /-- a flit arrives over a link (03 R114) -/
  | flit (link : Nat) (f : Flit)
  /-- a cached translation is dropped (01 R32) -/
  | evictTlb (stage owner page : Nat)
  /-- a correctable or uncorrectable memory error marks an HBM line poisoned (03 R99) -/
  | poison (line : Nat)
  /-- an uncorrectable error arises in a 64-bit word of a core's scratchpad (02 R93) -/
  | padError (core word : Nat)
  /-- a parity error is found in a warp's register file (03 R125) -/
  | registerError (core warp : Nat)
  /-- an uncorrectable error is found in a workgroup's accumulator tiles (03 R125) -/
  | tileError (core wg : Nat)
  /-- an error is corrected (02 R93, 03 R125) -/
  | corrected (die : Nat)
  /-- firmware marks a physical cluster as retired (16 R462) -/
  | retire (cluster : Nat)
  deriving DecidableEq, Repr

/-- The fragment an instruction is issued for. (DESIGN CHOICE, notes/assumptions/6.md.) -/
structure Cur where
  core : Nat
  warp : Nat
  frag : Nat
  late : Bool
  deriving DecidableEq, Repr

/-- The package. (DESIGN CHOICE, notes/assumptions/6.md.) -/
structure State where
  mem : List Host.Cell
  poison : List Nat
  cores : FMap Core
  clusters : FMap Cluster
  dies : FMap Die
  parts : FMap Part
  ctxs : FMap Ctx
  launches : FMap Launch
  runs : FMap Run
  jobs : FMap Job
  saved : List Saved
  /-- by 64 KiB region: the die, and the partition it was placed for (01 R35, 16 R490) -/
  placement : FMap (Nat × Nat)
  /-- by MSC slice, 32 × die + slice: the lines newer than their HBM, oldest first (03 R97) -/
  msc : FMap (List Nat)
  /-- host lines that their home slices own for atomics, oldest first (03 R98) -/
  owned : List Nat
  tlb1 : List Tlb
  tlb2 : List Tlb
  records : List Record
  /-- the fragments in frwait.w, by core, warp and fragment, whose word a write of this step made differ (17 R495) -/
  met : List (Nat × Nat × Nat)
  /-- contexts that consumed an uncorrectable error; they are killed before the step ends (02 R93) -/
  doomed : List CtxKey
  /-- the writes of units that wait for a page, by number (01 R38) -/
  unitWrites : FMap UnitWrite
  repeats : FMap Nat
  net : List Packet
  links : FMap Link
  uciDown : List Nat
  mf : Mf
  msi : List (Nat × Nat)
  /-- first halves of 8-byte register writes, by function and offset (16 R475) -/
  halves : FMap (BitVec 32)
  /-- value answered to the last host read -/
  hostRead : List Byte
  /-- whether that read met a poisoned line (03 R99) -/
  hostPoison : Bool
  wakeShift : Nat
  refTime : Nat
  agenda : List Turn
  cur : Cur
  uids : Nat
  freeCount : Nat
  /-- the turns that the default arbiter has taken -/
  turns : Nat
  /-- the issue slot that issued last, 4 × core + slot -/
  lastSlot : Nat
  deriving DecidableEq, Repr

/-- A fault queue after reset (01 R42). -/
def FaultQueue.reset : FaultQueue :=
  { base := 0, ena := false, log := 6, prod := 0, cons := 0, badrep := 0, fullstall := 0, fdrop := 0, armed := true
    stallSince := none }

/-- A ring after reset (15 R460, 16 R489). -/
def Ring.reset : Ring := { base := 0, ena := false, log := 10, prod := 0 }

/-- Trap registers at warp creation (13 R398). -/
def TrapRegs.reset : TrapRegs :=
  { mode := false, handler := .kernel, pc := 0, entryPc := 0, cause := 0, sub := 0, mask := 0, info0 := 0, info1 := 0, pend := 0
    frag := 0, elvl := 0, exitl := false, step := false }

/-- The capacity registers after a partition reset (02 R56). -/
def Cap.reset : Cap :=
  { lit := 16, alloc := 16, pend := false, emg := false, grow := false, target := 16, closeAt := none, seq := 0
    last := 0 }

/-- The matrix engine after reset; at DIDT 2,000, W is 1,024 and B is 1,024 (15 R457, 12 R371). -/
def Matrix.reset : Matrix :=
  { window := 1024, budget := 1024, winIdx := 0, charge := 0, last := 0, mgov := 0, gated := 0, wake := 48, wakeAt := none, waking := 0
    idleSince := [], compute := none, waitSince := none, wantWake := none, ballast := 0, ballastSub := 0, service := none }

/-- A core after reset. -/
def Core.reset : Core :=
  { warps := [], wgs := [], cap := Cap.reset, folios := [], pad := [], padBad := [], locks := [], lockTurn := [], gath := [], ops := [], cdc := []
    icache := [], badLines := [], matrix := Matrix.reset, predictor := [], storeQ := [], lineClass := []
    urgent := []
    events := { mpred := 0, mphit := 0, mpsq := 0, mprln := 0, mpstall := 0, slip := 0, mpkill := 0 }, phys := [], drain := [], keyedAt := [] }

/-- A count of nothing. -/
def Energy.reset : Energy := { lanes := 0, idle := 0, planes := 0, pads := 0, regs := 0 }

/-- A cluster after a partition reset: VS1 at 1,200 MHz (15 R438). -/
def Cluster.reset : Cluster :=
  { step := 1, freq := 1200, rawcyc := 0, cyc := 0, acc := 0, sub := 0, mbox := none, ign := 0, move := none
    hold := none, coolSince := none, hotSince := none, hotRead := false, stopped := false, bbud := 0, charge := 0, interval := 0
    overdraw := 0, bbheld := false, energy := Energy.reset, estimate := 0, headroom := 0 }

/-- The telemetry of a die after reset (15 R460). -/
def Telemetry.reset : Telemetry :=
  { ring := Ring.reset, hotUnit := 0, hotTemp := 0, energy := 0, intHotUnit := 0, intHotTemp := 0, intSeen := false
    slopev := 0, ballast := 0, emerg := 0, placeovf := 0, bbhold := 0, govst := 0, caprep := 0, capover := 0, doneAt := 0 }

/-- A die after reset. -/
def Die.reset : Die := { walks := [], missq := [], pending := [], pendGen := [], tel := Telemetry.reset, sensors := [], errs := 0 }

/-- A queue after reset (14 R415). -/
def Queue.reset : Queue := { ena := false, prio := 0, ctx := 0, drop := 0, packets := [], passed := [] }

/-- An AQI after reset (16 R472). -/
def Aqi.reset : Aqi := { ena := false, queue := 0, pasid := 0, badw := 0, acc := 0 }

/-- A partition after package reset (16 R463, R475). -/
def Part.reset : Part :=
  { pmap := [], ena := false, latency := false, floor := 1, s2en := false, frply := false, pdesc := 0, busy := false
    badmap := false, root2 := 0, rng2 := 0, ranges2 := [], nextLaunch := 1, queues := [], jobbase := 0
    affinity := [], graphs := [], tout := 20, tslice := 0, fq := FaultQueue.reset, aqis := [], aqiEver := false
    featack := 0, ctxarg := 0, ctxResult := 0, ctxId := 0, tlbva := 0, tlbBusy := none, served := [], plrel := 0, plBusy := false
    faultLog := Ring.reset, hljob := [], down := false, moving := none, saveArea := 0 }

/-- The outcome of a verification of a firmware image, 1 to 5 (16 R484; notes/assumptions/4.md). -/
def verdict (n : Nat) : BitVec 4 := BitVec.ofNat 4 (1 + (Config.verify n).toNat % 5)

/-- The management function after package reset (15 R449, 16 R476). -/
def Mf.reset : Mf :=
  { plim := Config.plimFused, didt := 2000, pwrnow := 0, retire := 0, remapbase := 0
    irqdrop := 0, irqstale := 0, s2va := 0, s2Busy := none, fq := FaultQueue.reset, fwstat := verdict 0
    image := 0, recovery := [], attnonce := [], attready := false, attbuf := [], fstate := [], pendbase := []
    routes := [], ballastSince := none, relocks := [], ballastStopped := false, owed := 0, plimNow := Config.plimFused
    period := 0, treeAt := 0, verifications := 1, reports := 0 }

/-- The machine right after package reset: every map empty, so that each core, cluster, die and partition it does not
list is as its own reset gives. (DESIGN CHOICE, notes/assumptions/5.md.) -/
def State.reset : State :=
  { mem := [], poison := [], cores := [], clusters := [], dies := [], parts := [], ctxs := [], launches := []
    runs := [], jobs := [], saved := [], placement := [], msc := [], owned := [], tlb1 := [], tlb2 := [], records := [], met := [], doomed := []
    unitWrites := [], repeats := []
    net := [], links := [], uciDown := [], mf := Mf.reset, msi := [], halves := [], hostRead := [], hostPoison := false, wakeShift := 0
    refTime := 0, agenda := [], cur := { core := 0, warp := 0, frag := 0, late := false }, uids := 2
    freeCount := 0, turns := 0, lastSlot := 1023 }

end Sys2Proof.Machine
end

