-- ==== Sys2Proof/Machine/Home.lean ====
section
/-!
DEFINITION. Where a physical address is homed: its MSC slice, its die and its HBM stack (01 R34 to R36, 03 R97, R98), what
the slices hold beside memory, and the node IDs of the fabric (03 R110).
-/
namespace Sys2Proof.Machine

/-! Home slices, as 32 × die + slice of the die. -/

/-- The home slice of an interleaved frame: h, whose bits [6:5] are the die (01 R34). -/
def interleavedSlice (pa : Nat) : Nat := bitsAt pa 12 7 ^^^ bitsAt pa 19 7 ^^^ bitsAt pa 26 7

/-- The stack of an interleaved frame (01 R34). -/
def interleavedStack (pa : Nat) : Nat := 2 * bitsAt (interleavedSlice pa) 5 2 + bitsAt (interleavedSlice pa) 4 1

/-- The 5-bit value that spreads a region placed on a die over its slices (01 R35). -/
def placedSpread (pa : Nat) : Nat := bitsAt pa 12 5 ^^^ bitsAt pa 17 5

/-- The home slice of a frame whose region is placed on a die (01 R35). -/
def placedSlice (die pa : Nat) : Nat := 32 * die + placedSpread pa

/-- The stack of a frame whose region is placed on a die (01 R35). -/
def placedStack (die pa : Nat) : Nat := 2 * die + bitsAt (placedSpread pa) 4 1

/-- The home slice of host memory: D0 or D1 by PA[12], slice PA[17:13] (03 R98). -/
def hostSlice (pa : Nat) : Nat := 32 * bitsAt pa 12 1 + bitsAt pa 13 5

/-- The die that a 64 KiB region has been placed on (01 R35). -/
def State.placedOn (s : State) (pa : Nat) : Option Nat := (FMap.get s.placement (pa / 65536)).map (·.1)

/-- The home slice of an address: by the directory where its region is placed, else interleaved (01 R34, R35, 03 R98). -/
def State.homeSlice (s : State) (pa : Nat) : Nat :=
  if Config.hostBase ≤ pa then hostSlice pa
  else match s.placedOn pa with
    | some d => placedSlice d pa
    | none => interleavedSlice pa

/-- The stack that holds an address of HBM (01 R34, R35). -/
def State.homeStack (s : State) (pa : Nat) : Nat :=
  match s.placedOn pa with
  | some d => placedStack d pa
  | none => interleavedStack pa

/-- The die of an address's home (01 R34, R35, 03 R98). -/
def State.homeDie (s : State) (pa : Nat) : Nat := s.homeSlice pa / 32

/-- The arbiter of a region's directory entry: the interleaved home of its first frame (01 R36). -/
def arbiterSlice (pa : Nat) : Nat := interleavedSlice (pa - pa % 65536)

/-! What the slices hold (03 R97, R98): a line that is newer than its HBM, until it is written back, and a host line that
is owned. Memory holds what the home serves, so the older bytes of the HBM behind a line are not kept: nothing reads them. -/

/-- The lines of 64 bytes in an MSC slice of 2 MiB (03 R97). -/
def sliceLines : Nat := 32768

/-- The lines newer than HBM after a write to one: its home slice holds it, and a full slice writes its oldest line back first
(03 R97). (DESIGN CHOICE, notes/assumptions/123.md.) -/
def State.mscWith (s : State) (m : FMap (List Nat)) (line : Nat) : FMap (List Nat) :=
  let h := s.homeSlice (64 * line)
  let l := (FMap.getD m h []).filter fun x => x != line
  FMap.set m h ((if sliceLines ≤ l.length then l.drop 1 else l) ++ [line])

/-- A write makes a line of its home slice newer than HBM (03 R97). -/
def State.mscDirty (s : State) (line : Nat) : State := { s with msc := s.mscWith s.msc line }

/-- A slice writes a line back to its stack (03 R97). -/
def State.writeBackLine (s : State) (slice line : Nat) : State :=
  { s with msc := FMap.modify s.msc slice fun l => l.filter fun x => x != line }

/-- A home slice obtains a host line before it performs an atomic on it (03 R98). (DESIGN CHOICE, notes/assumptions/123.md.) -/
def State.ownLine (s : State) (pa : Nat) : State :=
  if pa < Config.hostBase || s.owned.contains (pa / 64) then s else { s with owned := s.owned ++ [pa / 64] }

/-- The host takes a line back (03 R98). -/
def State.snoopLine (s : State) (line : Nat) : State := { s with owned := s.owned.filter fun x => x != line }

/-! The lines a core holds. -/

/-- The lines of 64 bytes in a core's data cache, and in its instruction cache, of 128 KiB each (03 R94, R96). -/
def cacheLines : Nat := 2048

/-- A line filled into a core's cache; a full cache gives up some line, which the spec does not name (03 R94, R96).
(DESIGN CHOICE, notes/assumptions/134.md.) -/
def fillLine (m : FMap (List Byte)) (num : Nat) (l : List Byte) : FMap (List Byte) :=
  let out := (FMap.keys m).getD (Config.choice num % m.length) 0
  FMap.set (if FMap.has m num || decide (m.length < cacheLines) then m else FMap.erase m out) num l

/-! Node IDs (03 R110): die, quadrant, router, port. -/

/-- A node ID from its four fields. -/
def nodeId (die quadrant router port : Nat) : BitVec 12 :=
  BitVec.ofNat 2 die ++ BitVec.ofNat 2 quadrant ++ BitVec.ofNat 2 router ++ BitVec.ofNat 6 port

/-- The node of a core, its memory port, its copy engine and its stitch engine. -/
def coreNode (core : Nat) : BitVec 12 := nodeId (core / 64) (core % 64 / 16) (core % 16 / 4) (core % 4)
/-- The node of an MSC slice, 32 × die + slice. -/
def sliceNode (h : Nat) : BitVec 12 := nodeId (h / 32) (h % 32 / 8) (h % 8 / 2) (4 + h % 2)
/-- The node of a die's walker. -/
def walkerNode (die : Nat) : BitVec 12 := nodeId die 0 1 8
/-- The node of a die's dispatcher. -/
def dispatcherNode (die : Nat) : BitVec 12 := nodeId die 0 1 9
/-- The node of a die's context engine. -/
def contextNode (die : Nat) : BitVec 12 := nodeId die 0 1 10
/-- The node of the Herken Link port of a quadrant. -/
def portNode (die quadrant : Nat) : BitVec 12 := nodeId die quadrant 3 11
/-- The node of the UCIe module of D0 or D1. -/
def hostNode (die : Nat) : BitVec 12 := nodeId die 0 3 12

/-- Whether a node number names a port that exists (03 R110). -/
def portExists (n : BitVec 12) : Bool :=
  let port := (n.extractLsb' 0 6).toNat
  let router := (n.extractLsb' 6 2).toNat
  let quadrant := (n.extractLsb' 8 2).toNat
  let die := (n.extractLsb' 10 2).toNat
  decide (port ≤ 5) || (decide (8 ≤ port) && decide (port ≤ 10) && router == 1 && quadrant == 0) || (port == 11 && router == 3) ||
    (port == 12 && router == 3 && quadrant == 0 && decide (die ≤ 1))

/-- The node that a request to a physical address is sent to: its home slice (03 R95, R97). -/
def State.homeNode (s : State) (pa : Nat) : BitVec 12 := sliceNode (s.homeSlice pa)

/-! Routers and links (03 R109): router 16 × die + 4 × quadrant + n. -/

/-- The router of a quadrant that carries the long link to another quadrant (03 R109): Qq.j to q + j + 1. -/
def longRouter (q dst : Nat) : Nat := (dst + 4 - q - 1) % 4
/-- The router of every quadrant that carries the link to another die, and the one it lands on (03 R109). -/
def dieRouter (d dst : Nat) : Nat := (dst + 4 - d - 1) % 4

/-- The links of the fabric (03 R109). -/
inductive LinkEnd where
  | router (die quadrant n : Nat)
  /-- what lies outside the package, or the host -/
  | outside
  deriving DecidableEq, Repr

/-- The number of links of a die's quadrants within them: six each, four quadrants, four dies. -/
def localLinks : Nat := 96
/-- Where the long links begin: six each die. -/
def longBase : Nat := 96
/-- Where the die-to-die links begin: four for each of six pairs. -/
def dieBase : Nat := 900
/-- Where the Herken Link ports begin: one each quadrant. -/
def portBase : Nat := 1000

/-- The six pairs of four things. -/
def pairOf (i : Nat) : Nat × Nat := [(0, 1), (0, 2), (0, 3), (1, 2), (1, 3), (2, 3)].getD i (0, 0)

/-- The two ends of a link; none where there is no link of that number (03 R109). (DESIGN CHOICE, notes/assumptions/101.md.) -/
def linkEnds (n : Nat) : Option (LinkEnd × LinkEnd) :=
  if n < localLinks then
    let p := pairOf (n % 6)
    some (.router (n / 24) (n / 6 % 4) p.1, .router (n / 24) (n / 6 % 4) p.2)
  else if n < longBase + 24 then
    let m := n - longBase
    let p := pairOf (m % 6)
    some (.router (m / 6) p.1 (longRouter p.1 p.2), .router (m / 6) p.2 (longRouter p.2 p.1))
  else if decide (dieBase ≤ n) && decide (n < dieBase + 24) then
    let m := n - dieBase
    let p := pairOf (m / 4)
    some (.router p.1 (m % 4) (dieRouter p.1 p.2), .router p.2 (m % 4) (dieRouter p.2 p.1))
  else if decide (portBase ≤ n) && decide (n < portBase + 16) then
    some (.router ((n - portBase) / 4) ((n - portBase) % 4) 3, .outside)
  else none

/-- The place of a pair among the six. -/
def pairIndex (a b : Nat) : Nat := ((List.range 6).find? fun i => pairOf i == (Nat.min a b, Nat.max a b)).getD 6

/-- The long link of a die between two quadrants. -/
def longLink (die a b : Nat) : Option Nat := if a == b then none else some (longBase + 6 * die + pairIndex a b)

/-- The link between two dies of a quadrant. -/
def dieLink (d e q : Nat) : Option Nat := if d == e then none else some (dieBase + 4 * pairIndex d e + q)

/-- The long and die-to-die links that a request of a core to a home slice takes by way of a quadrant (03 R111). -/
def routeLinks (core home via : Nat) : List Nat :=
  let d := core / 64
  let e := home / 32
  [longLink d (core % 64 / 16) via, dieLink d e via, longLink e via (home % 32 / 8)].filterMap id

/-- The quadrants by way of which a core's request reaches a home slice over links that have not failed (03 R111, R122). -/
def State.openRoutes (s : State) (core home : Nat) : List Nat :=
  (List.range 4).filter fun q => (routeLinks core home q).all fun n => !((FMap.get s.links n).map (·.failed)).getD false

/-- A route of the fabric's choice for a core's request to a line (03 R111). (DESIGN CHOICE, notes/assumptions/126.md.) -/
def State.routeTo (s : State) (core line : Nat) : Nat :=
  let l := s.openRoutes core (s.homeSlice (64 * line))
  l.getD (Config.choice (s.freeCount + line) % l.length) 0

/-- Whether there is a link of a number. -/
def linkExists (n : Nat) : Bool := (linkEnds n).isSome

end Sys2Proof.Machine
end

