-- ==== Sys2Proof/Machine/Memory.lean ====
section
/-!
DEFINITION. Physical memory: bytes in one canonical list, little-endian (00 R6), over the map of 01 R24. What an
unlisted byte reads as is `Memory.blank` (notes/assumptions/2.md).
-/
namespace Sys2Proof.Machine

/-- What a byte that nothing has written reads as (DESIGN CHOICE, notes/assumptions/2.md). -/
def Memory.blank : Byte := 0

/-- The byte at an address. (DESIGN CHOICE, notes/assumptions/2.md.) -/
def Memory.read (m : List Host.Cell) (a : Nat) : Byte := FMap.getD m a Memory.blank

/-- Write one byte; writing what an unlisted byte reads as unlists it. -/
def Memory.write (m : List Host.Cell) (a : Nat) (b : Byte) : List Host.Cell :=
  if b = Memory.blank then FMap.erase m a else FMap.set m a b

/-- The n bytes from an address. -/
def Memory.readBytes (m : List Host.Cell) (a n : Nat) : List Byte := (List.range n).map fun i => Memory.read m (a + i)

/-- Write bytes from an address. -/
def Memory.writeBytes (m : List Host.Cell) (a : Nat) : List Byte → List Host.Cell
  | [] => m
  | b :: r => Memory.writeBytes (Memory.write m a b) (a + 1) r

/-- The canonical form: addresses strictly rising, none listed that reads as an unlisted byte does. -/
def Memory.wf (m : List Host.Cell) : Bool := FMap.sorted m && m.all fun c => c.2 != Memory.blank

/-- The little-endian value of n bytes. -/
def Memory.readNat (m : List Host.Cell) (a n : Nat) : Nat := leOf (Memory.readBytes m a n)

/-- Whether a physical address is in the hole or beyond the map (01 R24). -/
def paHole (pa : Nat) : Bool :=
  decide (Config.paEnd ≤ pa) || (decide (Config.hbmBytes ≤ pa) && decide (pa < Config.hostBase))

/-- The value of n bytes of the package's memory. -/
def State.mread (s : State) (pa n : Nat) : Nat := Memory.readNat s.mem pa n

/-- Write the n bytes of a value. -/
def State.mwrite (s : State) (pa n v : Nat) : State :=
  ({ s with mem := Memory.writeBytes s.mem pa (bytesOf n v) }).mscDirty (pa / 64)

/-- Write bytes. -/
def State.mwriteBytes (s : State) (pa : Nat) (l : List Byte) : State :=
  { s with
    mem := Memory.writeBytes s.mem pa l
    msc := ((List.range ((pa % 64 + l.length + 63) / 64)).map (pa / 64 + ·)).foldl s.mscWith s.msc }

/-- A 64-bit word of memory. -/
def State.mdword (s : State) (pa : Nat) : Dword := BitVec.ofNat 64 (s.mread pa 8)

end Sys2Proof.Machine
end

