-- ==== Sys2Proof/Machine/Access.lean ====
section
/-!
DEFINITION. The one way to each part of the state: cores, clusters, dies, partitions, contexts, warps, fragments and
workgroups. A part that its map does not list is as its reset gives.
-/
namespace Sys2Proof.Machine

/-- A core, by 64 × die + core. -/
def State.core (s : State) (c : Nat) : Core := FMap.getD s.cores c Core.reset
/-- Replace a core. -/
def State.setCore (s : State) (c : Nat) (k : Core) : State := { s with cores := FMap.set s.cores c k }
/-- Change a core. -/
def State.modCore (s : State) (c : Nat) (f : Core → Core) : State := s.setCore c (f (s.core c))
/-- A cluster, by 8 × die + cluster. -/
def State.cluster (s : State) (c : Nat) : Cluster := FMap.getD s.clusters c Cluster.reset
/-- Replace a cluster. -/
def State.setCluster (s : State) (c : Nat) (k : Cluster) : State := { s with clusters := FMap.set s.clusters c k }
/-- Change a cluster. -/
def State.modCluster (s : State) (c : Nat) (f : Cluster → Cluster) : State := s.setCluster c (f (s.cluster c))
/-- Whether the clock of a cluster stands still: a relock to another frequency, or stopped by its temperature
(15 R442, R443, R453). -/
def Cluster.frozen (k : Cluster) : Bool :=
  k.stopped || match k.move with
    | some m => m.phase == .relock && match m.target with
      | some t => t.freq != k.freq
      | none => false
    | none => false
/-- A die. -/
def State.die (s : State) (d : Nat) : Die := FMap.getD s.dies d Die.reset
/-- Change a die. -/
def State.modDie (s : State) (d : Nat) (f : Die → Die) : State := { s with dies := FMap.set s.dies d (f (s.die d)) }
/-- A partition. -/
def State.part (s : State) (p : Nat) : Part := FMap.getD s.parts p Part.reset
/-- Change a partition. -/
def State.modPart (s : State) (p : Nat) (f : Part → Part) : State :=
  { s with parts := FMap.set s.parts p (f (s.part p)) }
/-- Change a context, if it exists. -/
def State.modCtx (s : State) (c : CtxKey) (f : Ctx → Ctx) : State := { s with ctxs := FMap.modify s.ctxs c f }
/-- Change a launch, if it exists. -/
def State.modLaunch (s : State) (l : LaunchKey) (f : Launch → Launch) : State :=
  { s with launches := FMap.modify s.launches l f }

/-- The partition of a context key. -/
def ctxPart (c : CtxKey) : Nat := c / 4096
/-- The identifier of a context key. -/
def ctxId (c : CtxKey) : Nat := c % 4096
/-- The key of a context. -/
def ctxKey (part id : Nat) : CtxKey := 4096 * part + id
/-- The partition of a launch key. -/
def launchPart (l : LaunchKey) : Nat := l / 2 ^ 32
/-- The key of a launch. -/
def launchKey (part id : Nat) : LaunchKey := 2 ^ 32 * part + id
/-- The cluster of a core: 8 × die + cluster of the die. -/
def clusterOf (core : Nat) : Nat := core / 8
/-- The die of a core, or of a die's own copy engine, which stands in the place of a core at 256 + 64 × die. -/
def dieOf (core : Nat) : Nat := core / 64 % 4
/-- The place of a die's own copy engine (14 R414). -/
def dieEngine (die : Nat) : Nat := 256 + 64 * die

/-- The physical cluster that a remap entry names, 8 × die + cluster of the die (16 R463). -/
def pmapCluster (e : BitVec 8) : Nat := (e.extractLsb' 2 5).toNat

/-- The physical clusters of a partition. -/
def Part.clusters (p : Part) : List Nat :=
  p.pmap.filterMap fun e => if e.2.getLsbD 7 then some (pmapCluster e.2) else none

/-- The dies of a partition, rising. -/
def Part.dies (p : Part) : List Nat := (List.range 4).filter fun d => p.clusters.any fun c => c / 8 == d

/-- The die whose walker makes the accesses of a partition's own units: its lowest.
(DESIGN CHOICE, notes/assumptions/74.md.) -/
def State.unitDie (s : State) (part : Nat) : Nat := ((s.part part).dies.head?).getD 0

/-- The partition that owns a physical cluster, with the logical cluster there (16 R463). -/
def State.ownerOf (s : State) (cluster : Nat) : Option (Nat × Nat) :=
  (List.range 16).findSome? fun p =>
    let pt := s.part p
    if pt.ena then
      (FMap.keys pt.pmap).findSome? fun n =>
        let e := FMap.getD pt.pmap n 0
        if e.getLsbD 7 && pmapCluster e == cluster then some (p, n) else none
    else none

/-- The logical core of a physical core in its partition; the physical number where none owns it. -/
def State.logicalCore (s : State) (core : Nat) : Nat :=
  match s.ownerOf (clusterOf core) with
  | some (_, n) => 8 * n + core % 8
  | none => core

/-- The physical core of a logical core of a partition (16 R463). -/
def State.physicalCore (s : State) (part core : Nat) : Option Nat :=
  let e := FMap.getD (s.part part).pmap (core / 8) 0
  if e.getLsbD 7 then some (8 * pmapCluster e + core % 8) else none

/-- A warp of a core. -/
def State.warp (s : State) (c w : Nat) : Option Warp := FMap.get (s.core c).warps w
/-- Replace a warp. -/
def Core.setWarp (k : Core) (w : Nat) (x : Warp) : Core := { k with warps := FMap.set k.warps w x }
/-- Replace a warp. -/
def State.setWarp (s : State) (c w : Nat) (x : Warp) : State := s.modCore c (fun k => k.setWarp w x)
/-- Change a warp, if it is there. -/
def State.modWarp (s : State) (c w : Nat) (f : Warp → Warp) : State :=
  s.modCore c fun k => { k with warps := FMap.modify k.warps w f }
/-- Change the warp of a serial number wherever it is, on a core or saved (04 R159). -/
def State.modUid (s : State) (uid : Nat) (f : Warp → Warp) : State :=
  let g (w : Warp) : Warp := if w.uid == uid then f w else w
  { s with
    cores := FMap.mapV s.cores fun _ k => { k with warps := FMap.mapV k.warps fun _ w => g w }
    saved := s.saved.map fun v => { v with warps := v.warps.map fun p => (p.1, g p.2) } }
/-- Whether the warp of a serial number is there, on a core or saved. -/
def State.hasUid (s : State) (uid : Nat) : Bool :=
  s.cores.any (fun k => k.2.warps.any fun w => w.2.uid == uid) || s.saved.any fun v => v.warps.any fun w => w.2.uid == uid
/-- Replace a fragment. -/
def Warp.setFrag (x : Warp) (i : Nat) (f : Frag) : Warp := { x with frags := FMap.set x.frags i f }
/-- Change a fragment, if it is there. -/
def Warp.modFrag (x : Warp) (i : Nat) (f : Frag → Frag) : Warp := { x with frags := FMap.modify x.frags i f }
/-- Change a fragment of a warp. -/
def State.modFrag (s : State) (c w i : Nat) (f : Frag → Frag) : State := s.modWarp c w fun x => x.modFrag i f
/-- Change a workgroup. -/
def Core.modWg (k : Core) (g : Nat) (f : Wg → Wg) : Core := { k with wgs := FMap.modify k.wgs g f }
/-- Change a folio. -/
def Core.modFolio (k : Core) (i : Nat) (f : Folio → Folio) : Core := { k with folios := FMap.modify k.folios i f }

/-- The slot address after one (07 R229). -/
def nextSlot (p : SlotAddr) : SlotAddr :=
  if (p.extractLsb' 0 3).toNat < 4 then p + 1 else ((p >>> 3) + 1) <<< 3

/-- The virtual byte address of the line of a slot address (07 R229). -/
def lineVa (p : SlotAddr) : Dword := ((p.extractLsb' 3 51 ++ 0#6 : BitVec 57)).signExtend 64

/-- A warp as an issued instruction finds it: the core, the slot, the fragment's index, and the three of them. -/
structure Iss where
  c : Nat
  wi : Nat
  fi : Nat
  core : Core
  w : Warp
  f : Frag
  late : Bool
  /-- whether a write of its destination may trap: not where the instruction's own rule lists its traps without it.
  (DEDUCED, notes/assumptions/147.md.) -/
  strict : Bool

/-- The fragment the current instruction is issued for, if it is there. -/
def State.iss (s : State) : Option Iss :=
  match s.warp s.cur.core s.cur.warp with
  | none => none
  | some w =>
    match FMap.get w.frags s.cur.frag with
    | none => none
    | some f => some { c := s.cur.core, wi := s.cur.warp, fi := s.cur.frag, core := s.core s.cur.core, w := w, f := f
                       late := s.cur.late, strict := true }

/-- The instruction as one whose own rule lists no trap of its destination: LIVE_PEAK and MASKWRITE (07 R249, 10 R330, 12 R393).
(DEDUCED, notes/assumptions/147.md.) -/
def Iss.lenient (i : Iss) : Iss := { i with strict := false }

/-- The workgroup of the issuing warp, or an empty one. -/
def Iss.wg (i : Iss) : Option Wg := FMap.get i.core.wgs i.w.wg

/-- The context of the issuing warp. -/
def Iss.ctx (i : Iss) : CtxKey := (i.wg.map (·.ctx)).getD 0

/-! The byte budget of a cluster (15 R455). -/

/-- Charge some bytes of a core's request to its cluster's interval; a cluster without a grant has no limit to count against.
(DEDUCED, notes/assumptions/97.md.) -/
def State.charge (s : State) (c bytes : Nat) : State :=
  if (s.cluster (clusterOf c)).bbud == 0 then s
  else s.modCluster (clusterOf c) fun k => { k with charge := k.charge + bytes }

/-- Whether the grant of a core's cluster is spent for this interval. -/
def State.budgetSpent (s : State) (c : Nat) : Bool :=
  let k := s.cluster (clusterOf c)
  k.bbud != 0 && decide (64 * k.bbud.toNat ≤ k.charge + k.overdraw)

/-- A bulk or express request that finds the grant spent waits at its source, and telemetry tells of the interval. -/
def State.budgetHold (s : State) (c : Nat) : State :=
  if s.budgetSpent c then s.modCluster (clusterOf c) fun k => { k with bbheld := true } else s

/-! The line class table of a core's memory port and engines (03 R120). -/

/-- The entries of a line class table. -/
def lineEntries : Nat := 256

/-- Whether requests to some lines need not wait: each has an entry, or the table has room; one that is answered within the step
gives its entry back before the next. -/
def Core.linesFit (k : Core) (lines : List Nat) : Bool :=
  decide (k.lineClass.length < lineEntries) || lines.all fun x => FMap.has k.lineClass x

/-- The class in which a request to a line travels: that of the line's entry, or its own (03 R120). -/
def Core.classOf (k : Core) (line own : Nat) : Nat :=
  match FMap.get k.lineClass line with
  | some (x, _, _) => x
  | none => own

/-- Some requests to a line enter the table: on the class and the route of the line's entry, or, where they make one, in their own
class and on a route of the fabric's choice (03 R111, R120); none while the table is full.
(DESIGN CHOICE, notes/assumptions/126.md.) -/
def State.lineEnter (s : State) (c line cls count : Nat) : Option State :=
  let t := (s.core c).lineClass
  let put (s : State) (e : Nat × Nat × Nat) : State := s.modCore c fun k => { k with lineClass := FMap.set k.lineClass line e }
  match FMap.get t line with
  | some (x, route, n) => some (put s (x, route, n + count))
  | none =>
    if lineEntries ≤ t.length then none
    else some (put { s with freeCount := s.freeCount + 1 } (cls, s.routeTo c line, count))

/-- A request of an engine of a core to a line for some bytes, charged to its cluster; none while the table is full, or, in a class
below urgent, while the cluster's grant is spent (15 R455). -/
def State.lineRequest (s : State) (c line cls bytes : Nat) : Option State :=
  if s.budgetSpent c && decide ((s.core c).classOf line cls < 2) then none
  else (s.lineEnter c line cls 1).map fun s => s.charge c bytes

/-- A request that waits for a new grant holds later requests to its line, which inherit its class (03 R120, 15 R455): its line has an
entry with nothing outstanding. -/
def State.holdLine (s : State) (c line : Nat) : State := (s.lineEnter c line 0 0).getD s

/-- The key of a line of another package (03 R120). -/
def remoteLine (pkg va : Nat) : Nat := 2 ^ 64 * (1 + pkg) + va / 64

/-- A response to a request to a line has arrived: an entry without outstanding requests is freed (03 R120). -/
def State.lineAnswer (s : State) (c line : Nat) : State :=
  s.modCore c fun k => { k with lineClass := match FMap.get k.lineClass line with
    | some (x, route, n) =>
      if n == 0 then k.lineClass
      else if n == 1 then FMap.erase k.lineClass line else FMap.set k.lineClass line (x, route, n - 1)
    | none => k.lineClass }

/-- Move a fragment to another slot address, its entry no longer to be checked. -/
def Frag.goto (f : Frag) (p : SlotAddr) : Frag := { f with pc := p, age := 0 }

end Sys2Proof.Machine
end

