-- ==== Sys2Proof/Machine/Translate.lean ====
section
/-!
DEFINITION. Translation (01 R12, R13, R24 to R33, R38, R50 to R52): ranges, cached translations, page walks of one and
two stages, and the walks that a miss starts.
-/
namespace Sys2Proof.Machine

/-- Trap causes by name (13 R400). -/
def Cause.illegalOpcode : BitVec 8 := 0x01
/-- Trap cause (13 R400). -/
def Cause.reservedField : BitVec 8 := 0x02
/-- Trap cause (13 R400). -/
def Cause.illegalTarget : BitVec 8 := 0x03
/-- Trap cause (13 R400). -/
def Cause.illegalPair : BitVec 8 := 0x04
/-- Trap cause (13 R400). -/
def Cause.illegalConvergence : BitVec 8 := 0x05
/-- Trap cause (13 R400). -/
def Cause.privilege : BitVec 8 := 0x06
/-- Trap cause (13 R400). -/
def Cause.misaligned : BitVec 8 := 0x07
/-- Trap cause (13 R400). -/
def Cause.pageFatal : BitVec 8 := 0x08
/-- Trap cause (13 R400). -/
def Cause.accessViolation : BitVec 8 := 0x09
/-- Trap cause (13 R400). -/
def Cause.folioLost : BitVec 8 := 0x0A
/-- Trap cause (13 R400). -/
def Cause.staleHandle : BitVec 8 := 0x0B
/-- Trap cause (13 R400). -/
def Cause.folioBounds : BitVec 8 := 0x0C
/-- Trap cause (13 R400). -/
def Cause.matrixOperand : BitVec 8 := 0x0D
/-- Trap cause (13 R400). -/
def Cause.engineFault : BitVec 8 := 0x0E
/-- Trap cause (13 R400). -/
def Cause.lockTimeout : BitVec 8 := 0x0F
/-- Trap cause (13 R400). -/
def Cause.software : BitVec 8 := 0x10
/-- Trap cause (13 R400). -/
def Cause.breakpoint : BitVec 8 := 0x11
/-- Trap cause (13 R400). -/
def Cause.instrParity : BitVec 8 := 0x12
/-- Trap cause (13 R400). -/
def Cause.watchdog : BitVec 8 := 0x13

/-- What translating one address gives. -/
inductive Tr where
  /-- the physical address, its placement, and the leaf entries whose D bit a write sets -/
  | pa (pa plc die : Nat) (dirty : List Nat)
  | trap (cause sub : BitVec 8)
  /-- no cached translation: the stage, the 4 KiB page and the IPA (stage 2), and the matching PAGED range -/
  | miss (stage page ipa : Nat) (range : Option (Nat × BitVec 7))
  deriving DecidableEq, Repr

/-- The permissions an access needs, as AT, U, X, W, R (01 R27, R29). -/
def Acc.need : Acc → BitVec 5
  | .load | .engineRead | .tableRead => 0b00001
  | .store | .engineWrite | .adUpdate => 0b00010
  | .atomic => 0b10011
  | .fetch => 0b00100

/-- The fault kind of a failure of the access's own permissions; an atomic on a leaf it may not write fails both of its
kinds, of which the lower is reported (01 R38). (DEDUCED, notes/assumptions/124.md.) -/
def Acc.protKind (perms : BitVec 5) : Acc → Nat
  | .load | .engineRead | .tableRead => 8
  | .store | .engineWrite | .adUpdate => 2
  | .atomic => if perms.getLsbD 1 then 5 else 2
  | .fetch => 3

/-- The ACC field of a fault record (01 R41). -/
def Acc.code : Acc → Nat
  | .load => 0 | .store => 1 | .atomic => 2 | .fetch => 3 | .engineRead => 4 | .engineWrite => 5 | .tableRead => 6
  | .adUpdate => 7

/-- Whether the access writes. -/
def Acc.writes : Acc → Bool
  | .store | .engineWrite | .atomic | .adUpdate => true
  | _ => false

/-- The lowest fault kind among the failures at a leaf; 0 where none fails (01 R38). -/
def denyKind (perms : BitVec 5) (acc : Acc) (level0 : Bool) : Nat :=
  let own := perms &&& acc.need != acc.need
  let user := level0 && !perms.getLsbD 3
  match own, user with
  | false, false => 0
  | true, false => acc.protKind perms
  | false, true => 4
  | true, true => Nat.min 4 (acc.protKind perms)

/-- Whether a range entry is malformed (01 R27). -/
def RangeEntry.malformed (stage2 : Bool) (e : RangeEntry) : Bool :=
  e.w0.extractLsb' 0 12 != 0 || e.w1.extractLsb' 0 12 != 0 || e.w2.extractLsb' 0 12 != 0 ||
  e.w3.extractLsb' 12 52 != 0 || (!stage2 && e.w3.extractLsb' 8 2 == 3#2) ||
  decide ((e.w1.extractLsb' 12 52).toNat < (e.w0.extractLsb' 12 52).toNat)

/-- Whether a range entry matches a page (01 R26). -/
def RangeEntry.matchesPage (stage2 : Bool) (e : RangeEntry) (page : Nat) : Bool :=
  e.w3.getLsbD 0 && (e.malformed stage2 ||
    (decide ((e.w0.extractLsb' 12 52).toNat ≤ page) && decide (page ≤ (e.w1.extractLsb' 12 52).toNat)))

/-- The permissions of a range entry, as AT, U, X, W, R. -/
def RangeEntry.perms (e : RangeEntry) : BitVec 5 := e.w3.extractLsb' 2 5

/-- The winning entry of a range table and its number (01 R25, R26). -/
def findRange (stage2 : Bool) (page : Nat) : Nat → List RangeEntry → Option (Nat × RangeEntry)
  | _, [] => none
  | i, e :: r => if e.matchesPage stage2 page then some (i, e) else findRange stage2 page (i + 1) r

/-- A placement the driver has not accepted acts as interleaved (16 R483). -/
def State.plcOf (s : State) (part plc : Nat) : Nat :=
  if plc == 1 && !(s.part part).featack.getLsbD 3 then 0 else plc

/-- The final physical address checked against the map (01 R24). -/
def State.finalPa (s : State) (part pa plc die : Nat) (dirty : List Nat) : Tr :=
  if paHole pa then .trap Cause.accessViolation 3 else .pa pa (s.plcOf part plc) die dirty

/-- What a range entry decides for an address: a trap, a mapped address, or a search of the pages. -/
inductive RangeStep where
  | trap (cause sub : BitVec 8)
  | mapped (out plc die : Nat)
  | paged (range : Option (Nat × BitVec 7))
  deriving DecidableEq, Repr

/-- The range step of a translation (01 R25 to R27). -/
def rangeStep (stage2 : Bool) (table : List RangeEntry) (acc : Acc) (level0 : Bool) (x : Nat) : RangeStep :=
  match findRange stage2 (x / 4096) 0 table with
  | none => .paged none
  | some (i, e) =>
    if e.malformed stage2 then .trap Cause.accessViolation 5
    else if denyKind e.perms acc (level0 && !stage2) != 0 then .trap Cause.accessViolation 1
    else if e.w3.getLsbD 1 then .paged (some (i, e.w3.extractLsb' 1 7))
    else .mapped ((x + e.w2.toNat) % 2 ^ 64) (e.w3.extractLsb' 8 2).toNat (e.w3.extractLsb' 10 2).toNat

/-- Whether an access cannot go by a cached translation: it lacks a permission, or it would be the first write and the
update of D in the leaf entry has not been translated (01 R31, R38). -/
def Tlb.lacks (t : Tlb) (acc : Acc) (level0 : Bool) : Bool :=
  denyKind t.perms acc level0 != 0 || (acc.writes && !t.dirty && t.marks.isNone)

/-- The entries whose D bit an access through a cached translation sets: the leaf, and the second-stage leaf that the update
of it is written through (01 R31). -/
def Tlb.sets (t : Tlb) (acc : Acc) : List Nat :=
  if acc.writes && !t.dirty then t.marks.getD [] ++ [t.pte] else []

/-- The second stage, from an IPA (01 R25, R33). -/
def State.translate2 (s : State) (part : Nat) (acc : Acc) (ipa plc1 die1 : Nat) (dirty : List Nat) : Tr :=
  if decide (2 ^ 52 ≤ ipa) then .trap Cause.accessViolation 3
  else if !(s.part part).s2en then s.finalPa part ipa plc1 die1 dirty
  else
    let pick (plc die : Nat) : Nat × Nat := if plc == 3 then (plc1, die1) else (plc, die)
    match rangeStep true (s.part part).ranges2 acc false ipa with
    | .trap c b => .trap c b
    | .mapped out plc die => s.finalPa part out (pick plc die).1 (pick plc die).2 dirty
    | .paged r =>
      match s.tlb2.find? fun t => t.owner == part && t.page == ipa / 4096 with
      | none => .miss 2 (ipa / 4096) ipa r
      | some t =>
        if t.lacks acc false then .miss 2 (ipa / 4096) ipa r
        else s.finalPa part (4096 * t.frame + ipa % 4096) (pick t.plc t.die).1 (pick t.plc t.die).2
          (dirty ++ t.sets acc)

/-- Translate a virtual address of a context from the cached state (01 R12, R13, R25 to R33). -/
def State.translate (s : State) (ctx : CtxKey) (level0 : Bool) (acc : Acc) (va : Dword) : Tr :=
  if va.extractLsb' 57 7 != (if va.getLsbD 56 then 0x7F#7 else 0#7) then .trap Cause.misaligned 1
  else if level0 && va.getLsbD 56 then .trap Cause.accessViolation 2
  else
    match FMap.get s.ctxs ctx with
    | none => .trap Cause.accessViolation 3
    | some c =>
      match rangeStep false c.ranges acc level0 va.toNat with
      | .trap ca b => .trap ca b
      | .mapped out plc die => s.translate2 (ctxPart ctx) acc out plc die []
      | .paged r =>
        match s.tlb1.find? fun t => t.owner == ctx && t.page == va.toNat / 4096 with
        | none => .miss 1 (va.toNat / 4096) 0 r
        | some t =>
          if t.lacks acc level0 then .miss 1 (va.toNat / 4096) 0 r
          else s.translate2 (ctxPart ctx) acc (4096 * t.frame + va.toNat % 4096) t.plc t.die (t.sets acc)

/-- The atomic OR to a table entry at its home, which owns a host line before it performs one (01 R31, 03 R98). -/
def State.orEntry (s : State) (pte bits : Nat) : State := (s.ownLine pte).mwrite pte 8 (s.mread pte 8 ||| bits)

/-- Set the D bit of leaf entries, before the write that needs it (01 R31). -/
def State.setDirty (s : State) (ptes : List Nat) : State :=
  ptes.foldl (fun s p =>
    let mark (t : Tlb) : Tlb := if t.pte == p then { t with dirty := true } else t
    { s.orEntry p 0x200 with tlb1 := s.tlb1.map mark, tlb2 := s.tlb2.map mark }) s

/-- Set the A bit of leaf entries (01 R31). -/
def State.setAccessed (s : State) (ptes : List Nat) : State := ptes.foldl (fun s p => s.orEntry p 0x100) s

/-- The die that takes an unplaced region, with whether it overflowed to another (01 R37). -/
def State.roomOn (s : State) (d : Nat) : Option (Nat × Bool) :=
  let used (x : Nat) : Nat := (s.placement.filter fun p => p.2.1 == x).length
  if used d < 2 ^ 21 then some (d, false)
  else ((List.range 3).map fun j => (d + 1 + j) % 4).findSome? fun x => if used x < 2 ^ 21 then some (x, true) else none

/-- Place an unplaced 64 KiB region for a partition at its first access, from a die (01 R35, R36). Where no die has capacity
the region is interleaved; its directory entry, which can name only a die, stays unplaced, so that a later access tries again
(01 R37). (DESIGN CHOICE, notes/assumptions/129.md.) -/
def State.placeFor (s : State) (part from' pa plc die : Nat) : State :=
  if decide (Config.hbmBytes ≤ pa) || !(plc == 1 || plc == 2) || FMap.has s.placement (pa / 65536) then s
  else
    let d := if plc == 1 then from' else die
    match s.roomOn d with
    | none => s
    | some (x, past) =>
      let s := { s with placement := FMap.set s.placement (pa / 65536) (x, part) }
      if past then s.modDie d fun k => { k with tel := { k.tel with placeovf := k.tel.placeovf + 1 } } else s

/-- A trail with another after it. -/
def Trail.after (a b : Trail) : Trail := { accessed := a.accessed ++ b.accessed, reads := a.reads ++ b.reads }

/-- A walk that has read nothing. -/
def Trail.none : Trail := { accessed := [], reads := [] }

/-- The reads of a walk have been made from a die for a partition: they set A bits and place the regions they meet, whatever the walk
found (01 R31, R35). -/
def State.tread (s : State) (part die : Nat) (t : Trail) : State :=
  t.reads.foldl (fun s r => s.placeFor part die r.1 r.2.1 r.2.2) (s.setAccessed t.accessed)

/-- What an access does besides, once it is translated: what its walk read, the entries whose D bits it sets (01 R31), the placement
of its own address (01 R33, R35), and the page whose repeat count starts anew (01 R41). -/
structure Use where
  trail : Trail
  dirty : List Nat
  plc : Nat
  die : Nat
  walked : Option Nat
  deriving DecidableEq, Repr

/-- A translated access of a partition from a die is made: A, then D, and the regions it meets are placed. -/
def State.usePte (s : State) (part die pa : Nat) (u : Use) : State :=
  let s := ((s.tread part die u.trail).setDirty u.dirty).placeFor part die pa u.plc u.die
  match u.walked with
  | some key => { s with repeats := FMap.erase s.repeats key }
  | none => s

/-- Where a walk ends: the entry's physical address, the address its table names it by, its value and its level, the entries
whose A bit its use sets and the table lines it read, those whose D bit that sets in turn, and the second-stage entries whose D bit
an update of it sets. -/
structure Leaf extends Trail where
  pte : Nat
  ipa : Nat
  e : Nat
  level : Nat
  dirtied : List Nat
  marks : Option (List Nat)
  deriving DecidableEq, Repr

/-- How a walk ends, with what it had read where it finds no translation. -/
inductive WalkEnd where
  | leaf (l : Leaf)
  | fault (kind level : Nat) (t : Trail)
  /-- a second-stage fault while an access of its own (a table read, an A or D update) is made to a first-stage table -/
  | stage2 (acc : Acc) (kind level ipa : Nat) (range : Option (Nat × BitVec 7)) (t : Trail)
  | trap (cause sub : BitVec 8) (t : Trail)
  /-- a table read met a poisoned line: the context is killed (03 R99) -/
  | poison (line : Nat) (t : Trail)
  deriving DecidableEq, Repr

/-- What a walk came to, after reads that were made before. -/
def WalkEnd.since (a : Trail) : WalkEnd → WalkEnd
  | .leaf l => .leaf { l with toTrail := a.after l.toTrail }
  | .fault k l t => .fault k l (a.after t)
  | .stage2 acc k l ipa r t => .stage2 acc k l ipa r (a.after t)
  | .trap c b t => .trap c b (a.after t)
  | .poison n t => .poison n (a.after t)

/-- Whether a valid table entry is malformed at a level (01 R29). The frame of an entry of a CONT group is held to the page
size of its level, 4 KiB or 2 MiB: each of the sixteen names its own part of the larger page.
(DESIGN CHOICE, notes/assumptions/125.md.) -/
def pteMalformed (stage2 : Bool) (e level : Nat) : Bool :=
  bitsAt e 54 6 != 0 || (bitAt e 1 && decide (3 ≤ level)) || (!bitAt e 1 && level == 0) ||
  (bitAt e 7 && level == 2) || (bitAt e 1 && !stage2 && bitsAt e 10 2 == 3) ||
  (bitAt e 1 && bitsAt e 12 40 % 2 ^ (9 * level) != 0)

/-- A walk that has read nothing yet. -/
def Leaf.start : Leaf :=
  { pte := 0, ipa := 0, e := 0, level := 0, accessed := [], dirtied := [], reads := [], marks := some [] }

/-- Walk from a level down, reading each entry through a given translation of its address (01 R28, R29, 03 R99). -/
def State.walkFrom (s : State) (stage2 : Bool) (read : Nat → WalkEnd) (va : Nat) : Nat → Nat → Trail → WalkEnd
  | level, table, done =>
    match read (table + 8 * bitsAt va (12 + 9 * level) 9) with
    | .leaf r =>
      let e := s.mread r.pte 8
      let done := done.after r.toTrail
      if s.poison.contains (r.pte / 64) then .poison (r.pte / 64) done
      else if !bitAt e 0 then .fault 1 level done
      else if pteMalformed stage2 e level then .fault 6 level done
      else if bitAt e 1 then
        .leaf { r with toTrail := done, ipa := table + 8 * bitsAt va (12 + 9 * level) 9, e := e, level := level }
      else
        match level with
        | 0 => .fault 6 0 done
        | l + 1 => s.walkFrom stage2 read va l (4096 * bitsAt e 12 40) done
    | w => w.since done

/-- A table read at a physical address. -/
def physRead (pa : Nat) : WalkEnd :=
  if paHole pa then .trap Cause.accessViolation 3 Trail.none
  else .leaf { Leaf.start with pte := pa, ipa := pa }

/-- The kind a second-stage fault of an access to a first-stage table reports: WALK_STAGE2 for a read, its own kind for an
update, and MALFORMED, which is never replayable, for a malformed entry (01 R29, R38, R41).
(DEDUCED, notes/assumptions/127.md.) -/
def walkKind (acc : Acc) (kind : Nat) : Nat := if acc == .tableRead && kind != 6 then 7 else kind

/-- The second stage for one access to a first-stage table, walking where no range maps it. A table read has no placement of a first
stage to inherit, and takes interleaved where its entry's PLC is 3 (01 R33). (DESIGN CHOICE, notes/assumptions/144.md.) -/
def State.stage2 (s : State) (part : Nat) (acc : Acc) (ipa : Nat) : WalkEnd :=
  let final (pa plc die : Nat) (l : Leaf) : WalkEnd :=
    if paHole pa then .trap Cause.accessViolation 3 Trail.none
    else .leaf { l with pte := pa, ipa := ipa, reads := [(pa, s.plcOf part (if plc == 3 then 0 else plc), die)] }
  if decide (2 ^ 52 ≤ ipa) then .trap Cause.accessViolation 3 Trail.none
  else if !(s.part part).s2en then physRead ipa
  else
    match rangeStep true (s.part part).ranges2 acc false ipa with
    | .trap c b => .trap c b Trail.none
    | .mapped out plc die => final out plc die Leaf.start
    | .paged r =>
      match s.walkFrom true physRead ipa 4 (s.part part).root2 Trail.none with
      | .leaf l =>
        let k := denyKind (BitVec.ofNat 5 (l.e / 4)) acc false
        if k != 0 then .stage2 acc (walkKind acc k) l.level ipa r l.toTrail
        else
          final (4096 * bitsAt l.e 12 40 + ipa % 2 ^ (12 + 9 * l.level)) (bitsAt l.e 10 2) (bitsAt l.e 52 2)
            { l with accessed := l.accessed ++ [l.pte], dirtied := if acc.writes then [l.pte] else [] }
      | .fault k l t => .stage2 acc (walkKind acc k) l ipa r t
      | w => w

/-- The entry that translates: the one walked to, or, in a CONT group whose entries disagree, the one the device takes, which it
has read, so that a poisoned line kills the context (01 R30, 03 R99). (DESIGN CHOICE, notes/assumptions/12.md.) -/
def State.contEntry (s : State) (l : Leaf) : WalkEnd :=
  if !bitAt l.e 7 then .leaf l
  else
    let base := l.pte - l.pte % 128
    let i := l.pte % 128 / 8
    let size := 2 ^ (9 * l.level)
    let field (x : Nat) : Nat := bitsAt x 52 8 * 4096 + x % 4096 - x % 1024 / 256 * 256
    let ok := (List.range 16).all fun j =>
      let x := s.mread (base + 8 * j) 8
      field x == field l.e && bitsAt x 12 40 + i * size == bitsAt l.e 12 40 + j * size
    if ok then .leaf l
    else
      let j := (Config.contChoice s.freeCount).toNat
      let x := s.mread (base + 8 * j) 8
      if s.poison.contains ((base + 8 * j) / 64) then .poison ((base + 8 * j) / 64) l.toTrail
      else if bitAt x 0 && !pteMalformed false x l.level && bitAt x 1 && bitAt x 7 then
        let frame := (bitsAt x 12 40 + i * size + 2 ^ 40 - j * size) % 2 ^ 40
        .leaf { l with pte := base + 8 * j, ipa := l.ipa - l.ipa % 128 + 8 * j, e := x - 4096 * bitsAt x 12 40 + 4096 * frame }
      else .leaf l

/-- The cached translation a leaf gives a page. -/
def leafTlb (owner page : Nat) (l : Leaf) : Tlb :=
  { owner := owner, page := page, frame := bitsAt l.e 12 40 + page % 2 ^ (9 * l.level)
    perms := BitVec.ofNat 5 (l.e / 4), plc := bitsAt l.e 10 2, die := bitsAt l.e 52 2, dirty := bitAt l.e 9, pte := l.pte
    marks := l.marks, level := l.level }

/-- Keep a cached translation in place of the one for its page. -/
def putTlb (l : List Tlb) (t : Tlb) : List Tlb := t :: l.filter fun u => !(u.owner == t.owner && u.page == t.page)

/-- The pending-table entry of a die for a context's page at a stage (01 R51). A fault of a large page is kept by the 4 KiB
frame it was found on, so that a fault on another frame of the page has an entry of its own.
(DESIGN CHOICE, notes/assumptions/128.md.) -/
def State.pendFor (s : State) (die : Nat) (ctx : CtxKey) (stage page : Nat) : Option (Nat × PendEntry) :=
  (s.die die).pending.find? fun p => p.2.walk.ctx == ctx && p.2.walk.stage == stage && p.2.walk.page == page

/-- The fault ID of a pending-table entry (01 R45). -/
def fidOf (die index : Nat) (gen : BitVec 4) : BitVec 16 := BitVec.ofNat 2 die ++ gen ++ BitVec.ofNat 10 index

/-- Two waiters as one, where they are lanes of one fragment or the same unit; the first's address stands. -/
def Waiter.merge (x w : Waiter) : Option Waiter :=
  match x.who, w.who with
  | .frag c a f m, .frag c' a' f' m' =>
    if c == c' && a == a' && f == f' then some { x with who := .frag c a f (m ||| m') } else none
  | p, q => if p = q then some x else none

/-- Add a waiter to a list. -/
def addWaiter : List Waiter → Waiter → List Waiter
  | [], w => [w]
  | x :: r, w => match x.merge w with
    | some y => y :: r
    | none => x :: addWaiter r w

/-- Whether two walks are of one context, stage and page (01 R51). -/
def Walk.same (a b : Walk) : Bool := a.ctx == b.ctx && a.stage == b.stage && a.page == b.page

/-- A new miss of a die: it takes a walk slot, or waits in the miss queue behind those before it, or finds that full
(01 R50). -/
def Die.miss (d : Die) (w : Walk) : Option Die :=
  match FMap.freeKey d.walks Config.walkSlots with
  | some k => some { d with walks := FMap.set d.walks k w }
  | none => if d.missq.length < Config.missSlots then some { d with missq := d.missq ++ [w] } else none

/-- Start or join a walk of a die (01 R50, R51); none where the miss queue is full. -/
def Die.join (d : Die) (w : Walk) (by' : Who) : Option Die :=
  let who : Waiter := { toAsk := w.toAsk, who := by' }
  if d.walks.any (fun p => p.2.same w) then
    some { d with walks := d.walks.map fun p =>
        if p.2.same w then (p.1, { p.2 with waiters := addWaiter p.2.waiters who }) else p }
  else if d.missq.any (fun x => x.same w) then
    some { d with missq := d.missq.map fun x => if x.same w then { x with waiters := addWaiter x.waiters who } else x }
  else d.miss { w with waiters := [who] }

/-- Walk slots that are free are taken by the queued misses, the oldest first (01 R50). -/
def Die.fillFrom (d : Die) : List Walk → Die
  | [] => { d with missq := [] }
  | w :: rest =>
    match FMap.freeKey d.walks Config.walkSlots with
    | some k => ({ d with walks := FMap.set d.walks k w }).fillFrom rest
    | none => { d with missq := w :: rest }

/-- Start or join a walk of a die's walker (01 R50, R51); where the miss queue is full the miss stalls. -/
def State.startWalk (s : State) (die : Nat) (w : Walk) (who : Who) : State :=
  s.modDie die fun d => (d.join w who).getD d

end Sys2Proof.Machine
end

