-- ==== Sys2Proof/Machine/Folios.lean ====
section
/-!
DEFINITION. Bytes wherever they live, atomics on them (10 R314), and the folio table with the effects of losing and
freeing a folio (02 R57 to R59, R70, R71, R81, 03 R100, R105, R108).
-/
namespace Sys2Proof.Machine

/-- The entry of a folio-table slot that nothing has used: FREE with GEN 1 (02 R57). -/
def Folio.fresh : Folio :=
  { gen := 1, state := .free, rank := 0, pers := false, clm := none, own := none, size := 0, start := 0, handler := 0
    backing := 0, key := 0, ctx := 0, inSewn := false }

/-- The entry of a slot. -/
def Core.folio (k : Core) (slot : Nat) : Folio := FMap.getD k.folios slot Folio.fresh

/-- Whether a folio holds capacity (02 R60). -/
def Folio.holds (f : Folio) : Bool :=
  match f.state with
  | .bound | .closing | .rebinding => true
  | _ => false

/-- The slot of a handle (02 R58). -/
def handleSlot (h : Word) : Nat := (h.extractLsb' 0 16).toNat
/-- The generation of a handle (02 R58). -/
def handleGen (h : Word) : BitVec 16 := h.extractLsb' 16 16
/-- The handle of a slot (02 R58). -/
def handleOf (slot : Nat) (gen : BitVec 16) : Word := gen ++ BitVec.ofNat 16 slot

/-- The live folio that a handle names for a context (02 R58, 10 R308). -/
def Core.liveFolio (k : Core) (ctx : CtxKey) (h : Word) : Option (Nat × Folio) :=
  let slot := handleSlot h
  let f := k.folio slot
  if handleGen h != 0 && decide (slot < Config.folioSlots) && f.gen == handleGen h && f.state != .free && f.ctx == ctx
  then some (slot, f) else none

/-- The scratchpad byte of an offset in a folio (02 R53). -/
def Folio.padAddr (f : Folio) (off : Nat) : Nat := 512 * f.start + off

/-- The value of n bytes of a folio in scratchpad. -/
def Core.padRead (k : Core) (slot off n : Nat) : Nat := Memory.readNat k.pad ((k.folio slot).padAddr off) n

/-- Write n bytes of a folio in scratchpad. -/
def Core.padWrite (k : Core) (slot off n v : Nat) : Core :=
  { k with pad := Memory.writeBytes k.pad ((k.folio slot).padAddr off) (bytesOf n v) }

/-- Fill scratchpad units with zero; errors in them go (02 R66, R93). -/
def Core.zeroUnits (k : Core) (start units : Nat) : Core :=
  { k with
    pad := FMap.keep k.pad fun a _ => decide (a < 512 * start) || decide (512 * (start + units) ≤ a)
    padBad := k.padBad.filter fun w => decide (w < 64 * start) || decide (64 * (start + units) ≤ w) }

/-- Whether bytes of a folio lie in a word with an uncorrectable error (02 R93). (DEDUCED, notes/assumptions/44.md.) -/
def Core.padBroken (k : Core) (slot off n : Nat) : Bool :=
  k.padBad.any fun w => decide (8 * w < (k.folio slot).padAddr off + n) && decide ((k.folio slot).padAddr off < 8 * w + 8)

/-- The value of n bytes at a place (00 R6). -/
def State.locRead (s : State) (core : Nat) (l : Loc) (n : Nat) : Nat :=
  match l with
  | .global pa => s.mread pa n
  | .folio slot off => (s.core core).padRead slot off n

/-- Write n bytes at a place, a copy in the writing core's data cache being updated with it (03 R95); a write to memory is charged
to the cluster's byte budget (15 R455). -/
def State.locWrite (s : State) (core : Nat) (l : Loc) (n v : Nat) : State :=
  match l with
  | .global pa =>
    let s := (s.mwrite pa n v).charge core n
    s.modCore core fun k => { k with cdc := FMap.modify k.cdc (pa / 64) fun line =>
        (Memory.writeBytes ((List.range 64).zip line) (pa % 64) (bytesOf n v) |> fun m =>
          (List.range 64).map fun i => FMap.getD m i 0) }
  | .folio slot off => s.modCore core fun k => k.padWrite slot off n v

/-- The new value of an atomic: AOP, SX, width in bytes, old value, operand, and the swap value of cas (10 R314). -/
def aopValue (aop : Nat) (sx : Bool) (bytes m c c1 : Nat) : Nat :=
  let w := 8 * bytes
  let signed := toSigned w
  let less (a b : Nat) : Bool := if sx then decide (signed a < signed b) else decide (a < b)
  let f := FloatFmt.f32
  let fl (r : FRes) : Nat := r.bits
  match aop with
  | 0 => (m + c) % 2 ^ w
  | 1 => if less c m then c else m
  | 2 => if less m c then c else m
  | 3 => m &&& c
  | 4 => m ||| c
  | 5 => m ^^^ c
  | 6 => c
  | 7 => if m == c then c1 else m
  | 8 => if c ≤ m then 0 else m + 1
  | 9 => if m == 0 || decide (c < m) then c else m - 1
  | 10 => fl (f.add 0 (f.value m) (f.value c))
  | 11 => fl (f.minMax false m c)
  | _ => fl (f.minMax true m c)

/-- Place an unplaced 64 KiB region at its first access, by a core (01 R35). -/
def State.place (s : State) (core pa plc die : Nat) : State :=
  s.placeFor (((s.ownerOf (clusterOf core)).map (·.1)).getD 16) (dieOf core) pa plc die

/-- Drop a line of a core's data cache (03 R95). -/
def State.cdcDrop (s : State) (core line : Nat) : State :=
  s.modCore core fun k => { k with cdc := FMap.erase k.cdc line }

/-- Perform one atomic at a place; a copy in the issuing core's data cache is dropped, and the home slice of a host line has taken
it (03 R95, R98, 10 R315); an atomic on memory is charged 64 bytes (15 R455). -/
def State.atomAt (s : State) (core : Nat) (l : Loc) (bytes aop : Nat) (sx : Bool) (c c1 : Nat) : State :=
  let v := aopValue aop sx bytes (s.locRead core l bytes) c c1
  match l with
  | .global pa => (((s.cdcDrop core (pa / 64)).ownLine pa).mwrite pa bytes v).charge core 64
  | .folio slot off => s.modCore core fun k => k.padWrite slot off bytes v

/-- The lock index of a line number (03 R100). -/
def lockHash (x : Nat) : Nat := (x % 64) ^^^ (x / 64 % 64) ^^^ (x / 4096 % 64)

/-- The key of the lock bit of a scratchpad byte: bank and index (03 R100). -/
def padLock (padByte : Nat) : Nat :=
  let bank := padByte / 32768
  64 * bank + lockHash (padByte % 32768 / 64)

/-- The key of the lock bit of a BACKED folio's line (03 R100). -/
def backedLock (va : Nat) : Nat := 64 * 64 + lockHash (va / 64)

/-- The lock bits a BACKED folio's lines map to are released when it returns to capacity or to FREE (03 R103). -/
def Core.dropBackedLocks (k : Core) (f : Folio) : Core :=
  if f.state == .backed then
    let keys := (List.range (8 * f.size)).map fun i => backedLock (f.backing.toNat + 64 * i)
    { k with locks := FMap.keep k.locks fun key _ => !keys.contains key }
  else k

/-- Release every lock bit of a warp (03 R103). -/
def Core.dropLocks (k : Core) (w : Nat) : Core := { k with locks := FMap.keep k.locks fun _ l => l.warp != w }

/-- The gathering records in a folio. -/
def Core.gathOf (k : Core) (slot : Nat) : List Nat :=
  (k.gath.filter fun g => handleSlot g.2.handle == slot && handleGen g.2.handle == (k.folio slot).gen).map (·.1)

/-- An engine operation with a slot in a gathering, or waiting for one. -/
def EngineOp.inGath (o : EngineOp) (rec : Nat) : Bool :=
  match o.slot with
  | some (r, _) => r == rec
  | none => o.waitsSlot && match o.kind with
    | .copy (.gather r _) _ _ _ _ _ => r == rec
    | .gather (.gather r _) _ _ _ _ => r == rec
    | _ => false

/-- The status of an operation that an earlier one has not set already; a dropped word has made it LOST (02 R81). -/
def EngineOp.fail (o : EngineOp) (status : Nat) (i0 i1 : Word) : EngineOp :=
  match o.status, o.lost with
  | some _, _ => o
  | none, some (_, h, off) => { o with status := some 1, info0 := h, info1 := off, waitsSlot := false }
  | none, none => { o with status := some status, info0 := i0, info1 := i1, waitsSlot := false }

/-- The first word of an operation that is not transferred. -/
def EngineOp.firstLeft (o : EngineOp) : Nat := ((List.range (o.done.length + 1)).find? fun j => !o.done.contains j).getD 0

/-- The offset in its slot at which an operation into a gathering writes word n (12 R380, R383). -/
def EngineOp.slotPos (o : EngineOp) (n : Nat) : Nat :=
  match o.kind with
  | .copy (.gather _ x) _ _ len _ ds => x + 4 * n / len * ds + 4 * n % len
  | .gather (.gather _ x) _ _ _ _ => x + 4 * n
  | _ => 4 * n

/-- Loss of a gathering's folio: its counters are cleared and operations in it complete LOST (03 R108, 02 R86).
(DEDUCED, notes/assumptions/90.md.) -/
def Core.loseGath (k : Core) (rec : Nat) : Core :=
  match FMap.get k.gath rec with
  | none => k
  | some g =>
    let ring := 64 * g.off
    let size := 64 * (g.slotsz + 1)
    { k with
      gath := FMap.set k.gath rec { g with pi := 0, ci := 0, res := 0, fill := 0, held := 0, order := [] }
      warps := FMap.mapV k.warps fun _ w => { w with reserved := w.reserved.filter fun r => r.1 != rec }
      ops := FMap.mapV k.ops fun _ o =>
        if o.inGath rec then
          o.fail 1 g.handle (BitVec.ofNat 32 (match o.slot with
            | some (_, i) => ring + size * i + o.slotPos o.firstLeft
            | none => ring))
        else o }

/-- Clear the claim on a folio; a claimant that is not the cause is not told (02 R70, R71). (DEDUCED, notes/assumptions/19.md.) -/
def Core.revoke (k : Core) (slot : Nat) : Core :=
  match (k.folio slot).clm with
  | none => k
  | some w => { k with warps := FMap.modify k.warps w fun x =>
      { x with revoked := slot :: x.revoked.filter fun i => i != slot } }

/-- A quantum that is discarded with its folio, as the next release meets it (02 R82). -/
def Quantum.lost (q : Quantum) (k : Core) : LostQuantum :=
  match q.loc with
  | .folio t o => { handle := handleOf t (k.folio t).gen, off := o, scope := q.scope }
  | .global _ => { handle := 0, off := 0, scope := q.scope }

/-- The quanta of a folio that is lost are discarded, to be met at the next release (02 R82). -/
def Core.discardQuanta (k : Core) (slot : Nat) : Core :=
  { k with warps := FMap.mapV k.warps fun _ w =>
      let gone := w.quanta.filter fun q => match q.loc with
        | .folio t _ => t == slot
        | .global _ => false
      { w with
        quanta := w.quanta.filter fun q => !gone.contains q
        lostQuanta := w.lostQuanta ++ gone.map fun q => q.lost k } }

/-- The compensations owed on a folio that is gone, or that an open record may come to owe, go with it: nothing may be written
to its capacity any more (04 R148, R158). -/
def Core.dropComps (k : Core) (slot : Nat) : Core :=
  let keep (l : List Comp) : List Comp := l.filter fun p => match p.loc with
    | .folio t _ => t != slot
    | .global _ => true
  { k with warps := FMap.mapV k.warps fun _ w =>
      { w with comps := keep w.comps, spec := FMap.mapV w.spec fun _ r => { r with atomics := keep r.atomics } } }

/-- A folio becomes LOST: its capacity, its claim, its gatherings, its pending quanta and what is owed on it go (02 R70, R71,
R81, R82). -/
def Core.loseFolio (k : Core) (slot : Nat) : Core :=
  let k := ((k.revoke slot).discardQuanta slot).dropComps slot
  let k := (k.gathOf slot).foldl (fun k r => k.loseGath r) k
  k.modFolio slot fun f => { f with state := .lost, clm := none, start := 0, inSewn := false }

/-- The generation after one (02 R58). -/
def nextGen (g : BitVec 16) : BitVec 16 := if g = 0xFFFF then 1 else g + 1

/-- A folio returns to FREE: GEN advances and its gathering records free (02 R70, R58, 03 R103, R105, R108).
(DEDUCED, notes/assumptions/13.md.) -/
def Core.freeFolio (k : Core) (slot : Nat) : Core :=
  let recs := k.gathOf slot
  let k := recs.foldl (fun k r => k.loseGath r) (k.dropBackedLocks (k.folio slot))
  let g := nextGen (k.folio slot).gen
  { k with gath := FMap.keep k.gath fun r _ => !recs.contains r
           warps := FMap.mapV (k.dropComps slot).warps fun _ w => { w with revoked := w.revoked.filter fun t => t != slot }
           folios := FMap.set k.folios slot { Folio.fresh with gen := g } }

/-- The folios of a core that hold capacity, with the slot. -/
def Core.holders (k : Core) : List (Nat × Folio) := k.folios.filter fun p => p.2.holds

/-! Uncorrectable errors, quanta and compensations. -/

/-- A word of a folio is found broken by an access of no instruction: the folio becomes LOST, and at rank 7 its context is to be
killed (02 R93). -/
def State.brokenFolio (s : State) (c slot : Nat) : State :=
  if ((s.core c).folio slot).rank == 7 then { s with doomed := ((s.core c).folio slot).ctx :: s.doomed }
  else s.modCore c fun k => k.loseFolio slot

/-- Perform a deferred atomic at a place, if its bytes are whole; one of a folio that has no capacity is not performed
(02 R93, 04 R158). -/
def State.atomLater (s : State) (c : Nat) (l : Loc) (bytes aop : Nat) (sx : Bool) (v : Nat) : State :=
  match l with
  | .global _ => s.atomAt c l bytes aop sx v 0
  | .folio slot off =>
    if !((s.core c).folio slot).holds then s
    else if (s.core c).padBroken slot off bytes then s.brokenFolio c slot
    else s.atomAt c l bytes aop sx v 0

/-- The bank of the scratchpad in which another warp holds the lock bit of a pending quantum's line (03 R101, 10 R315). -/
def Core.lockedQuantum (k : Core) (w : Nat) (q : Quantum) : Option Nat :=
  match q.loc with
  | .global _ => none
  | .folio slot off =>
    let key := padLock ((k.folio slot).padAddr off)
    (FMap.get k.locks key).bind fun l => if l.warp == w then none else some (key / 64)

/-- Apply a quantum (04 R147). -/
def State.applyQuantum (s : State) (c : Nat) (q : Quantum) : State :=
  (s.setDirty q.dirty).atomLater c q.loc q.bytes q.aop q.sx q.value

/-- The word that a frwait.w of a warp waits on as it stands now, where its folio lets it be read (02 R73, 10 R328, 17 R495). -/
def State.wordNow (s : State) (c wi : Nat) (ctx : CtxKey) (level0 : Bool) (h : Word) (off : Nat) : Option Word :=
  match (s.core c).liveFolio ctx h with
  | none => none
  | some (slot, f) =>
    let pad := BitVec.ofNat 32 (s.locRead c (.folio slot off) 4)
    match f.state with
    | .bound | .closing => some pad
    | .rebinding => if f.clm == some wi then some pad else none
    | .backed => match s.translate ctx level0 .load (f.backing + BitVec.ofNat 64 off) with
      | .pa pa _ _ _ => some (BitVec.ofNat 32 (s.mread pa 4))
      | _ => none
    | .lost | .free => none

/-- Whether the word of a fragment in frwait.w differs now from the value it waits on. -/
def State.differs (s : State) (c wi : Nat) (w : Warp) (f : Frag) : Bool :=
  match f.state, f.wait, FMap.get (s.core c).wgs w.wg with
  | .waiting, .folioWord h off v _ _, some g => (s.wordNow c wi g.ctx (f.priv == 0) h off).any fun x => x != v
  | _, _, _ => false

/-- One of the writes of a step has been performed: the waits whose word it made differ end, whatever is written after it
(10 R328, 17 R495). -/
def State.noticed (s : State) : State :=
  let l := s.cores.flatMap fun k => k.2.warps.flatMap fun w =>
    (w.2.frags.filter fun f => s.differs k.1 w.1 w.2 f.2).map fun f => (k.1, w.1, f.1)
  { s with met := s.met ++ l.filter fun x => !s.met.contains x }

/-- Apply the first of the quanta of a warp that pass, and drop it, some times (04 R147). -/
def State.applyFirst (c w : Nat) (p : Quantum → Bool) : Nat → State → State
  | 0, s => s
  | n + 1, s =>
    match (s.warp c w).bind fun x => x.quanta.find? p with
    | none => s
    | some q =>
      State.applyFirst c w p n (((s.applyQuantum c q).modWarp c w fun x => { x with quanta := x.quanta.erase q }).noticed)

/-- Apply the quanta of a warp that pass, oldest first, and drop them; those of a folio that is found broken meanwhile, the one
that found it among them, are discarded with it (04 R147, 02 R82, R93). -/
def State.applyQuanta (s : State) (c w : Nat) (p : Quantum → Bool) : State :=
  match s.warp c w with
  | none => s
  | some x => State.applyFirst c w p x.quanta.length s

/-- Apply every pending quantum of the core whose target is a folio (02 R74, 04 R147). -/
def State.applyFolioQuanta (s : State) (c slot : Nat) : State :=
  (FMap.keys (s.core c).warps).foldl (fun s w => s.applyQuanta c w fun q => q.target == some slot) s

/-- The bank of a lock bit that keeps a pending quantum on a folio from being applied: one that neither the quantum's warp nor the
one that acts on the folio holds (10 R315). (DEDUCED, notes/assumptions/30.md.) -/
def Core.folioLock (k : Core) (w slot : Nat) : Option Nat :=
  k.warps.findSome? fun x => (x.2.quanta.filter fun q => q.target == some slot).findSome? fun q =>
    (k.lockedQuantum x.1 q).bind fun bank => if (k.lockedQuantum w q).isSome then some bank else none

/-- The quanta of a warp on a folio that is CLOSING are applied, each as soon as no lock bit of another warp keeps it (02 R74,
04 R147, 10 R315). (DEDUCED, notes/assumptions/30.md.) -/
def State.applyClosing (s : State) (c w : Nat) : State :=
  s.applyQuanta c w fun q => ((s.core c).lockedQuantum w q).isNone && (q.target.map fun t => ((s.core c).folio t).state == .closing).getD false

/-- Whether two ranges of bytes of one place overlap. -/
def Loc.overlaps (a : Loc) (n : Nat) (b : Loc) (m : Nat) : Bool :=
  match a, b with
  | .global x, .global y => decide (x < y + m) && decide (y < x + n)
  | .folio s x, .folio t y => s == t && decide (x < y + m) && decide (y < x + n)
  | _, _ => false

/-- The core and slot where a warp is resident. -/
def State.placeOf (s : State) (uid : Nat) : Option (Nat × Nat) :=
  s.cores.findSome? fun k => (k.2.warps.find? fun w => w.2.uid == uid).map fun w => (k.1, w.1)

/-- An operation of a warp on a core reads or writes bytes of a place: the warp's pending quanta on them come first, wherever the
warp is now (04 R140, R147, R152). -/
def State.touchUid (s : State) (uid c : Nat) (l : Loc) (n : Nat) : State :=
  match s.placeOf uid with
  | none => s
  | some (d, w) =>
    let here := d == c || match l with
      | .global _ => true
      | .folio _ _ => false
    if here then s.applyQuanta d w fun q => q.loc.overlaps q.bytes l n else s

/-- An operation of a warp on a core has written a line: neither that core nor the one where the warp is now keeps a copy
(03 R95, 04 R153). -/
def State.cdcDropUid (s : State) (uid c line : Nat) : State :=
  match s.placeOf uid with
  | none => s.cdcDrop c line
  | some (d, _) => (s.cdcDrop c line).cdcDrop d line

/-- Perform the compensations a warp owes (04 R148). -/
def State.payComps (s : State) (c w : Nat) : State :=
  match s.warp c w with
  | none => s
  | some x =>
    let s := x.comps.foldl (fun s p =>
      (s.atomLater c p.loc p.bytes (if p.isXor then 5 else 0) false
        (if p.isXor then p.value else (2 ^ (8 * p.bytes) - p.value) % 2 ^ (8 * p.bytes))).noticed) s
    s.modWarp c w fun x => { x with comps := [] }

end Sys2Proof.Machine
end

