-- ==== Sys2Proof/Machine/Fragments.lean ====
section
/-!
DEFINITION. The split table and the reconvergence records (05 R165 to R172, R190 to R196), and the workgroup's barriers
(11 R339, R340), as operations on one warp or one core.
-/
namespace Sys2Proof.Machine

/-- Split-table entries that speculation records hold for replays (06 R209). -/
def Warp.reservedEntries (w : Warp) : List Nat := w.spec.flatMap fun p => p.2.reserved

/-- The free split-table entries, lowest first. -/
def Warp.freeEntries (w : Warp) : List Nat :=
  (List.range Config.fragEntries).filter fun i => !FMap.has w.frags i && !w.reservedEntries.contains i

/-- The lowest free split-table entry. -/
def Warp.freeEntry (w : Warp) : Option Nat := w.freeEntries.head?

/-- The lowest free reconvergence record. (DESIGN CHOICE, notes/assumptions/133.md.) -/
def Warp.freeRec (w : Warp) : Option Nat := FMap.freeKey w.recs Config.fragEntries

/-- Whether a fragment is speculative. -/
def Frag.isSpec (f : Frag) : Bool := f.state == .speculative

/-- A fragment of a mask that goes on READY at an address under a record, in the privilege and mode of another. -/
def Frag.fresh (f : Frag) (m : Mask) (pc : SlotAddr) (rcd : Option Nat) : Frag :=
  { f with state := .ready, rpl := false, pc := pc, rcd := rcd, wait := .none, ptrap := 0, mask := m, pend := 0
           fids := [], notes := [], step := false, stepped := false, age := 0, deferred := false, entry := none, behind := none
           quires := none, half := [] }

/-- A fragment whose instruction has completed: it stands at the next slot, ready to trap if it was stepped (13 R398). -/
def Frag.finish (f : Frag) : Frag :=
  { f with pc := nextSlot f.pc, wait := .none, age := 0, notes := [], pend := 0, entry := none, deferred := false
           step := false, stepped := f.stepped || f.step, behind := none, quires := none, half := [] }

/-- A WAITING fragment whose wait has ended (05 R170). -/
def Frag.endWait (f : Frag) : Frag := { f.finish with state := .ready }

/-- Put one fragment in place of several, in the lowest of their entries (05 R168, R193). -/
def Warp.fuse (w : Warp) (ids : List Nat) (f : Frag) : Warp :=
  match ids with
  | [] => w
  | i :: r => { w with frags := FMap.set (r.foldl (fun m j => FMap.erase m j) w.frags) i f }

/-- Whether a fragment waits at a record. -/
def Frag.atRec (f : Frag) (r : Nat) : Bool := f.state == .waiting && f.wait == .record && f.rcd == some r

/-- Complete one record if every expected live lane has arrived (05 R168). -/
def Warp.completeRec (w : Warp) (r : Nat) : Warp :=
  match FMap.get w.recs r with
  | none => w
  | some rec =>
    if !subMask (rec.expect &&& w.live) rec.arrive then w
    else
      let there := w.frags.filter fun p => p.2.atRec r
      let w' := { w with recs := FMap.erase w.recs r }
      match there with
      | [] => if w.frags.any (fun p => p.2.rcd == some r) then w else w'
      | (_, f) :: _ =>
        w'.fuse (there.map (·.1)) { f.fresh (rec.arrive &&& w.live) rec.addr rec.outer with
          held := there.any fun p => p.2.held
          step := there.any fun p => p.2.step
          stepped := there.any fun p => p.2.stepped }

/-- Complete every record that can be. -/
def Warp.completeRecs (w : Warp) : Warp := (List.range Config.fragEntries).foldl Warp.completeRec w

/-- A fragment waiting at a collective that holds every live lane, or at a tret with every lane of the handler, is READY
to perform it (05 R186, R192). -/
def Warp.wakeCollectives (w : Warp) : Warp :=
  { w with frags := FMap.mapV w.frags fun _ f =>
      if f.state == .waiting && f.wait == .collective && f.mask == w.live then
        { f with state := .ready, wait := .none }
      else if f.state == .waiting && f.wait == .tret && w.frags.all (fun p => !p.2.trm || p.2.mask == f.mask) then
        { f with state := .ready, wait := .none }
      else f }

/-- Lanes arrive at a fragment's record as a new waiting fragment in an entry (05 R168, R172). -/
def Warp.arrive (w : Warp) (entry r : Nat) (f : Frag) (m : Mask) : Warp :=
  match FMap.get w.recs r with
  | none => w
  | some rec =>
    { w with
      frags := FMap.set w.frags entry { f.fresh m rec.addr (some r) with state := .waiting, wait := .record }
      recs := FMap.set w.recs r { rec with arrive := rec.arrive ||| m } }

/-- The record that a branch meets at: the fragment's own when it is at that address, else a new one (05 R167). The
warp with it and its index; none where no record is free. -/
def Warp.meetAt (w : Warp) (f : Frag) (y : SlotAddr) (expect : Mask) : Option (Warp × Nat) :=
  let own := match f.rcd with
    | none => none
    | some r => match FMap.get w.recs r with
      | none => none
      | some rec => if rec.addr == y then some r else none
  match own with
  | some r => some (w, r)
  | none =>
    match w.freeRec with
    | none => none
    | some r => some ({ w with recs := FMap.set w.recs r { addr := y, expect := expect, arrive := 0, outer := f.rcd } }, r)

/-- Free the physical registers whose dead lanes cover every live lane (05 R176). -/
def Warp.freeDead (w : Warp) : Warp :=
  { w with v := FMap.keep w.v fun _ r => !subMask w.live r.dead
           vTrap := FMap.keep w.vTrap fun _ r => !subMask w.live r.dead }

/-- Lanes leave the live mask and every fragment (05 R195, R196). -/
def Warp.dropLanes (w : Warp) (m : Mask) : Warp :=
  let w := { w with
    live := w.live &&& ~~~m
    frags := FMap.keep (FMap.mapV w.frags fun _ f => { f with mask := f.mask &&& ~~~m, pend := f.pend &&& ~~~m })
      fun _ f => f.mask != 0
    recs := FMap.mapV w.recs fun _ r => { r with arrive := r.arrive &&& ~~~m } }
  (w.freeDead.completeRecs).wakeCollectives

/-- The warps of a workgroup on a core. -/
def Core.wgWarps (k : Core) (g : Nat) : List (Nat × Warp) := k.warps.filter fun p => p.2.wg == g

/-- Fuse the fragments of a warp that leave a barrier from one slot under one record (05 R193), in the lowest of their entries.
(DESIGN CHOICE, notes/assumptions/133.md.) -/
def Warp.leaveBar (w : Warp) (b : Nat) : Warp :=
  let here := w.frags.filter fun p => p.2.state == .waiting && p.2.wait == .bar b
  let groups := (here.map fun p => (p.2.pc, p.2.rcd)).eraseDups
  let w := groups.foldl (fun w g =>
    let mem := here.filter fun p => p.2.pc == g.1 && p.2.rcd == g.2
    match mem with
    | [] => w
    | (_, f) :: _ =>
      w.fuse (mem.map (·.1)) { f.fresh (mem.foldl (fun m p => m ||| p.2.mask) 0) (nextSlot g.1) g.2 with
        held := mem.any fun p => p.2.held
        stepped := mem.any fun p => p.2.step
        rpl := mem.all fun p => p.2.rpl }) w
  { w with frags := FMap.mapV w.frags fun _ f =>
      if f.state == .waiting && f.wait == .barAgain b then { f with state := .ready, wait := .none }
      else if f.state == .waiting && f.wait == .barw b then
        f.endWait
      else f }

/-- A barrier with a warp's lanes arrived (11 R340). -/
def Barrier.join (b : Barrier) (warp : Nat) (m live : Mask) : Barrier :=
  let a := FMap.getD b.mask warp 0 ||| m
  { b with mask := FMap.set b.mask warp a
           arr := if subMask live a && !b.arr.contains warp then warp :: b.arr else b.arr }

/-- The barriers of a workgroup, of which there are sixteen, zero at creation (11 R339). -/
def Wg.bar (g : Wg) (b : Nat) : Barrier := FMap.getD g.bars b { phase := 0, arr := [], mask := [] }

/-- Set ARR of the warps whose live lanes have all arrived, and complete the phase when every warp of the workgroup has
arrived or has no live lane (05 R193, 11 R340). -/
def Core.checkBar (k : Core) (g b : Nat) : Core :=
  match FMap.get k.wgs g with
  | none => k
  | some wg =>
    let warps := k.wgWarps g
    let bar := wg.bar b
    let arr := (warps.filter fun p => p.2.live != 0 &&
      (bar.arr.contains p.2.index || subMask p.2.live (FMap.getD bar.mask p.2.index 0))).map fun p => p.2.index
    if !bar.mask.isEmpty && arr.length == warps.length then
      { k with
        wgs := FMap.set k.wgs g { wg with bars := FMap.set wg.bars b { phase := bar.phase + 1, arr := [], mask := [] } }
        warps := FMap.mapV k.warps fun _ w => if w.wg == g then w.leaveBar b else w }
    else if FMap.has wg.bars b then
      { k with wgs := FMap.set k.wgs g { wg with bars := FMap.set wg.bars b { bar with arr := arr } } }
    else k

/-- Check every barrier of a workgroup. -/
def Core.checkBars (k : Core) (g : Nat) : Core :=
  match FMap.get k.wgs g with
  | none => k
  | some wg => (FMap.keys wg.bars).foldl (fun k b => k.checkBar g b) k

end Sys2Proof.Machine
end

