-- ==== Sys2Proof/Machine/Fetch.lean ====
section
/-!
DEFINITION. Fetch lines (07 R228 to R232): translating, reading and keeping a line, its parity, its line word, and
whether a slot is a marked target.
-/
namespace Sys2Proof.Machine

/-- The bit count of a number's low n bits, modulo 2. -/
def parityOf (n x : Nat) : Bool := (List.range n).foldl (fun p i => p != x.testBit i) false

/-- The 64 bytes of a line as a number. -/
def lineNat (l : List Byte) : Nat := leOf l

/-- The instruction word in a slot of a line (07 R228). -/
def lineInstr (l : List Byte) (slot : Nat) : BitVec 96 := BitVec.ofNat 96 (lineNat l >>> (96 * slot))

/-- The line word (07 R228). -/
def lineWord (l : List Byte) : BitVec 32 := BitVec.ofNat 32 (lineNat l >>> 480)

/-- The parity mismatches of a line: bit i for slot i, bit 5 for the line word (07 R230, R249). -/
def lineBad (l : List Byte) : Nat :=
  let lw := lineWord l
  (List.range 5).foldl (fun m i =>
      if parityOf 96 (lineInstr l i).toNat != lw.getLsbD (16 + i) then m + 2 ^ i else m) 0 +
  (if parityOf 16 lw.toNat != lw.getLsbD 21 then 32 else 0)

/-- What a fetch finds. -/
inductive LineGet where
  /-- the line, its physical line number, its parity mismatches, and, where it comes from memory, the placement and the die of
  its page (01 R35) -/
  | line (bytes : List Byte) (num bad : Nat) (plc : Option (Nat × Nat))
  | trap (cause sub : BitVec 8)
  | miss (stage page ipa : Nat) (range : Option (Nat × BitVec 7))
  deriving DecidableEq, Repr

/-- Find the line of a slot address for a fragment's level: in the instruction cache, or in memory (07 R229, R232). -/
def State.getLine (s : State) (core : Nat) (ctx : CtxKey) (priv : Nat) (p : SlotAddr) : LineGet :=
  match s.translate ctx (priv == 0) .fetch (lineVa p) with
  | .trap c b => .trap c b
  | .miss st pg ipa r => .miss st pg ipa r
  | .pa pa plc die _ =>
    match FMap.get (s.core core).badLines (pa / 64) with
    | some bad => .line (Memory.readBytes s.mem (pa - pa % 64) 64) (pa / 64) bad (some (plc, die))
    | none =>
      match FMap.get (s.core core).icache (pa / 64) with
      | some l => .line l (pa / 64) 0 none
      | none =>
        let l := Memory.readBytes s.mem (pa - pa % 64) 64
        .line l (pa / 64) (lineBad l) (some (plc, die))

/-- The slot cycles frozen on an instruction-cache miss are counted; how many a miss costs is the device's
(14 R433). (DESIGN CHOICE, notes/assumptions/140.md.) -/
def State.slip (s : State) (core : Nat) : State :=
  { (s.modCore core fun k => { k with events := { k.events with
      slip := (k.events.slip + (Config.freeWord s.freeCount).toNat) % 2 ^ 64 } }) with freeCount := s.freeCount + 1 }

/-- A fetched line: one that comes from memory places its region (01 R35), is charged to the byte budget (15 R455) and froze its
slot meanwhile (14 R433), and one whose parity holds is kept in the instruction cache (03 R96, 07 R231). -/
def State.keepLine (s : State) (core num bad : Nat) (l : List Byte) (plc : Option (Nat × Nat)) : State :=
  let s := match plc with
    | some p => ((s.place core (64 * num) p.1 p.2).charge core 64).slip core
    | none => s
  s.modCore core fun k =>
    if bad == 0 then { k with icache := fillLine k.icache num l } else { k with badLines := FMap.erase k.badLines num }

/-- Whether a slot of a line is a marked target; no slot is above 4 (07 R229, R232). -/
def slotMarked (l : List Byte) (p : SlotAddr) : Bool :=
  let i := (p.extractLsb' 0 3).toNat
  decide (i < 5) && (lineWord l).getLsbD i

/-- Whether control may be transferred to a slot address, none where its line cannot be fetched now, and the state that keeps
the copy judged: the slot is fetched from that copy (07 R232). (DEDUCED, notes/assumptions/14.md.) -/
def State.sight (s : State) (core : Nat) (ctx : CtxKey) (priv : Nat) (p : SlotAddr) : Option Bool × State :=
  if decide (4 < (p.extractLsb' 0 3).toNat) then (some false, s)
  else
    match s.getLine core ctx priv p with
    | .line l num bad plc => (some (slotMarked l p), if bad == 0 then s.keepLine core num 0 l plc else s)
    | _ => (none, s)

/-- Whether control may be transferred to a slot address: none where its line cannot be fetched now (07 R232). -/
def State.targetOk (s : State) (core : Nat) (ctx : CtxKey) (priv : Nat) (p : SlotAddr) : Option Bool :=
  (s.sight core ctx priv p).1

end Sys2Proof.Machine
end

