-- ==== Sys2Proof/Machine/Flits.lean ====
section
/-!
DEFINITION. Flits (03 R114 to R116, R121): the sideband and its CRC, the packet that a header and its payload make, abort flits, and
what one end of a link does with a flit.
-/
namespace Sys2Proof.Machine

/-- SEQ of a flit (03 R114). -/
def Flit.seq (f : Flit) : BitVec 8 := f.side.extractLsb' 24 8
/-- KIND: 0 header, 1 payload, 2 abort (03 R114). -/
def Flit.kind (f : Flit) : Nat := (f.side.extractLsb' 22 2).toNat
/-- CLS: 0 bulk, 1 express, 2 urgent (03 R114). -/
def Flit.cls (f : Flit) : Nat := (f.side.extractLsb' 20 2).toNat
/-- VC: a response (03 R114). -/
def Flit.vc (f : Flit) : Bool := f.side.getLsbD 19
/-- LAST (03 R114). -/
def Flit.last (f : Flit) : Bool := f.side.getLsbD 18
/-- CRC (03 R114). -/
def Flit.crc (f : Flit) : BitVec 16 := f.side.extractLsb' 0 16

/-- One bit into a CRC-16 of polynomial 0x1021. -/
def crcBit (c : BitVec 16) (b : Bool) : BitVec 16 := if c.getLsbD 15 != b then (c <<< 1) ^^^ 0x1021 else c <<< 1

/-- The CRC-16 of a flit: initial value 0xFFFF, over the data bits and sideband bits [31:16]. The bits go in from the highest data
bit down, then from the highest sideband bit down. (DESIGN CHOICE, notes/assumptions/135.md.) -/
def Flit.crcOf (f : Flit) : BitVec 16 :=
  let bits := ((List.range 256).reverse.map fun j => f.data.getLsbD j) ++ (List.range 16).reverse.map fun j => f.side.getLsbD (16 + j)
  bits.foldl crcBit 0xFFFF

/-- Whether a flit that passed its CRC is a link protocol error (03 R114). -/
def Flit.illegal (f : Flit) : Bool := f.kind == 3 || f.cls == 3

/-- Word j of a header flit (03 R115). -/
def Flit.word (f : Flit) (j : Nat) : BitVec 64 := f.data.extractLsb' (64 * j) 64

/-- The context that a header flit names (03 R115). -/
def Flit.ctx (f : Flit) : CtxKey := ctxKey ((f.word 0).extractLsb' 36 4).toNat ((f.word 0).extractLsb' 40 12).toNat

/-- The packet that a header flit and its payload flits make (03 R115). -/
def packetOf (h : Flit) (l : List Flit) : Packet :=
  let h0 := h.word 0
  let h2 := h.word 2
  { opc := h0.extractLsb' 56 8, plen := h0.extractLsb' 52 4, ctx := h0.extractLsb' 40 12, part := h0.extractLsb' 36 4
    src := h0.extractLsb' 24 12, dst := h0.extractLsb' 12 12, tag := h0.extractLsb' 0 12, addr := (h.word 1).extractLsb' 0 52
    dpkg := h2.extractLsb' 50 13, scope := h2.extractLsb' 47 3, ord := h2.extractLsb' 45 2, use := h2.extractLsb' 42 3
    aop := h2.extractLsb' 38 4, width := h2.extractLsb' 35 3, status := h2.extractLsb' 32 3, mask := h.word 3
    data := l.flatMap fun f => bytesOf 32 f.data.toNat }

/-- The reassembly entry of a class and a virtual channel (03 R119). -/
def Flit.entry (f : Flit) : Nat := 2 * f.cls + (if f.vc then 1 else 0)

/-- A flit that passed its checks reaches the end of a link: the packet it completes, if any. A packet acts only when it is
whole; an abort discards the partial one and frees its entry (03 R114, R116, R119, R121). -/
def Link.take (l : Link) (f : Flit) : Link × Option Packet :=
  let l := { l with seq := l.seq + 1, replays := 0 }
  let whole := match f.kind, FMap.get l.partial' f.entry with
    | 0, _ => some [f]
    | 1, some fs => some (fs ++ [f])
    | _, _ => none
  match whole with
  | none => ({ l with partial' := if f.kind == 1 then l.partial' else FMap.erase l.partial' f.entry }, none)
  | some fs =>
    if f.last then
      ({ l with partial' := FMap.erase l.partial' f.entry }, match fs with
        | h :: rest => some (packetOf h rest)
        | [] => none)
    else ({ l with partial' := FMap.set l.partial' f.entry fs }, none)

/-- An abort flit: KIND 2, the class and virtual channel of the partial packet, CTX in data bytes 0 to 1, the reason in byte 2:
0 a killed sender, 1 a link failure (03 R121). -/
def abortFlit (seq : BitVec 8) (entry ctx reason : Nat) : Flit :=
  let side : BitVec 32 := seq.setWidth 32 <<< 24 ||| BitVec.ofNat 32 (2 ^ 23 + 2 ^ 20 * (entry / 2) + 2 ^ 19 * (entry % 2) + 2 ^ 18)
  let f : Flit := { data := BitVec.ofNat 256 (ctx + 2 ^ 16 * reason), side := side }
  { f with side := side ||| f.crcOf.setWidth 32 }

/-- Close the partial packets of a link that pass, each with an abort flit of a reason (03 R121, R122). -/
def Link.close (l : Link) (reason : Nat) (p : Flit → Bool) : Link :=
  l.partial'.foldl (fun l x => match x.2 with
    | h :: _ => if p h then (l.take (abortFlit l.seq x.1 (ctxId h.ctx) reason)).1 else l
    | [] => l) l

/-- The context of a packet's header. (DESIGN CHOICE, notes/assumptions/99.md.) -/
def packetCtx (p : Packet) : CtxKey := ctxKey p.part.toNat p.ctx.toNat

/-- Whether a packet comes from another package: its source is a Herken Link port (03 R110, 16 R491). -/
def packetForeign (p : Packet) : Bool := p.src.extractLsb' 0 6 == 11#6 && p.src.extractLsb' 6 2 == 3#2

/-- The context bound to the job of a packet from another package (16 R492). -/
def State.boundCtx (s : State) (p : Packet) : Option CtxKey :=
  let job := 4096 * p.part.toNat + p.ctx.toNat
  s.parts.findSome? fun q => (FMap.values q.2.hljob).findSome? fun e =>
    if e.getLsbD 63 && (e.extractLsb' 32 16).toNat == job then some (ctxKey q.1 (e.extractLsb' 0 12).toNat) else none

/-- The context that a packet in flight belongs to: the one its header names, or, from another package, the one bound to its job;
none where no context is (16 R492). -/
def State.packetOwner (s : State) (p : Packet) : Option CtxKey := if packetForeign p then s.boundCtx p else some (packetCtx p)

/-- The traffic class of a packet, by its operation: 0 bulk, 2 urgent (03 R117). (DESIGN CHOICE, notes/assumptions/99.md.) -/
def packetClass (p : Packet) : Nat :=
  match p.opc.toNat with
  | 0x01 | 0x02 => if p.ord == 0 then 0 else 2
  | 0x08 | 0x0B | 0x0C | 0x0D => 0
  | _ => 2

/-- Whether a packet is a response (03 R115). -/
def packetResponse (p : Packet) : Bool := p.opc == 8 || p.opc == 9 || p.opc == 10

/-- Whether two packets travel in one class and virtual channel on one path, so that they arrive in the order they were sent
(03 R112). (DESIGN CHOICE, notes/assumptions/99.md.) -/
def samePath (p q : Packet) : Bool :=
  p.src == q.src && p.dst == q.dst && packetClass p == packetClass q && packetResponse p == packetResponse q

/-- Whether a request waits at its port for its page (01 R38): it has arrived, and holds up none behind it. -/
def State.remoteWaits (s : State) (p : Packet) : Bool :=
  let mine (l : List Waiter) : Bool := l.any fun x => x.who = .remote p
  s.dies.any fun d => (d.2.walks.any fun w => mine w.2.waiters) || (d.2.missq.any fun w => mine w.waiters) ||
    d.2.pending.any fun q => mine q.2.walk.waiters

/-- The core whose port a node is (03 R110). -/
def nodeCore (n : BitVec 12) : Option Nat :=
  if n.extractLsb' 0 6 < 4#6 then
    some (64 * (n.extractLsb' 10 2).toNat + 16 * (n.extractLsb' 8 2).toNat + 4 * (n.extractLsb' 6 2).toNat + (n.extractLsb' 0 6).toNat)
  else none

/-- Whether a packet waits in the clock-crossing FIFO of its cluster, whose clock stands still (15 R443, 21 R503). -/
def State.atFifo (s : State) (p : Packet) : Bool :=
  match nodeCore p.dst with
  | some c => (s.cluster (clusterOf c)).frozen
  | none => false

/-- Whether a packet in flight may be the next to arrive (03 R112; 15 R443, 21 R503). -/
def State.mayArrive (s : State) (p : Packet) : Bool :=
  s.net.contains p && !s.atFifo p && (s.net.takeWhile fun q => q != p).all fun q => !samePath p q || s.remoteWaits q

/-- Send a packet. -/
def State.send (s : State) (p : Packet) : State := { s with net := s.net ++ [p] }

/-- Bytes that the spec does not give, and the state in which they have been used up (notes/assumptions/4.md). -/
def State.anyBytes (s : State) (n : Nat) : List Byte × State :=
  ((List.range n).map fun j => (Config.freeWord (s.freeCount + j)).setWidth 8, { s with freeCount := s.freeCount + n })

/-- The opcode that answers a request (03 R115). -/
def answerOpc (opc : BitVec 8) : Nat :=
  match opc.toNat with
  | 0x01 | 0x0B => 0x08
  | 0x03 => 0x0A
  | _ => 0x09

/-- The response to a request, from a node (03 R115): read data has at least two payload flits, the data of an atomic as many as it
needs, and an acknowledgement none; what fills the last flit, and the data of a request that failed, is not given. -/
def State.respond (s : State) (p : Packet) (src : BitVec 12) (status : Nat) (data : List Byte) : State :=
  let opc := answerOpc p.opc
  let flits := if opc == 0x08 then Nat.max 2 ((data.length + 31) / 32) else (data.length + 31) / 32
  let r := s.anyBytes (32 * flits - data.length)
  r.2.send { p with
    opc := BitVec.ofNat 8 opc, plen := BitVec.ofNat 4 flits, src := src, dst := p.src, status := BitVec.ofNat 3 status, mask := 0
    data := data ++ r.1 }

/-- Answer a request that has no data to give with a status. -/
def State.refuse (s : State) (p : Packet) (src : BitVec 12) (status : Nat) : State := s.respond p src status []

/-- Whether one of the things that the spec leaves to the device happens. -/
def State.chance (s : State) : Bool × State :=
  (Config.choice s.freeCount % 2 == 1, { s with freeCount := s.freeCount + 1 })

/-- Abort the partly sent packets of a context that is killed (03 R121): those partly received over a link, and, of its packets in
flight other than interrupts, those that the device has not sent whole. (DESIGN CHOICE, notes/assumptions/102.md.) -/
def State.abortPackets (s : State) (ctx : CtxKey) : State :=
  let s := { s with links := FMap.mapV s.links fun _ l => l.close 0 fun h => s.packetOwner (packetOf h []) == some ctx }
  (s.net.filter fun p => p.opc != 7 && s.packetOwner p == some ctx).foldl (fun s p =>
    let r := s.chance
    if r.1 then { r.2 with net := r.2.net.erase p } else r.2) s

/-- A link as it is after reset. (DESIGN CHOICE, notes/assumptions/101.md.) -/
def Link.reset : Link := { failed := false, retraining := false, replays := 0, seq := 0, partial' := [] }

/-- A link. (DESIGN CHOICE, notes/assumptions/101.md.) -/
def State.link (s : State) (n : Nat) : Link := FMap.getD s.links n Link.reset

/-- Change a link. -/
def State.modLink (s : State) (n : Nat) (f : Link → Link) : State := { s with links := FMap.set s.links n (f (s.link n)) }

end Sys2Proof.Machine
end

