-- ==== Sys2Proof/Machine/Ops.lean ====
section
/-!
DEFINITION. The named operations that instructions share: reading and writing every class of register with speculation
(05 R171 to R177, 06 R214 to R218), how an instruction ends, lanes and warps that exit (05 R195), killing a context
(16 R488), and taking a trap (05 R182 to R188, R444) with the return beside it (05 R186).
-/
namespace Sys2Proof.Machine

/-- How an instruction ends on its core: it completes, it waits with nothing performed, or it traps. -/
inductive Eff where
  | ok (k : Core)
  | stay (k : Core)
  | trap (t : TrapReq)
  deriving DecidableEq, Repr

/-- Go on with the core of a completed part. -/
def Eff.andThen (e : Eff) (f : Core → Eff) : Eff :=
  match e with
  | .ok k => f k
  | .stay k => .stay k
  | .trap t => .trap t

/-- The core with the issuing fragment at the next slot and what its instruction waited on forgotten (07 R229). -/
def Iss.begin (i : Iss) : Core :=
  i.core.setWarp i.wi (i.w.setFrag i.fi i.f.finish)

/-- Whether the issuing fragment is speculative. -/
def Iss.spec (i : Iss) : Bool := i.f.isSpec

/-- The innermost speculation record a fragment descends from (06 R208). -/
def Warp.innermost (w : Warp) (f : Frag) : Option Nat :=
  (FMap.keys f.sides).foldl (fun acc r =>
    let l := ((FMap.get w.spec r).map (·.lvl)).getD 0
    match acc with
    | none => some r
    | some a => if ((FMap.get w.spec a).map (·.lvl)).getD 0 < l then some r else acc) none

/-- The speculation records a fragment descends from, outermost first (06 R215). -/
def Warp.chain (w : Warp) (f : Frag) : List Nat :=
  match w.innermost f with
  | none => []
  | some r => (FMap.keys f.sides).filter (fun x => x != r) ++ [r]

/-- The lanes of the issuing fragment that pass a guard (05 R164): for a speculative fragment k is read through its
shadows (06 R217). A parked instruction is performed for its pending lanes only (01 R40). -/
def Warp.readK (w : Warp) (f : Frag) (n : Nat) : Mask :=
  (w.chain f).foldl (fun m r =>
    match FMap.get w.spec r with
    | none => m
    | some sr => match FMap.get sr.kshadows n with
      | none => m
      | some sh => (m &&& ~~~(sh.written)) ||| (sh.bits &&& sh.written)) (FMap.getD w.k n 0)

/-- The lanes that pass the guard fields. -/
def Iss.guardMask (i : Iss) (g : Guard) : Mask :=
  if g.e then
    let k := i.w.readK i.f g.k.toNat
    if g.n then ~~~k else k
  else ~~~(0 : Mask)

/-- The lanes an instruction acts for: those of the fragment, or those still pending of a parked one (01 R40). -/
def Iss.lanes (i : Iss) : Mask := if i.f.pend == 0 then i.f.mask else i.f.mask &&& i.f.pend

/-- The active lanes (05 R164). -/
def Iss.active (i : Iss) (g : Guard) : Mask := i.lanes &&& i.guardMask g

/-- The scalar guard rule: performed when some lane of the fragment passes (07 R236). -/
def Iss.scalarGo (i : Iss) (g : Guard) : Bool := !g.e || i.lanes &&& i.guardMask g != 0

/-- A trap of the instruction at the fragment's PC. (DEDUCED, notes/assumptions/20.md.) -/
def Iss.trapReq (i : Iss) (cause sub : BitVec 8) (m : Mask) (i0 i1 : Word) : TrapReq :=
  { cause := cause, sub := sub, pc := i.f.pc, mask := m, info0 := i0, info1 := i1, folio := none }

/-- A v register as the fragment's trap mode names it: the architectural value under any shadows (05 R175, R185,
06 R215). -/
def Warp.readV (w : Warp) (f : Frag) (n : Nat) : Lanes :=
  let bank := if f.trm && decide (56 ≤ n) then w.vTrap else w.v
  let base : Lanes := ((FMap.get bank n).map (·.val)).getD (Lanes.splat 0)
  (w.chain f).foldl (fun l r =>
    match FMap.get w.spec r with
    | none => l
    | some sr => match FMap.get sr.shadows n with
      | none => l
      | some sh => Lanes.merge sh.written sh.val l) base

/-- The committed value of a v register: never a shadow (05 R198). -/
def Warp.committedV (w : Warp) (f : Frag) (n : Nat) : Lanes :=
  let bank := if f.trm && decide (56 ≤ n) then w.vTrap else w.v
  ((FMap.get bank n).map (·.val)).getD (Lanes.splat 0)

/-- An s register: s61 to s63 are the fragment's mask, s48 to s55 have trap-bank copies (05 R171, R174, R185). -/
def Warp.readS (w : Warp) (f : Frag) (n : Nat) : Word :=
  if 61 ≤ n then maskWord f.mask (n - 61)
  else if f.trm && decide (48 ≤ n) && decide (n ≤ 55) then FMap.getD w.sTrap n 0
  else FMap.getD w.s n 0

/-- A g register of the warp's workgroup (05 R181). -/
def Iss.readG (i : Iss) (n : Nat) : Word := ((i.wg.map fun g => FMap.getD g.g n 0)).getD 0

/-- A scalar operand of 32 bits. -/
def Iss.s32 (i : Iss) (o : Operand) (imm : Word) : Word :=
  match o with
  | .s n => i.w.readS i.f n.toNat
  | .g n => i.readG n.toNat
  | .f n => FMap.getD i.w.f n.toNat 0
  | .imm => imm
  | _ => 0

/-- A scalar operand of 64 bits: an even pair (07 R243); an immediate is extended to the width (07 R242). -/
def Iss.s64 (i : Iss) (o : Operand) (imm : Dword) : Dword :=
  match o with
  | .s n => i.w.readS i.f (n.toNat + 1) ++ i.w.readS i.f n.toNat
  | .g n => (i.readG n.toNat).setWidth 64
  | .f n => (FMap.getD i.w.f n.toNat 0 : Word).setWidth 64
  | .imm => imm
  | _ => 0

/-- A vector operand of 32 bits, lane by lane (08 R259, 09 R290). -/
def Iss.v32 (i : Iss) (o : Operand) (imm : Word) : Lanes :=
  match o with
  | .v n => i.w.readV i.f n.toNat
  | _ => Lanes.splat (i.s32 o imm)

/-- A vector operand of 64 bits: low and high lanes. -/
def Iss.v64 (i : Iss) (o : Operand) (imm : Dword) : Lanes × Lanes :=
  match o with
  | .v n => (i.w.readV i.f n.toNat, i.w.readV i.f (n.toNat + 1))
  | _ =>
    let x := i.s64 o imm
    (Lanes.splat (x.extractLsb' 0 32), Lanes.splat (x.extractLsb' 32 32))

/-- The warp of the issuing slot in a core that the instruction has changed. -/
def Iss.warpIn (i : Iss) (k : Core) : Warp := (FMap.get k.warps i.wi).getD i.w

/-- Change the issuing warp in a core. -/
def Iss.onWarp (i : Iss) (k : Core) (f : Warp → Warp) : Core := { k with warps := FMap.modify k.warps i.wi f }

/-- The shadows a core's warps hold in the speculation pool (05 R175, 06 R214). -/
def Core.poolUsed (k : Core) : Nat :=
  sumNat (k.warps.map fun w => sumNat (w.2.spec.map fun r => r.2.shadows.length))

/-- A physical register with no lane written (05 R175). -/
def VReg.zero : VReg := { val := Lanes.splat 0, dead := 0 }

/-- Lanes written: they are no longer dead (05 R176). -/
def VReg.write (r : VReg) (m : Mask) (l : Lanes) : VReg := { val := Lanes.merge m l r.val, dead := r.dead &&& ~~~m }

/-- Lanes of a v register that are written are no longer to be marked dead at resolution (06 R216). -/
def SpecRec.unread (sr : SpecRec) (n : Nat) (m : Mask) : SpecRec :=
  { sr with lastReads := sr.lastReads.map fun p => if p.1 == n then (p.1, p.2 &&& ~~~m) else p }

/-- Lanes written to a record's shadow of a v register; they are no longer to be marked dead (06 R214, R216). -/
def SpecRec.putShadow (sr : SpecRec) (n : Nat) (m : Mask) (l : Lanes) : SpecRec :=
  let old := (FMap.get sr.shadows n).getD { written := 0, val := Lanes.splat 0 }
  { sr.unread n m with shadows := FMap.set sr.shadows n { written := old.written ||| m, val := Lanes.merge m l old.val } }

/-- Lanes written to a record's shadow of a k register (06 R217). -/
def SpecRec.putKShadow (sr : SpecRec) (n : Nat) (m bits : Mask) : SpecRec :=
  let old := (FMap.get sr.kshadows n).getD { written := 0, bits := 0 }
  { sr with
    kshadows := FMap.set sr.kshadows n
      { written := old.written ||| m, bits := (old.bits &&& ~~~m) ||| (bits &&& m) } }

/-- The code of a v name as a fragment names it: n in the ordinary bank, 64 + n in the trap bank (05 R185). -/
def Frag.vName (f : Frag) (n : Nat) : Nat := if f.trm && decide (56 ≤ n) then 64 + n else n

/-- A write of lanes of a v register (05 R175 to R177, R185; 06 R214, R216): what it does to the register, or in a speculative
fragment to the innermost record. A first write allocates; one past the live peak traps. -/
def Iss.openV (i : Iss) (n : Nat) (m : Mask) (write : VReg → VReg) (shadow : SpecRec → SpecRec) (k : Core) : Eff :=
  if m == 0 then .ok k
  else
    let w := i.warpIn k
    if i.f.trm && decide (56 ≤ n) then
      let old := (FMap.get w.vTrap n).getD VReg.zero
      .ok (i.onWarp k fun w => { w with vTrap := FMap.set w.vTrap n (write old) })
    else
      let live := ((i.wg.map (·.live))).getD 0
      if !FMap.has w.v n && decide (live ≤ w.v.length) then
        if i.strict then .trap (i.trapReq Cause.accessViolation 0x10 m (BitVec.ofNat 32 n) 0) else .ok k
      else
        let old := (FMap.get w.v n).getD VReg.zero
        match w.innermost i.f, i.spec with
        | some r, true =>
          .ok (i.onWarp k fun w => { w with
            v := FMap.set w.v n old
            spec := FMap.modify w.spec r shadow })
        | _, _ =>
          .ok (i.onWarp k fun w => { w with v := FMap.set w.v n (write old) })

/-- Write lanes of a v register. -/
def Iss.putV (i : Iss) (n : Nat) (m : Mask) (l : Lanes) (k : Core) : Eff :=
  i.openV n m (fun r => r.write m l) (fun sr => sr.putShadow n m l) k

/-- The register of a v name is made ready for a write of lanes that is still to land (05 R178; 06 R214, R216; 20 R501): it and, in
a speculative fragment, the shadow are allocated, and the lanes are no longer dead. -/
def Iss.readyV (i : Iss) (n : Nat) (m : Mask) (k : Core) : Eff :=
  i.openV n m (fun r => { r with dead := r.dead &&& ~~~m }) (fun sr => sr.putShadow n 0 (Lanes.splat 0) |>.unread n m) k

/-- Write lanes of a v register with a late result: where the issue is late the write is left outstanding (05 R178, R180). -/
def Iss.putLate (i : Iss) (n : Nat) (m : Mask) (l : Lanes) (k : Core) : Eff :=
  if i.late && m != 0 then
    (i.readyV n m k).andThen fun k => .ok (i.onWarp k fun w => { w with
      vpend := w.vpend ++ [{ name := i.f.vName n, lanes := m, val := l, record := w.innermost i.f }] })
  else i.putV n m l k

/-- Mark lanes of a v register dead after its last read, and free it when no live lane needs it (05 R176). -/
def Iss.markRead (i : Iss) (n : Nat) (m : Mask) (k : Core) : Core :=
  match (i.warpIn k).innermost i.f, i.spec with
  | some r, true =>
    i.onWarp k fun w => { w with spec := FMap.modify w.spec r fun sr => { sr with lastReads := sr.lastReads ++ [(n, m)] } }
  | _, _ =>
    let mark (r : VReg) : VReg := { r with dead := r.dead ||| m }
    i.onWarp k fun w =>
      if i.f.trm && decide (56 ≤ n) then ({ w with vTrap := FMap.modify w.vTrap n mark }).freeDead
      else ({ w with v := FMap.modify w.v n mark }).freeDead

/-- The last-read marks of an instruction's operands, a pair marking both its registers (05 R176, 07 R243). -/
def Iss.lastReads (i : Iss) (lr : BitVec 3) (ops : List (Operand × Nat)) (m : Mask) (k : Core) : Core :=
  ((List.range 3).zip ops).foldl (fun k p =>
    if lr.getLsbD p.1 then
      match p.2.1 with
      | .v n => (List.range p.2.2).foldl (fun k j => i.markRead (n.toNat + j) m k) k
      | _ => k
    else k) k

/-- Write lanes of a k register; where the write is issued late it is left outstanding (05 R173, 06 R217). -/
def Iss.putK (i : Iss) (n : Nat) (m bits : Mask) (fast : Bool) (k : Core) : Eff :=
  if i.late && fast then
    .ok (i.onWarp k fun w => { w with
      kpend := w.kpend ++ [{ frag := i.fi, owner := i.f.mask, k := n, lanes := m, bits := bits &&& m, record := w.innermost i.f }]
      spec := match w.innermost i.f with
        | some r => FMap.modify w.spec r fun sr => sr.putKShadow n 0 0
        | none => w.spec })
  else
    let w := i.warpIn k
    match w.innermost i.f, i.spec with
    | some r, true =>
      .ok (i.onWarp k fun w => { w with spec := FMap.modify w.spec r fun sr => sr.putKShadow n m bits })
    | _, _ => .ok (i.onWarp k fun w =>
        { w with k := FMap.set w.k n ((FMap.getD w.k n 0 &&& ~~~m) ||| (bits &&& m)) })

/-- Take lanes from the issuing fragment: they arrive at its record as a new fragment (05 R172).
(DESIGN CHOICE, notes/assumptions/133.md.) -/
def Iss.maskWrite (i : Iss) (keep : Mask) (k : Core) : Eff :=
  let w := i.warpIn k
  match FMap.get w.frags i.fi with
  | none => .ok k
  | some f =>
    let gone := f.mask &&& ~~~keep
    if gone == 0 then .ok k
    else
      match f.rcd with
      | none => if i.strict then .trap (i.trapReq Cause.illegalConvergence 2 i.f.mask 0 0) else .ok k
      | some r =>
        match w.freeEntry with
        | none => .stay i.core
        | some e =>
          let w := w.arrive e r f gone
          let w := if f.mask &&& keep == 0 then { w with frags := FMap.erase w.frags i.fi }
            else w.setFrag i.fi { f with mask := f.mask &&& keep }
          .ok (k.setWarp i.wi w.completeRecs)

/-- Write s registers; s61 to s63 take lanes from the fragment (05 R172, R174, R185). -/
def Iss.putS (i : Iss) (l : List (Nat × Word)) (k : Core) : Eff :=
  let plain (w : Warp) (p : Nat × Word) : Warp :=
    if 61 ≤ p.1 then w
    else if i.f.trm && decide (48 ≤ p.1) && decide (p.1 ≤ 55) then { w with sTrap := FMap.set w.sTrap p.1 p.2 }
    else { w with s := FMap.set w.s p.1 p.2 }
  let k := i.onWarp k fun w => l.foldl plain w
  let part (j : Nat) : Word := ((l.find? fun p => p.1 == 61 + j).map (·.2)).getD (~~~(0 : Word))
  if l.any fun p => decide (61 ≤ p.1) then i.maskWrite (maskFrom (part 0) (part 1) (part 2)) k else .ok k

/-- Write a g register (05 R181). -/
def Iss.putG (i : Iss) (n : Nat) (v : Word) (k : Core) : Core :=
  k.modWg i.w.wg fun g => { g with g := FMap.set g.g n v }

/-- Write a scalar result of 32 bits (08 R258). -/
def Iss.put32 (i : Iss) (d : Operand) (v : Word) (k : Core) : Eff :=
  match d with
  | .s n => i.putS [(n.toNat, v)] k
  | .g n => .ok (i.putG n.toNat v k)
  | .f n => .ok (i.onWarp k fun w => { w with f := FMap.set w.f n.toNat v })
  | _ => .ok k

/-- Write a scalar result of 64 bits to an even pair (07 R243). -/
def Iss.put64 (i : Iss) (d : Operand) (v : Dword) (k : Core) : Eff :=
  match d with
  | .s n => i.putS [(n.toNat, v.extractLsb' 0 32), (n.toNat + 1, v.extractLsb' 32 32)] k
  | _ => i.put32 d (v.extractLsb' 0 32) k

/-- Write a vector result: to active lanes of a v register, or the highest active lane's value to a g register
(05 R181, 08 R262). -/
def Iss.putLanes (i : Iss) (d : Operand) (m : Mask) (l : Lanes) (k : Core) : Eff :=
  match d with
  | .v n => i.putV n.toNat m l k
  | .g n => match highLane m with
    | some h => .ok (i.putG n.toNat (l.at h) k)
    | none => .ok k
  | _ => .ok k

/-- Write a vector result of one or two registers. -/
def Iss.putLanes2 (i : Iss) (wide : Bool) (d : Operand) (m : Mask) (lo hi : Lanes) (k : Core) : Eff :=
  match wide, d with
  | true, .v n => (i.putV n.toNat m lo k).andThen (i.putV (n.toNat + 1) m hi)
  | _, _ => i.putLanes d m lo k

/-- The v names a result is written to. -/
def dstNames (d : Operand) (count : Nat) : List Nat :=
  match d with
  | .v n => (List.range count).map (n.toNat + ·)
  | _ => []

/-- Whether a v register is the destination of a queued atomic that has not been performed (06 R221). -/
def Iss.queuedDst (i : Iss) (n width : Nat) : Bool :=
  (FMap.getD i.core.storeQ (i.wi % 4) []).any fun e =>
    e.warp == i.wi && (e.lanes.any fun l => i.f.mask.getLsbD l.lane) && match e.atomic with
      | some (_, _, .v d) => decide (d.toNat < n + width) && decide (n < d.toNat + (e.bytes + 3) / 4)
      | _ => false

/-- Whether a write of a v register is outstanding for a lane of the fragment (05 R180). -/
def Iss.pendingV (i : Iss) (n width : Nat) : Bool :=
  i.w.vpend.any fun p => p.lanes &&& i.f.mask != 0 && (List.range width).any fun j => p.name == i.f.vName (n + j)

/-- Whether a register is still being written, or is the mask of a speculative fragment (05 R171, R173, R180). -/
def Iss.blockedOn (i : Iss) (o : Operand) (width : Nat) : Bool :=
  match o with
  | .v n => i.pendingV n.toNat width || (i.spec && i.queuedDst n.toNat width)
  | .k n => i.w.kpend.any fun p => p.k == n.toNat
  | .s n => i.spec && decide (61 < n.toNat + width)
  | _ => false

/-- Whether the guard or a k or mask source must be waited for (05 R173). -/
def Iss.blocked (i : Iss) (g : Guard) (ops : List (Operand × Nat)) : Bool :=
  (g.e && i.w.kpend.any fun p => p.k == g.k.toNat) || ops.any fun p => i.blockedOn p.1 p.2

/-- The shadows that a write of names would take from the pool (06 R214). -/
def Iss.shadowNeed (i : Iss) (names : List Nat) : Nat :=
  match i.w.innermost i.f with
  | none => 0
  | some r => match FMap.get i.w.spec r with
    | none => 0
    | some sr => (names.filter fun n => !FMap.has sr.shadows n).length

/-- Whether a speculative write of a k register would need a fifth shadow (06 R217). -/
def Iss.kShadowFull (i : Iss) (d : Operand) : Bool :=
  match d with
  | .k n => match i.w.innermost i.f with
    | none => false
    | some r => match FMap.get i.w.spec r with
      | none => false
      | some sr => !FMap.has sr.kshadows n.toNat && decide (4 ≤ sr.kshadows.length)
  | _ => false

/-- Whether a destination is one that a speculative fragment waits to write (06 R218). -/
def waitsToWrite : Operand → Bool
  | .s _ | .g _ | .f _ => true
  | _ => false

/-- Whether the pool has no shadow for a write of a speculative fragment that needs one (06 R214): one with no active lane and one
that is queued need none. -/
def Iss.poolEmpty (i : Iss) (g : Guard) (d : Operand) (count : Nat) (shadows : Bool) : Bool :=
  i.spec && shadows && i.active g != 0 &&
    decide (Config.specPool < i.core.poolUsed + i.shadowNeed (dstNames d count))

/-- The core while a vector instruction waits in its operand collector for a source (05 R179): one of a speculative fragment has its
registers and shadows from its issue on (06 R214, R216), unless it waits for its guard or for its destination. -/
def Iss.collecting (i : Iss) (g : Guard) (d : Operand) (count : Nat) (shadows : Bool) : Core :=
  if !i.spec || !shadows || i.blocked g [(d, count)] || i.poolEmpty g d count shadows then i.core
  else
    let open' (e : Eff) (n : Nat) : Eff :=
      e.andThen (i.openV n (i.active g) (fun r => r) fun sr => sr.putShadow n 0 (Lanes.splat 0))
    match (dstNames d count).foldl open' (Eff.ok i.core) with
    | .ok k => k
    | _ => i.core

/-- Whether a vector instruction may not go on yet, with the core it leaves: a register that is still being written
(05 R173, R180), a write that a speculative fragment waits to make (06 R217, R218), or an empty speculation pool where the write
needs a new shadow (06 R214). -/
def Iss.held (i : Iss) (g : Guard) (ops : List (Operand × Nat)) (d : Operand) (count : Nat) (shadows : Bool := true) :
    Option Core :=
  if i.blocked g (ops ++ [(d, count)]) then some (i.collecting g d count shadows)
  else if i.spec && (waitsToWrite d || i.kShadowFull d) then some i.core
  else if i.poolEmpty g d count shadows then
    some { i.core with events := { i.core.events with mpstall := i.core.events.mpstall + 1 } }
  else none

/-- A vector instruction: it waits for what it reads and, in a speculative fragment, for what it may not write yet;
otherwise it acts for its active lanes, its last reads marked before its result is written. -/
def Iss.vector (i : Iss) (g : Guard) (lr : BitVec 3) (ops : List (Operand × Nat)) (d : Operand) (count : Nat)
    (act : Mask → Core → Eff) : Eff :=
  match i.held g ops d count with
  | some k => .stay k
  | none => act (i.active g) (i.lastReads lr ops (i.active g) i.begin)

/-- A scalar instruction: it waits for resolution in a speculative fragment (06 R218) and for what it reads, and acts
when its guard lets it (07 R236). -/
def Iss.scalar (i : Iss) (g : Guard) (ops : List (Operand × Nat)) (act : Core → Eff) : Eff :=
  if i.spec || i.blocked g ops then .stay i.core
  else if i.scalarGo g then act i.begin
  else .ok i.begin

/-! Lanes and warps that leave. -/

/-- Note a failure that reaches no warp in its launch's record: the first one stands (14 R420). -/
def Launch.note (l : Launch) (code : Nat) (faddr : Dword) (fctx : Nat) : Launch :=
  match l.error with
  | some _ => l
  | none => { l with error := some (code, faddr, fctx) }

/-- Bytes that a unit writes at an IPA of a partition, walking at once: a page fault leaves the write waiting for its page, for
settle to try (01 R38), and an address that cannot be reached takes none. (DEDUCED, notes/assumptions/18.md.) -/
def State.ipaPut (s : State) (part ipa : Nat) (l : List Byte) : Option State :=
  match s.stage2 part .store ipa with
  | .leaf r => some ((s.usePte part (s.unitDie part) r.pte
      { trail := r.toTrail, dirty := r.dirtied, plc := 0, die := 0, walked := none }).mwriteBytes r.pte l)
  | .fault _ _ _ | .stage2 _ _ _ _ _ _ =>
    let n := (FMap.freeKey s.unitWrites (s.unitWrites.length + 1)).getD 0
    some { s with unitWrites := FMap.set s.unitWrites n { ctx := none, part := part, addr := BitVec.ofNat 64 ipa, bytes := l } }
  | _ => none

/-- Write an entry of a partition's fault log (16 R489). (DEDUCED, notes/assumptions/18.md.) -/
def State.faultLog (s : State) (part : Nat) (launch : Nat) (err kind cause2 : Nat) (ctx : Nat) (faddr : Dword)
    (pc2 : SlotAddr) : State :=
  let r := (s.part part).faultLog
  if !r.ena then s
  else
    let n := r.prod.toNat
    let phase := if n.testBit r.log then 0 else 1
    let entry := bytesOf 8 s.refTime ++
      bytesOf 8 (2 ^ 32 * (launch % 2 ^ 32) + 2 ^ 24 * (err % 256) + 2 ^ 20 * kind + 2 ^ 12 * (cause2 % 256) + ctx % 4096) ++
      bytesOf 8 faddr.toNat ++ bytesOf 8 (2 ^ 63 * phase + pc2.toNat)
    match s.ipaPut part (r.base.toNat + 32 * (n % 2 ^ r.log)) entry with
    | none => s
    | some s => s.modPart part fun p => { p with faultLog := { p.faultLog with prod := p.faultLog.prod + 1 } }

/-- A failure that reaches no warp: the launch record's first error, and a fault-log entry (14 R420, 16 R489).
(DEDUCED, notes/assumptions/17.md.) -/
def State.lostFailure (s : State) (launch : LaunchKey) (ctx : CtxKey) (code : Nat) (faddr : Dword) : State :=
  (s.modLaunch launch fun l => l.note code faddr (ctxId ctx)).faultLog (ctxPart ctx) (launch % 2 ^ 32) code 0 0
    (ctxId ctx) faddr 0

/-- Whether the register of an outstanding write is allocated. -/
def Warp.hasReg (w : Warp) (p : VPend) : Bool :=
  match p.record with
  | some r => ((FMap.get w.spec r).map fun sr => FMap.has sr.shadows p.name).getD false
  | none => if p.name < 64 then FMap.has w.v p.name else FMap.has w.vTrap (p.name - 64)

/-- The registers of a warp that leaves pass to DRAIN where a write is outstanding on them (05 R178). -/
def Core.leaveDrain (k : Core) (w : Warp) : Core :=
  { k with drain := k.drain ++ (w.vpend.filter w.hasReg).map fun p => (w.uid, match p.record with
      | none => p.name
      | some r => 128 + 64 * r + p.name) }

/-- A workgroup leaves its core: its folios return to FREE, its gatherings free, its slot frees (02 R69, 03 R105). -/
def Core.dropWg (k : Core) (g : Nat) : Core :=
  let mine := k.folios.filter fun p => p.2.own == some g && p.2.state != .free
  let k := mine.foldl (fun k p => k.freeFolio p.1) k
  { k with
    gath := FMap.keep k.gath fun _ x => x.wg != g, wgs := FMap.erase k.wgs g
    matrix := match k.matrix.compute with
      | some c => if c.wg == g then { k.matrix with compute := none } else k.matrix
      | none => k.matrix }

/-- A warp whose lanes have all left frees its slot; its workgroup leaves with its last warp (05 R195, 02 R69, R71,
12 R386). -/
def State.dropWarp (s : State) (c w : Nat) : State :=
  match s.warp c w with
  | none => s
  | some x =>
    let k := (s.core c).leaveDrain x
    match FMap.get k.wgs x.wg with
    | none => s.setCore c { k.dropLocks w with warps := FMap.erase k.warps w }
    | some g =>
      let claimed := k.folios.filter fun p => p.2.clm == some w && p.2.state == .rebinding
      let k := { k.dropLocks w with warps := FMap.erase k.warps w }
      let k := claimed.foldl (fun k p => k.loseFolio p.1) k
      let k := k.modWg x.wg fun g => { g with exited := x.index :: g.exited }
      let k := { k with storeQ := FMap.mapV k.storeQ fun _ q => q.filter fun e => e.warp != w }
      let s := s.setCore c k
      let s := x.lostQuanta.foldl (fun s q => s.lostFailure g.launch g.ctx 1 (BitVec.ofNat 64 q.off)) s
      let s := x.fails.foldl (fun s f =>
        s.lostFailure g.launch g.ctx f.status (if f.status == 1 then f.info1.setWidth 64 else f.info1 ++ f.info0)) s
      if (k.wgWarps x.wg).isEmpty then
        (s.modCore c fun k => k.dropWg x.wg).modLaunch g.launch fun l =>
          { l with live := l.live - 1, exited := l.exited + 1 }
      else s.modCore c fun k => k.checkBars x.wg

/-- A warp exits: its quanta are applied and its compensations performed first (05 R195). A record whose lanes have all left it
ends with it, as one without a squashed lane (06 R227). (DEDUCED, notes/assumptions/17.md; DESIGN CHOICE,
notes/assumptions/157.md.) -/
def State.warpExit (s : State) (c w : Nat) : State :=
  let open' := ((s.warp c w).map fun x => x.spec.length).getD 0
  (((s.applyQuanta c w fun _ => true).payComps c w).modCore c fun k =>
    { k with events := { k.events with mphit := k.events.mphit + open' } }).dropWarp c w

/-- Lanes of a warp exit (05 R195). -/
def State.exitLanes (s : State) (c w : Nat) (m : Mask) : State :=
  let s := s.modWarp c w fun x => x.dropLanes m
  match s.warp c w with
  | none => s
  | some x => if x.live == 0 then s.warpExit c w else s.modCore c fun k => k.checkBars x.wg

/-! Killing a context. -/

/-- Stop the warps of a core that pass, as a cancel does: pending quanta go, owed compensations are performed,
unresolved speculation is discarded, and the failures that no warp has met are recorded as at exit (14 R420, R421, 06 R226). -/
def State.stopWarps (s : State) (c : Nat) (p : Wg → Bool) : State :=
  let k := s.core c
  let hit := k.warps.filter fun w => ((FMap.get k.wgs w.2.wg).map p).getD false
  let s := hit.foldl (fun s w =>
    let s := s.modCore c fun k => { k with events := { k.events with mpkill := k.events.mpkill + w.2.spec.length } }
    let s := s.payComps c w.1
    let s := s.modWarp c w.1 fun x => { x with quanta := [] }
    s.dropWarp c w.1) s
  -- a workgroup that left so is not counted as completed
  let gone := k.wgs.filter fun g => p g.2
  gone.foldl (fun s g => s.modLaunch g.2.launch fun l => { l with exited := l.exited - 1 }) s

/-- Cancel the engine operations of a core that pass: they complete with status CANCELLED, which a wcnt takes for done (11 R342,
12 R377, 03 R121). -/
def State.cancelOps (s : State) (c : Nat) (p : EngineOp → Bool) : State :=
  let k := s.core c
  let hit := k.ops.filter fun o => p o.2
  let s := hit.foldl (fun s o =>
    let s := s.modLaunch o.2.launch fun l => { l with ops := l.ops - 1 }
    s.modUid o.2.warpUid fun w =>
      let q := w.counters
      { w with counters := match o.2.cls with
          | 0 => { q with cp := q.cp - 1 }
          | 1 => { q with st := q.st - 1 }
          | _ => { q with rm := q.rm - 1 } }) s
  s.modCore c fun k => { k with ops := FMap.keep k.ops fun _ o => !p o }

/-- Free the pending-table entries and walks of a context, the slots going to the queued misses; the generation of an entry
advances, and no further record of the context is written (01 R45, R49, R50). -/
def State.dropWalks (s : State) (ctx : CtxKey) : State :=
  { s with
    dies := FMap.mapV s.dies fun _ d =>
      let x : Die := { d with
        walks := FMap.keep d.walks fun _ w => w.ctx != ctx
        pending := FMap.keep d.pending fun _ p => p.walk.ctx != ctx
        pendGen := (d.pending.filter fun p => p.2.walk.ctx == ctx).foldl (fun m p => FMap.set m p.1 (p.2.gen + 1)) d.pendGen }
      x.fillFrom (d.missq.filter fun w => w.ctx != ctx)
    records := s.records.filter fun r => r.ctx != ctx }

/-- Folios whose claim a saved warp held are lost when it returns to another core, or never (02 R71). -/
def State.loseClaims (s : State) (v : Saved) : State :=
  s.modCore v.core fun k => v.claims.foldl (fun k p =>
    if (k.folio p.2.1).gen == p.2.2.1 && (k.folio p.2.1).state == .rebinding && (k.folio p.2.1).clm == some p.2.2.2 then
      k.loseFolio p.2.1
    else k) k

/-- Saved workgroups that pass are never restored; the claims their warps held are lost (02 R71). -/
def State.dropSaved (s : State) (p : Saved → Bool) : State :=
  let s := (s.saved.filter p).foldl (fun s v => s.loseClaims v) s
  { s with saved := s.saved.filter fun v => !p v }

/-- Kill a context (16 R488): its warps stop, its launches complete with an error, its folios, quires and gatherings
free, and a fault-log entry is written. -/
def State.killContext (s : State) (ctx : CtxKey) (launch err kind cause2 : Nat) (faddr : Dword) (pc2 : SlotAddr) :
    State :=
  let s := (FMap.keys s.cores).foldl (fun s c =>
    let s := s.stopWarps c fun g => g.ctx == ctx
    let s := s.cancelOps c fun o => o.ctx == ctx
    s.modCore c fun k =>
      let mine := k.folios.filter fun p => p.2.ctx == ctx && p.2.state != .free
      mine.foldl (fun k p => k.freeFolio p.1) k) s
  let s := { s.dropWalks ctx with saved := s.saved.filter fun v => v.wg.ctx != ctx }
  let s := { s with
    launches := FMap.mapV s.launches fun _ l =>
      if l.ctx == ctx && l.state != LaunchState.ended then
        { l.note err faddr (ctxId ctx) with
          next := l.nx * l.ny * l.nz, live := 0, copyLeft := 0, copyBusy := false, state := .running }
      else l
    runs := FMap.mapV s.runs fun _ r =>
      if r.ctx == ctx then
        { r with cancelled := true, nodes := FMap.mapV r.nodes fun _ n => if n.phase == 1 || n.phase == 2 then n else { n with phase := 3 } }
      else r }
  let s := s.modPart (ctxPart ctx) fun p => { p with
    affinity := p.affinity.filter fun a => a.1 != ctx
    queues := FMap.mapV p.queues fun _ q => { q with packets := q.packets.filter fun x => x.ctx != ctx } }
  let s := (s.modCtx ctx fun c => { c with quires := [] }).abortPackets ctx
  s.faultLog (ctxPart ctx) launch err kind cause2 (ctxId ctx) faddr pc2

/-- The workgroup of a warp of a core. -/
def State.wgOf (s : State) (c w : Nat) : Option Wg :=
  match s.warp c w with
  | none => none
  | some x => FMap.get (s.core c).wgs x.wg

/-- A double trap: the context is killed and both causes and both TRAPPC values are recorded (05 R187).
(DEDUCED, notes/assumptions/117.md.) -/
def State.doubleTrap (s : State) (c w : Nat) (cause2 : BitVec 8) (pc2 : SlotAddr) : State :=
  match s.warp c w, s.wgOf c w with
  | some x, some g =>
    s.killContext g.ctx (g.launch % 2 ^ 32) (0x80 + x.trap.cause.toNat) 2 cause2.toNat (x.trap.entryPc.setWidth 64) pc2
  | _, _ => s

/-! Taking a trap, and leaving trap mode. -/

/-- What a unit in the clock domain of a core's cluster does, while that clock runs (15 R443). -/
def State.clocked (s : State) (core : Nat) (t : State) : State := if (s.cluster (clusterOf core)).frozen then s else t

/-- Whether a cluster is in a relock or a voltage move (15 R444). -/
def Cluster.moving (k : Cluster) : Bool :=
  match k.move with
  | some m => m.phase == .relock || m.phase == .voltage
  | none => false

/-- The handler of a trap: which, its address and its level; none where no address is left (05 R184). -/
def chooseHandler (cause : BitVec 8) (folio : Option Dword) (kernel supervisor : SlotAddr) (level : Nat) :
    Option (Handler × Dword × Nat) :=
  let sup : Option (Handler × Dword × Nat) :=
    if supervisor == 0 then none else some (.supervisor, supervisor.setWidth 64, Nat.max 1 level)
  let ker : Option (Handler × Dword × Nat) := if kernel == 0 then sup else some (.kernel, kernel.setWidth 64, level)
  if cause == Cause.privilege || cause == Cause.instrParity || cause == Cause.watchdog then sup
  else if cause == Cause.folioLost then
    match folio with
    | some h => if h == 0 then ker else some (.folio, h, level)
    | none => ker
  else ker

/-- An mmac no longer waits for budget: MGOV has counted its wait (12 R369, R371). -/
def Matrix.endWait (m : Matrix) (now : Nat) : Matrix :=
  match m.waitSince with
  | none => m
  | some (_, since) => { m with mgov := m.mgov + BitVec.ofNat 32 (now - since), waitSince := none }

/-- The wait for budget of a warp's mmac ends. -/
def State.endGovern (s : State) (c uid : Nat) : State :=
  match (s.core c).matrix.waitSince with
  | none => s
  | some (u, _) =>
    if u == uid then s.modCore c fun k => { k with matrix := k.matrix.endWait (s.cluster (clusterOf c)).rawcyc } else s

/-- A free word, and the state in which it has been used up (notes/assumptions/4.md). -/
def State.freeWord (s : State) : Word × State := (Config.freeWord s.freeCount, { s with freeCount := s.freeCount + 1 })

/-- How many of the two TRAPINFO words a cause and a sub-code define (05 R183, 13 R400): one of COLLECTIVE and SPLITFULL
(05 R191, R201) and of WATCHDOG (14 R436), none of the other ILLEGAL_CONVERGENCE traps (11 R338) and of STEP (13 R398), both of
every other. -/
def infoWords (cause sub : BitVec 8) : Nat :=
  if cause == Cause.illegalConvergence then (if sub == 1 || sub == 6 then 1 else 0)
  else if cause == Cause.breakpoint && sub == 1 then 0
  else if cause == Cause.watchdog then 1
  else 2

/-- What a trap writes to TRAPINFO0 and TRAPINFO1: a word that its cause does not define is a free value.
(DESIGN CHOICE, notes/assumptions/142.md.) -/
def State.trapInfo (s : State) (t : TrapReq) : (Word × Word) × State :=
  let n := infoWords t.cause t.sub
  if n == 2 then ((t.info0, t.info1), s)
  else
    let a := s.freeWord
    let b := a.2.freeWord
    ((if n == 0 then a.1 else t.info0, b.1), b.2)

/-- A trap's entry (05 R183): the other fragments are HELD, the warp's lock bits go, the trap state is written, the
fragment is in trap mode at the handler. A handler slot that is no marked target is a double trap (05 R184). -/
def State.enterTrap (s : State) (c w fi : Nat) (t : TrapReq) : State :=
  match s.warp c w, s.wgOf c w with
  | some x, some g =>
    match FMap.get x.frags fi with
    | none => s
    | some f =>
      let suph := ((FMap.get s.ctxs g.ctx).map (·.suph)).getD 0
      match chooseHandler t.cause t.folio g.handler suph f.priv with
      | none => s.killContext g.ctx (g.launch % 2 ^ 32) (0x80 + t.cause.toNat) 3 0 (t.pc.setWidth 64) 0
      | some (h, addr, level) =>
        let pc : SlotAddr := addr.setWidth 54
        let fr := FMap.mapV x.frags fun j q => if j == fi then q else { q with held := true }
        let f' : Frag := { f with
          state := .ready, wait := .none, trm := true, priv := level, pc := pc, fids := [], notes := [], age := 0
          deferred := false, step := false, stepped := false, held := false, ptrap := 0, pend := 0, entry := some pc, behind := none
          quires := none, half := [] }
        let v := s.trapInfo t
        let x' := { x with
          frags := FMap.set fr fi f'
          trap := { mode := true, handler := h, pc := t.pc, entryPc := t.pc, cause := t.cause, sub := t.sub
                    mask := t.mask, info0 := v.1.1, info1 := v.1.2, pend := f.pend, frag := fi, elvl := f.priv, exitl := false
                    step := false } }
        let s := (v.2.endGovern c x.uid).modCore c fun k => ((k.dropLocks w).setWarp w x')
        let seen := if addr.extractLsb' 54 10 != 0 then (some false, s) else s.sight c g.ctx level pc
        match seen with
        | (some false, _) => s.doubleTrap c w Cause.illegalTarget pc
        | (some true, t) => t.modFrag c w fi fun q => { q with entry := none }
        | (none, _) => s
  | _, _ => s

/-- Take a trap (05 R182, R187, R188, 15 R444): in trap mode it is a double trap, or recorded in PTRAP for a HELD
fragment; during a relock or voltage move it is entered afterwards, the fragment standing still meanwhile. -/
def State.takeTrap (s : State) (c w fi : Nat) (t : TrapReq) : State :=
  match s.warp c w with
  | none => s
  | some x =>
    if x.trap.mode then
      if ((FMap.get x.frags fi).map (·.trm)).getD false then s.doubleTrap c w t.cause t.pc
      else s.modFrag c w fi fun f => { f with ptrap := t.cause, state := .ready, wait := .none, fids := [] }
    else if (s.cluster (clusterOf c)).moving then
      if x.deferred.any fun p => p.1 == fi then s
      else s.setWarp c w { (x.modFrag fi fun f => { f with state := .ready, wait := .none, fids := [] }) with
        deferred := x.deferred ++ [(fi, t)] }
    else s.enterTrap c w fi t

/-- The trap of an instruction: a speculative fragment defers it (06 R220). -/
def State.raise (s : State) (i : Iss) (t : TrapReq) : State :=
  if i.spec then s.modFrag i.c i.wi i.fi fun f => { f with deferred := true }
  else s.takeTrap i.c i.wi i.fi t

/-- One of the things a list holds, the spec not saying which, and the state in which the choice has been made. -/
def State.chooseOf (s : State) (l : List Nat) : Option Nat × State :=
  (l[Config.choice s.freeCount % l.length]?, { s with freeCount := s.freeCount + 1 })

/-- A trap of the instruction that tells the whole fragment, with TRAPINFO values the spec does not give. -/
def State.raiseFree (s : State) (i : Iss) (cause sub : BitVec 8) : State :=
  let a := s.freeWord
  let b := a.2.freeWord
  b.2.raise i (i.trapReq cause sub i.f.mask a.1 b.1)

/-- Complete the instruction on a state in which its other effects have been made: the fragment goes on at the next slot
and the registers are written; a wait or a trap there leaves everything as it was. -/
def State.complete (s0 s : State) (i : Iss) (e : Core → Eff) : State :=
  match e ((s.modFrag i.c i.wi i.fi Frag.endWait).core i.c) with
  | .ok k => s.setCore i.c k
  | .stay _ => s0
  | .trap t => s0.raise i t

/-- Leave the issuing fragment waiting (05 R170). -/
def State.keepWaiting (s : State) (i : Iss) (w : Wait) : State :=
  s.modFrag i.c i.wi i.fi fun f => { f with state := .waiting, wait := w, age := 0 }

/-- A scalar instruction that acts on more than its core (07 R236, 06 R218). -/
def State.scalarDo (s : State) (i : Iss) (g : Guard) (ops : List (Operand × Nat)) (act : State → State) : State :=
  if i.spec || i.blocked g ops then s
  else if i.scalarGo g then act s else s.setCore i.c i.begin

/-- The state after an instruction that ends so. -/
def State.commit (s : State) (i : Iss) (e : Eff) : State :=
  match e with
  | .ok k => s.setCore i.c k
  | .stay k => s.setCore i.c k
  | .trap t => s.raise i t

/-- An instruction of the issuing fragment that acts on its core alone. -/
def State.onCore (s : State) (act : Iss → Eff) : State :=
  match s.iss with
  | none => s
  | some i => s.commit i (act i)

/-- An instruction of the issuing fragment. -/
def State.onIss (s : State) (act : Iss → State) : State :=
  match s.iss with
  | none => s
  | some i => act i

/-- Leave trap mode with the fragment at an address (05 R186): the trap bank's vector registers free, with the writes outstanding on
them, HELD and TRM clear, the entry level returns. -/
def State.leaveTrap (s : State) (c w fi : Nat) (pc : SlotAddr) : State :=
  s.modWarp c w fun x =>
    let x := { x with
      vTrap := [], vpend := x.vpend.filter fun p => decide (p.name < 64), trap := { x.trap with mode := false }
      frags := FMap.mapV x.frags fun _ f => { f with held := false } }
    x.modFrag fi fun f => { f with
      trm := false, priv := x.trap.elvl, pc := pc, age := 0, step := x.trap.step, entry := none
      pend := if pc == x.trap.entryPc then x.trap.pend else 0 }

end Sys2Proof.Machine
end

