-- ==== Sys2Proof/Machine/Parking.lean ====
section
/-!
DEFINITION. Fragments that meet page faults: joining a fault ID, parking whole or by a split, and the release by the
replies (01 R39, R40, R45, R51; 05 R170).
-/
namespace Sys2Proof.Machine

/-- Attach a waiter to a pending-table entry (01 R51). -/
def State.attach (s : State) (die entry : Nat) (who : Waiter) : State :=
  s.modDie die fun d => { d with
    pending := FMap.modify d.pending entry fun p => { p with walk := { p.walk with waiters := addWaiter p.walk.waiters who } } }

/-- Park the faulting lanes of a fragment at its instruction: by a split where an entry is free, else the whole fragment
with those lanes pending (01 R39). The rest goes on at the next instruction. -/
def Warp.park (w : Warp) (fi : Nat) (f : Frag) (lanes : Mask) (refs : List FidRef) : Warp :=
  let stop : Frag := { f with state := .parked, pend := lanes, fids := refs, notes := [], age := 0, deferred := false }
  if f.mask &&& ~~~lanes == 0 then w.setFrag fi stop
  else
    match w.freeEntry with
    | none => w.setFrag fi stop
    | some e =>
      (w.setFrag e { stop with mask := lanes }).setFrag fi { f.finish with mask := f.mask &&& ~~~lanes }

/-- The lanes that park with some faulting lanes of a fragment: those alone where it splits, otherwise all of it (01 R39). -/
def Warp.parkLanes (w : Warp) (f : Frag) (lanes : Mask) : Mask := if w.freeEntry.isSome then lanes else f.mask

/-- The lock bits whose owner lane parks are released (03 R103). -/
def Core.dropLaneLocks (k : Core) (w : Nat) (m : Mask) : Core :=
  { k with locks := FMap.keep k.locks fun _ l => !(l.warp == w && m.getLsbD l.lane) }

/-- Park the faulting lanes of a fragment; no lane that parks keeps a lock bit (01 R39, 03 R103). -/
def Core.parkFrag (k : Core) (wi : Nat) (w : Warp) (fi : Nat) (f : Frag) (lanes : Mask) (refs : List FidRef) : Core :=
  (k.setWarp wi (w.park fi f lanes refs)).dropLaneLocks wi (w.parkLanes f lanes)

/-- A fault ID with the lanes of a fragment that wait on it (01 R40). -/
def faultRef (fid : BitVec 16) (lanes : Mask) (va : Dword) : FidRef :=
  { fid := fid, lanes := lanes, va := va, answer := none, matrix := false }

/-- The note of a fragment on a kind of access to a page of a stage, from a walk that ended in a fault not to be waited for.
(DEDUCED, notes/assumptions/82.md.) -/
def Frag.noteFor (f : Frag) (acc : Acc) (stage page : Nat) : Option FatalNote :=
  f.notes.find? fun n => n.acc == acc && n.stage == stage && n.page == page && n.fid.isNone

/-- The walk of a miss. -/
def walkOf (ctx : CtxKey) (stage page : Nat) (va : Dword) (ipa : Nat) (acc : Acc) (level0 : Bool) (core wslot : Nat)
    (range : Option (Nat × BitVec 7)) : Walk :=
  { ctx := ctx, stage := stage, page := page, va := va, ipa := ipa, acc := acc, level0 := level0, core := core
    wslot := wslot, range := range, waiters := [], found := none }

/-- What lanes of a fragment ask for at an address. -/
def Iss.ask (i : Iss) (acc : Acc) (va : Dword) : Ask := (walkOf i.ctx 0 0 va 0 acc (i.f.priv == 0) i.c i.wi none).toAsk

/-- A fragment's fault IDs with an answer applied; every answer given, it is READY for its pending lanes, or traps
PAGE_FATAL (01 R40). -/
def Frag.answered (f : Frag) (fid : BitVec 16) (fatal : Bool) : Frag :=
  { f with fids := f.fids.map fun r => if r.fid == fid && r.answer.isNone then { r with answer := some fatal } else r }

/-- Whether a parked fragment has all its answers. -/
def Frag.allAnswered (f : Frag) : Bool := f.state == .parked && f.fids.all fun r => r.answer.isSome

/-- The PAGE_FATAL trap of a parked fragment, if an answer was FATAL: the lanes answered so, and the faulting address
of the lowest (01 R40); for the operand read of an mmac it is MATRIX_OPERAND, sub-code PAGE (12 R367, R368). -/
def Frag.fatalReq (f : Frag) : Option TrapReq :=
  let bad := f.fids.filter fun r => r.answer == some true
  match bad with
  | [] => none
  | r :: rest =>
    let m := bad.foldl (fun m r => m ||| r.lanes) 0
    let low := rest.foldl (fun (a : FidRef) (b : FidRef) =>
      if (lowLane b.lanes).getD 96 < (lowLane a.lanes).getD 96 then b else a) r
    some { cause := if low.matrix then Cause.matrixOperand else Cause.pageFatal, sub := if low.matrix then 3 else 0, pc := f.pc, mask := m, info0 := low.va.extractLsb' 0 32
           info1 := low.va.extractLsb' 32 32, folio := none }

/-- Apply a reply to one fragment (01 R40). -/
def State.answerFrag (s : State) (c w fi : Nat) (fid : BitVec 16) (fatal : Bool) : State :=
  match (s.warp c w).bind fun x => FMap.get x.frags fi with
  | none => s
  | some f =>
    if !f.fids.any fun r => r.fid == fid && r.answer.isNone then s
    else
      let g := f.answered fid fatal
      let s := s.modFrag c w fi fun _ => g
      if !g.allAnswered then s
      else
        match g.fatalReq with
        | none => s.modFrag c w fi fun q => { q with state := .ready, fids := [] }
        | some t =>
          if g.held && !g.trm then
            -- recorded in PTRAP; the trap arises again when the fragment issues (05 R186, R188)
            s.modFrag c w fi fun q => { q with state := .parked, ptrap := t.cause }
          else s.takeTrap c w fi t

/-- Apply a reply to every parked fragment attached to a fault ID (01 R40). -/
def State.answerAll (s : State) (fid : BitVec 16) (fatal : Bool) : State :=
  (FMap.keys s.cores).foldl (fun s c =>
    (FMap.keys (s.core c).warps).foldl (fun s w =>
      (((s.warp c w).map fun x => FMap.keys x.frags).getD []).foldl (fun s f => s.answerFrag c w f fid fatal) s) s) s

end Sys2Proof.Machine
end

