-- ==== Sys2Proof/Machine/Issue.lean ====
section
/-!
DEFINITION. Issuing one slot of one fragment: what may issue, arrival at a record (05 R168), fusing at a collective
(05 R192), the fetch and its faults (07 R229, R231), and the decode checks in their order (07 R232, R233, R248, R249).
-/
namespace Sys2Proof.Machine

/-- Whether a warp is at a reconverged point (14 R435, 05 R189, 06 R225, 01 R48). (DESIGN CHOICE, notes/assumptions/23.md.) -/
def Warp.converged (w : Warp) : Bool :=
  let own := w.frags.filter fun p => !w.trap.mode || p.2.trm
  own.length == 1 && w.spec.isEmpty && w.frags.all fun p => p.2.state != .parked

/-- Whether a warp stands where it may be saved: a reconverged point, or, in a forced save, anywhere with no speculation
record in use (14 R435, 06 R225, 01 R48); an access of which one half is performed is performed whole first, but where its fragment is
parked (04 R130, R159). -/
def Warp.savable (w : Warp) (forced : Bool) : Bool :=
  (w.converged || (forced && w.spec.isEmpty)) && w.frags.all fun f => f.2.half.isEmpty || f.2.state == .parked

/-- The fragment whose recorded trap is to be taken next, after a return from trap mode (05 R186). -/
def Warp.owed (w : Warp) : Option Nat :=
  if w.trap.mode then none else (w.frags.find? fun p => p.2.ptrap != 0).map (·.1)

/-- Whether a fragment is one that may issue now (05 R170, R199; 06 R220; 13 R406; 14 R435; 15 R444). -/
def State.mayIssue (s : State) (c wi fi : Nat) : Bool :=
  match s.warp c wi with
  | none => false
  | some w =>
    match FMap.get w.frags fi, FMap.get (s.core c).wgs w.wg with
    | some f, some g =>
      (f.state == .ready || (f.isSpec && !f.deferred)) && !f.held && !(s.cluster (clusterOf c)).frozen &&
        !(w.deferred.any fun p => p.1 == fi) && !(((FMap.get s.ctxs g.ctx).map (·.halted)).getD false) &&
        !(g.preempt.isSome && w.savable g.forced) && ((w.owed.map fun j => j == fi).getD true)
    | _, _ => false

/-- What preparing an issue finds: the state it leaves, and the instruction to run, if it comes to that. -/
inductive Prep where
  | done (s : State)
  | run (i : Instr) (s : State)

/-- The pipe groups (07 R233). -/
inductive Group where
  | s | v | m | x | c
  deriving DecidableEq, Repr

/-- The pipe group of an opcode's class. -/
def groupOf (opc : BitVec 10) : Group :=
  match (opc.extractLsb' 7 3).toNat with
  | 0 => .s
  | 1 | 2 | 5 => .v
  | 3 => .m
  | 6 => .x
  | _ => .c

/-- Whether two groups may pair (07 R233). -/
def Group.pairs : Group → Group → Bool
  | .s, .v | .s, .m | .s, .x | .v, .s | .v, .m | .v, .x | .m, .s | .m, .v | .x, .s | .x, .v => true
  | _, _ => false

/-- The PAIR field of a line (07 R230). -/
def linePair (l : List Byte) : BitVec 4 := (lineWord l).extractLsb' 5 4

/-- Whether a slot is the first of a pair (07 R230). -/
def firstOfPair (l : List Byte) (i : Nat) : Bool := decide (i < 4) && (linePair l).getLsbD i

/-- Whether a slot is the first of an illegal pair (07 R233). -/
def illegalPair (l : List Byte) (i : Nat) : Bool :=
  firstOfPair l i &&
    ((decide (0 < i) && (linePair l).getLsbD (i - 1)) || (decide (i < 3) && (linePair l).getLsbD (i + 1)) ||
      !(groupOf (opcodeOf (lineInstr l i))).pairs (groupOf (opcodeOf (lineInstr l (i + 1)))))

/-- The lowest reserved bit set in a line word (07 R230). -/
def lineReserved (l : List Byte) : Option Nat :=
  ((List.range 32).filter fun b => (decide (9 ≤ b) && decide (b ≤ 15)) || decide (22 ≤ b)).find? fun b => (lineWord l).getLsbD b

/-- The level an opcode needs (07 R248). -/
def levelOf : Op → Nat
  | .tlbinv | .halt => 1
  | .ctxsv | .ctxld | .capset | .blst => 2
  | _ => 0

/-- Whether an atomic's USE is of a feature its partition's driver has not accepted (16 R483). -/
def useAbsent (ack : Dword) : Form → Bool
  | .m f => (f.use == 5 && !ack.getLsbD 1) || (f.use == 4 && !ack.getLsbD 2)
  | _ => false

/-- What the decode checks 4 to 6 find for one word: an instruction, or a trap with its TRAPINFO0 (07 R249). An
unassigned opcode is the row of that name. (DEDUCED, notes/assumptions/22.md.) -/
def checkWord (ack : Dword) (priv : Nat) (w : BitVec 96) : Instr ⊕ (BitVec 8 × Nat) :=
  match Op.ofCode (opcodeOf w) with
  | none => .inl (.illegalOpcode (opcodeOf w))
  | some op =>
    if priv < levelOf op then .inr (Cause.privilege, levelOf op)
    else
      let absent := op == .atom && useAbsent ack (formOf op.fmt w)
      match decode w with
      | .ok i => if absent then .inr (Cause.reservedField, 66) else .inl i
      | .reservedField b => .inr (Cause.reservedField, if absent then Nat.min b 66 else b)
      | .illegalOpcode o => .inl (.illegalOpcode o)

/-- A trap at the fragment's slot, with TRAPINFO0 and the fragment's mask (07 R249). -/
def State.decodeTrap (s : State) (i : Iss) (pc : SlotAddr) (cause : BitVec 8) (info : Nat) : State :=
  s.raise i { (i.trapReq cause 0 i.f.mask (BitVec.ofNat 32 info) 0) with pc := pc }

/-- The ILLEGAL_TARGET trap of a transfer from one slot to another (07 R232, R249). (DEDUCED, notes/assumptions/15.md.) -/
def targetReq (i : Iss) (source target : SlotAddr) : TrapReq :=
  { (i.trapReq Cause.illegalTarget 0 i.f.mask (target.extractLsb' 0 32) (target.extractLsb' 32 22 |>.setWidth 32)) with
    pc := source }

/-- The instruction in a slot of a fetched line, after the checks of 07 R249. (DEDUCED, notes/assumptions/22.md.) -/
def State.issueLine (s : State) (i : Iss) (ack : Dword) (l : List Byte) (bad : Nat) : Prep :=
  let pc := i.f.pc
  let slot := (pc.extractLsb' 0 3).toNat
  let priv := i.f.priv
  if bad != 0 then .done (s.decodeTrap i pc Cause.instrParity bad)
  else
    match lineReserved l with
    | some b => .done (s.decodeTrap i pc Cause.reservedField (128 + b))
    | none =>
      if illegalPair l slot then .done (s.decodeTrap i pc Cause.illegalPair (linePair l).toNat)
      else
        match checkWord ack priv (lineInstr l slot) with
        | .inr (cause, info) => .done (s.decodeTrap i pc cause info)
        | .inl (.illegalOpcode o) => .run (.illegalOpcode o) s
        | .inl ins =>
          if !firstOfPair l slot then .run ins s
          else
            match checkWord ack priv (lineInstr l (slot + 1)) with
            | .inl (.illegalOpcode o) => .done (s.decodeTrap i (pc + 1) Cause.illegalOpcode o.toNat)
            | .inl _ => .run ins s
            | .inr (cause, info) => .done (s.decodeTrap i (pc + 1) cause info)

/-- A walk for a fetch of a line, for a level (01 R50, R51). -/
def State.fetchWalk (s : State) (i : Iss) (priv : Nat) (va : Dword) (stage page ipa : Nat) (range : Option (Nat × BitVec 7)) :
    State :=
  s.startWalk (dieOf i.c) (walkOf i.ctx stage page va ipa .fetch (priv == 0) i.c i.wi range) (.frag i.c i.wi i.fi i.f.mask)

/-- The whole fragment parks at its instruction for a line whose page has a pending fault; lanes whose access is already
performed stay so, and no lane keeps a lock bit (01 R39, 03 R103; 06 R220). -/
def State.fetchPark (s : State) (i : Iss) (va : Dword) (e : Nat) (p : PendEntry) : State :=
  if i.spec then s.modFrag i.c i.wi i.fi fun f => { f with deferred := true }
  else
    ((s.attach (dieOf i.c) e { toAsk := i.ask .fetch va, who := .frag i.c i.wi i.fi i.f.mask }).modFrag i.c i.wi i.fi fun f => { f with
      state := .parked, pend := i.lanes, age := 0, notes := []
      fids := [faultRef (fidOf (dieOf i.c) e p.gen) f.mask va] }).modCore i.c fun k => k.dropLaneLocks i.wi i.f.mask

/-- A fetch that finds no cached translation: a note of a failed walk traps, a pending fault parks the whole fragment,
and otherwise a walk begins (07 R229, 01 R39, R51; 06 R220). -/
def State.fetchMiss (s : State) (i : Iss) (stage page ipa : Nat) (range : Option (Nat × BitVec 7)) : State :=
  let va := lineVa i.f.pc
  match i.f.noteFor .fetch stage page with
  | some n => s.raise i (i.trapReq n.cause n.sub i.f.mask (va.extractLsb' 0 32) (va.extractLsb' 32 32))
  | none =>
    match s.pendFor (dieOf i.c) i.ctx stage page with
    | some (e, p) => s.fetchPark i va e p
    | none => s.fetchWalk i i.f.priv va stage page ipa range

/-! Transfers of control (07 R229, R232). -/

/-- What is known of a slot that control is to go to. -/
inductive Goal where
  /-- the TGT bit of its line's copy, false also for a slot that no line has -/
  | judged (marked : Bool)
  /-- its line cannot be fetched, for a cause: a transfer is made, and the failure is reported at the slot -/
  | unreadable (cause : BitVec 8)
  /-- a page fault on its line is pending -/
  | faulted (entry : Nat) (p : PendEntry)
  /-- the walk of its line has not ended: the transfer has no effect yet -/
  | walking
  deriving DecidableEq, Repr

/-- Judge a slot that control is to go to, for a level: the copy that is judged is the one the slot will be fetched from, and
stays in the instruction cache (07 R232). (DEDUCED, notes/assumptions/14.md.) -/
def State.judge (s : State) (i : Iss) (priv : Nat) (p : SlotAddr) : Goal × State :=
  if decide (4 < (p.extractLsb' 0 3).toNat) then (.judged false, s)
  else
    match s.getLine i.c i.ctx priv p with
    | .line l num bad plc => (.judged (slotMarked l p), if bad == 0 then s.keepLine i.c num 0 l plc else s)
    | .trap cause _ => (.unreadable cause, s)
    | .miss stage page ipa r =>
      match i.f.noteFor .fetch stage page, s.pendFor (dieOf i.c) i.ctx stage page with
      | some n, _ => (.unreadable n.cause, s)
      | none, some (e, q) => (.faulted e q, s)
      | none, none => (.walking, s.fetchWalk i priv (lineVa p) stage page ipa r)

/-- Whether the line of a slot that control is to go to is one that cannot be fetched now. -/
def Goal.late : Goal → Bool
  | .unreadable _ => true
  | .faulted _ _ => true
  | _ => false

/-- Whether a transfer to a slot is made: it is marked, or its line cannot be fetched now. -/
def Goal.goes : Goal → Bool
  | .judged marked => marked
  | g => g.late

/-- Go on with a transfer whose slot is judged: the state holds the copy judged; a slot that is not marked traps, and while
the walk of its line runs the instruction stays (07 R229, R232). -/
def State.toward (s : State) (i : Iss) (p : SlotAddr) (bad : State → State) (go : Goal → Iss → State → State) : State :=
  match s.judge i i.f.priv p with
  | (.judged false, _) => bad s
  | (.walking, t) => t
  | (g, t) => t.onIss fun j => go g j t

/-- Fetch the fragment's slot and check it (07 R229 to R233, R249). -/
def State.fetchIssue (s : State) (i : Iss) : Prep :=
  match s.getLine i.c i.ctx i.f.priv i.f.pc with
  | .trap cause sub =>
    let va := lineVa i.f.pc
    .done (s.raise i (i.trapReq cause sub i.f.mask (va.extractLsb' 0 32) (va.extractLsb' 32 32)))
  | .miss stage page ipa r => .done (s.fetchMiss i stage page ipa r)
  | .line l num bad plc => (s.keepLine i.c num bad l plc).issueLine i (s.part (ctxPart i.ctx)).featack l bad

/-- What the check of the slot a fragment has come to by a transfer, made when its line can be fetched, gives instead of the
issue; none where it passes (07 R229, R232). (DEDUCED, notes/assumptions/14.md, 16.md.) -/
def State.entryCheck (s : State) (i : Iss) : Option State :=
  match i.f.entry with
  | none => none
  | some source =>
    if decide (4 < (i.f.pc.extractLsb' 0 3).toNat) then some (s.raise i (targetReq i source i.f.pc))
    else
      match s.getLine i.c i.ctx i.f.priv i.f.pc with
      | .line l _ _ _ => if slotMarked l i.f.pc then none else some (s.raise i (targetReq i source i.f.pc))
      | .trap cause sub =>
        let va := lineVa i.f.pc
        some (s.raise i (i.trapReq cause sub i.f.mask (va.extractLsb' 0 32) (va.extractLsb' 32 32)))
      | .miss stage page ipa r => some (s.fetchMiss i stage page ipa r)

/-- The fragment of the warp that waits at a collective or a tret at the fragment's slot under its record (05 R192). -/
def Warp.waitsHere (w : Warp) (fi : Nat) (f : Frag) : Option (Nat × Frag) :=
  w.frags.find? fun p => p.1 != fi && p.2.state == .waiting && (p.2.wait == .collective || p.2.wait == .tret) &&
    p.2.pc == f.pc && p.2.rcd == f.rcd

/-- A fragment that reaches its record's address becomes WAITING there (05 R168). -/
def Warp.reach (w : Warp) (fi : Nat) (f : Frag) (r : Nat) : Warp :=
  let w := w.setFrag fi { f with state := .waiting, wait := .record, age := 0, pend := 0 }
  { w with recs := FMap.modify w.recs r fun x => { x with arrive := x.arrive ||| f.mask } }.completeRecs

/-- The record of a fragment whose address it stands at (05 R168). -/
def Warp.atRecord (w : Warp) (f : Frag) : Option Nat :=
  match f.rcd with
  | none => none
  | some r => match FMap.get w.recs r with
    | none => none
    | some x => if x.addr == f.pc then some r else none

/-- Prepare the issue of a fragment (05 R168, R192, R199; 07 R249; 13 R398). The fragment that fuses at a collective takes the
lower of the two entries. (DEDUCED, notes/assumptions/16.md; DESIGN CHOICE, notes/assumptions/133.md.) -/
def State.prepare (s : State) (cur : Cur) : Prep :=
  let s := { s with cur := cur }
  if !s.mayIssue cur.core cur.warp cur.frag then .done s
  else
    let s := s.modFrag cur.core cur.warp cur.frag fun f => { f with ptrap := if f.trm then f.ptrap else 0 }
    match s.iss with
    | none => .done s
    | some i =>
      if i.f.stepped && !i.w.trap.mode then
        if i.spec then .done s
        else .done ((s.modFrag i.c i.wi i.fi fun f => { f with stepped := false }).takeTrap i.c i.wi i.fi
          (i.trapReq Cause.breakpoint 1 i.f.mask 0 0))
      else
        match s.entryCheck i, i.w.atRecord i.f with
        | some t, _ => .done t
        | none, some r => if i.spec then .done s else .done (s.setWarp i.c i.wi (i.w.reach i.fi { i.f with entry := none } r))
        | none, none =>
          match i.w.waitsHere i.fi i.f with
          | some (j, h) =>
            if i.spec then .done s
            else
              let low := Nat.min i.fi j
              let w := { i.w with frags := FMap.set (FMap.erase (FMap.erase i.w.frags i.fi) j) low { h with
                mask := h.mask ||| i.f.mask } }
              .done (s.setWarp i.c i.wi w.wakeCollectives)
          | none =>
            if decide (4 < (i.f.pc.extractLsb' 0 3).toNat) then .done (s.raise i (targetReq i i.f.pc i.f.pc))
            else s.fetchIssue i

end Sys2Proof.Machine
end

