-- ==== Sys2Proof/Machine/Flags.lean ====
section
/-!
DEFINITION. The flags: SFLAGS and its update by class 0 (08 R264, R265), the conditions on values and on flags (08 R266,
11 R334), and FFLAGS (09 R286, 06 R217).
-/
namespace Sys2Proof

/-- Whether a type is an i type (07 R245). -/
def Ty.signed : Ty → Bool
  | .i8 | .i16 | .i32 | .i64 => true
  | _ => false

/-- The least value of an integer type. -/
def Ty.least (t : Ty) : Int := if t.signed then -(2 ^ (t.width - 1) : Nat) else 0
/-- The greatest value of an integer type. -/
def Ty.greatest (t : Ty) : Int := if t.signed then (2 ^ (t.width - 1) - 1 : Nat) else (2 ^ t.width - 1 : Nat)
/-- Whether an exact result lies in the type's range. -/
def Ty.holds (t : Ty) (x : Int) : Bool := decide (t.least ≤ x) && decide (x ≤ t.greatest)
/-- U: the low n bits, unsigned (08 R260). -/
def Ty.low (t : Ty) (x : Nat) : Nat := x % 2 ^ t.width
/-- VAL: the low n bits as the type reads them (08 R260). -/
def Ty.val (t : Ty) (x : Nat) : Int := if t.signed then toSigned t.width x else (t.low x : Nat)
/-- WRAP (08 R260). -/
def Ty.wrap (t : Ty) (x : Int) : Int := t.val (x % (2 ^ t.width : Nat)).toNat
/-- SAT (07 R250). -/
def Ty.clamp (t : Ty) (x : Int) : Int := if x < t.least then t.least else if t.greatest < x then t.greatest else x
/-- WRAP, or SAT where MOD.SAT is 1 (08 R261). -/
def Ty.result (t : Ty) (sat : Bool) (x : Int) : Int := if sat then t.clamp x else t.wrap x

end Sys2Proof

namespace Sys2Proof.Machine

/-- What an integer operation gives: the result in its type's range, and C and V as 08 R265 sets them. -/
structure Alu where
  r : Int
  c : Bool
  v : Bool
  deriving DecidableEq, Repr

/-- SFLAGS with Z, N, C and V set; E, NOCAP and the reserved bits keep their values (08 R264, R265). -/
def setZNCV (old : Word) (z n c v : Bool) : Word :=
  old.extractLsb' 4 28 ++ BitVec.ofBool v ++ BitVec.ofBool c ++ BitVec.ofBool n ++ BitVec.ofBool z

/-- SET_FLAGS: Z and N from the result in n bits (08 R265). -/
def Alu.flags (t : Ty) (a : Alu) (old : Word) : Word :=
  let bits := (a.r % (2 ^ t.width : Nat)).toNat
  setZNCV old (bits == 0) (bits.testBit (t.width - 1)) a.c a.v

/-- SFLAGS with E set as a reduction or scan leaves it (05 R197). -/
def setE (old : Word) (e : Bool) : Word := old.extractLsb' 5 27 ++ BitVec.ofBool e ++ old.extractLsb' 0 4

/-- SFLAGS with Z set as a folio or quire instruction leaves it (02 R67, R68). -/
def setZ (old : Word) (z : Bool) : Word := old.extractLsb' 1 31 ++ BitVec.ofBool z

/-- SFLAGS with NOCAP set as a capacity request leaves it (02 R72). -/
def setNocap (old : Word) (b : Bool) : Word := old.extractLsb' 6 26 ++ BitVec.ofBool b ++ old.extractLsb' 0 5

/-- A condition on values (08 R266). -/
def condValues (cond : Nat) (t : Ty) (x y : Nat) : Bool :=
  let a := t.val x
  let b := t.val y
  match cond with
  | 0 => decide (a = b)
  | 1 => decide (a ≠ b)
  | 2 => decide (a < b)
  | 3 => decide (a ≤ b)
  | 4 => decide (b < a)
  | 5 => decide (b ≤ a)
  | 6 => t.low x &&& t.low y != 0
  | _ => t.low x &&& t.low y == 0

/-- A condition on SFLAGS, read as signed or as unsigned (08 R266). -/
def condFlags (cond : Nat) (signed : Bool) (fl : Word) : Bool :=
  let z := fl.getLsbD 0
  let n := fl.getLsbD 1
  let c := fl.getLsbD 2
  let v := fl.getLsbD 3
  match cond, signed with
  | 0, _ => z
  | 1, _ => !z
  | 2, true => n != v
  | 2, false => !c
  | 3, true => z || n != v
  | 3, false => z || !c
  | 4, true => !z && n == v
  | 4, false => c && !z
  | 5, true => n == v
  | 5, false => c
  | 6, _ => !z
  | _, _ => z

/-- Raise FFLAGS bits for lanes: a speculative instruction's are kept by its innermost record (09 R286, 06 R217). -/
def Iss.raiseFlags (i : Iss) (m : Mask) (bits : Nat) (k : Core) : Core :=
  if bits == 0 || m == 0 then k
  else
    i.onWarp k fun w =>
      match w.innermost i.f, i.spec with
      | some r, true => { w with
          spec := FMap.modify w.spec r fun sr => { sr with flags := sr.flags ++ [(m, BitVec.ofNat 32 bits)] } }
      | _, _ => { w with fflags := w.fflags ||| BitVec.ofNat 32 bits }

/-- Whether a brs is taken: a condition on SFLAGS, or on the guard over the fragment (11 R334). -/
def brsTaken (cond : Nat) (fl : Word) (frag pass : Mask) : Bool :=
  match cond with
  | 0 => condFlags 0 true fl
  | 1 => condFlags 1 true fl
  | 2 => condFlags 2 true fl
  | 3 => condFlags 3 true fl
  | 4 => condFlags 4 true fl
  | 5 => condFlags 5 true fl
  | 6 => condFlags 2 false fl
  | 7 => condFlags 3 false fl
  | 8 => condFlags 4 false fl
  | 9 => condFlags 5 false fl
  | 10 => true
  | 11 => frag &&& pass != 0
  | 12 => subMask frag pass
  | _ => frag &&& pass == 0

end Sys2Proof.Machine
end

