-- ==== Sys2Proof/Machine/Operands.lean ====
section
/-!
DEFINITION. The operand forms: integer and floating-point sources with their immediates (07 R242, R243, 08 R258 to
R260, 09 R290 to R293), results of one or two registers, and the effective address of Format M (10 R305).
-/
namespace Sys2Proof.Machine

/-- An EXT24 immediate sign-extended to 64 bits (08 R260). -/
def imm24 (e : BitVec 24) : Dword := e.signExtend 64

/-- A scalar source as a 64-bit pattern: a 32-bit source in the low half (08 R258). -/
def Iss.scalarSrc (i : Iss) (wide : Bool) (o : Operand) (imm : Dword) : Dword :=
  if wide then i.s64 o imm else (i.s32 o (imm.setWidth 32)).setWidth 64

/-- A vector source as a 64-bit pattern in each lane: a scalar gives its value to every lane (08 R259). -/
def Iss.src (i : Iss) (wide : Bool) (o : Operand) (imm : Dword) : Nat → Dword :=
  match o with
  | .v n =>
    let lo := i.w.readV i.f n.toNat
    if wide then
      let hi := i.w.readV i.f (n.toNat + 1)
      fun l => hi.at l ++ lo.at l
    else fun l => (lo.at l).setWidth 64
  | _ =>
    let x := i.scalarSrc wide o imm
    fun _ => x

/-- How many registers a value of a type takes (07 R243). -/
def regsOf (wide : Bool) : Nat := if wide then 2 else 1

/-- Write a vector result given lane by lane, of one or two registers (08 R262). -/
def Iss.putSrc (i : Iss) (wide : Bool) (d : Operand) (m : Mask) (r : Nat → Dword) (k : Core) : Eff :=
  i.putLanes2 wide d m (lanesFrom fun l => if m.getLsbD l then (r l).setWidth 32 else 0)
    (if wide then lanesFrom fun l => if m.getLsbD l then (r l).extractLsb' 32 32 else 0 else Lanes.splat 0) k

/-- Write a scalar result of one or two registers. -/
def Iss.putScalar (i : Iss) (wide : Bool) (d : Operand) (r : Dword) (k : Core) : Eff :=
  if wide then i.put64 d r k else i.put32 d (r.setWidth 32) k

/-- An integer operation on the 64-bit patterns of A, B and C. -/
abbrev AluOp := Dword → Dword → Dword → Alu

/-- A class 0 instruction of the common form (08 R268): how many of A, B and C it reads, and the widths of the operands. -/
def Iss.aluScalar (i : Iss) (f : RForm) (n : Nat) (wd wa wb wc : Bool) (op : AluOp) : Eff :=
  i.scalar f.guard ([(f.a, regsOf wa), (f.b, regsOf wb), (f.c, regsOf wc)].take n) fun k =>
    let r := op (i.scalarSrc wa f.a 0) (i.scalarSrc wb f.b (imm24 f.ext)) (i.scalarSrc wc f.c 0)
    i.putScalar wd f.d (BitVec.ofInt 64 r.r) (i.onWarp k fun w => { w with sflags := r.flags f.ty w.sflags })

/-- A class 0 instruction that leaves SFLAGS alone (08 R273, R274). -/
def Iss.plainScalar (i : Iss) (g : Guard) (wd : Bool) (d : Operand) (ops : List (Operand × Nat)) (r : Dword) : Eff :=
  i.scalar g ops (i.putScalar wd d r)

/-- A class 1 instruction of the common form (08 R275), which reads the first n of A, B and C. -/
def Iss.aluVector (i : Iss) (f : RForm) (n : Nat) (wd wa wb wc : Bool) (op : AluOp) : Eff :=
  i.vector f.guard f.lr ([(f.a, regsOf wa), (f.b, regsOf wb), (f.c, regsOf wc)].take n) f.d (regsOf wd) fun m k =>
    let a := i.src wa f.a 0
    let b := i.src wb f.b (imm24 f.ext)
    let c := i.src wc f.c 0
    i.putSrc wd f.d m (fun l => BitVec.ofInt 64 (op (a l) (b l) (c l)).r) k

/-- Set the bits of a k register for the lanes that pass, in active lanes (08 R276, 09 R297). -/
def Iss.putCond (i : Iss) (d : Operand) (m : Mask) (p : Nat → Bool) (k : Core) : Eff :=
  match d with
  | .k n => i.putK n.toNat m (maskOf fun l => m.getLsbD l && p l) true k
  | _ => .ok k

/-- The bits of a floating-point source in a lane after ABS and NEG (09 R282, R291, R293). -/
def floatBits (t : Ty) (abs neg : Bool) (x : Dword) : Nat :=
  let w := t.width
  let v := x.toNat % 2 ^ w
  let v := if abs then v % 2 ^ (w - 1) else v
  if neg then v ^^^ 2 ^ (w - 1) else v

/-- The floating-point immediate of a type: EXT24 × 256, of which a 16-bit type takes the upper half (09 R293). -/
def immFloat (t : Ty) (e : BitVec 24) : Dword :=
  let p : BitVec 32 := e ++ 0#8
  if t.width == 16 then (p.extractLsb' 16 16).setWidth 64 else p.setWidth 64

end Sys2Proof.Machine
end

