-- ==== Sys2Proof/Machine/MemLib.lean ====
section
/-!
DEFINITION. Access to memory by warps: effective addresses and their checks in order (10 R305 to R307, 01 R11 to R21,
02 R59), what faults and misses do (01 R39, R51, 06 R220), and the access itself (03 R94, R95, 04 R129, R147, R148).
-/
namespace Sys2Proof

/-- Index, scale and offset of a Format M instruction (10 R305): the exact sum. -/
def MForm.offset (f : MForm) (b : Dword) : Int :=
  (match f.b with
    | .none => 0
    | _ => toSigned 32 b.toNat * (2 ^ f.scale.toNat : Nat)) + toSigned 20 f.off.toNat

/-- The effective address of a lane, from its base and index (10 R305). -/
def MForm.ea (f : MForm) (a b : Dword) : Dword :=
  match f.space.toNat with
  | 0 | 1 => a + BitVec.ofInt 64 (f.offset b)
  | 2 => BitVec.ofInt 64 (f.offset b)
  | _ => BitVec.ofInt 64 ((a.toNat % 2 ^ 32 : Nat) + f.offset b)

/-- Whether the base of a Format M instruction is a pair (10 R306). -/
def MForm.pairBase (f : MForm) : Bool := decide (f.space.toNat < 2)

/-- Whether an operand is a register of the whole workgroup (05 R181). -/
def Operand.shared : Operand → Bool
  | .g _ => true
  | _ => false

/-- The width of the access in bytes (10 R305). -/
def MForm.bytes (f : MForm) : Nat := 2 ^ f.width.toNat

end Sys2Proof

namespace Sys2Proof.Machine

/-- A part of a lane's access: where, how many bytes, the D bits its write sets, its placement, and whether it belongs
to a BACKED folio. -/
structure Piece where
  loc : Loc
  bytes : Nat
  dirty : List Nat
  plc : Nat
  die : Nat
  backed : Bool
  deriving DecidableEq, Repr

/-- What the checks find for one lane. -/
inductive LaneOut where
  | go (l : List Piece)
  /-- a folio whose claim the warp lost: loads read zero, stores do nothing (02 R71) -/
  | gone
  | bad (cause sub : BitVec 8) (i0 i1 : Word) (folio : Option Dword)
  /-- an uncorrectable error is found in a folio, by slot and offset (02 R93) -/
  | broken (slot : Nat) (off : Int)
  /-- fault IDs with their pending-table entries and addresses -/
  | fault (l : List (BitVec 16 × Nat × Dword))
  | miss (stage page ipa : Nat) (range : Option (Nat × BitVec 7)) (va : Dword)
  deriving DecidableEq, Repr

/-- Two parts of one lane's access together: a failed check stands, then a miss, then a fault. -/
def LaneOut.join : LaneOut → LaneOut → LaneOut
  | .bad c b x y f, _ => .bad c b x y f
  | _, .bad c b x y f => .bad c b x y f
  | .broken a b, _ => .broken a b
  | _, .broken a b => .broken a b
  | .miss a b c d e, _ => .miss a b c d e
  | _, .miss a b c d e => .miss a b c d e
  | .fault l, .fault m => .fault (l ++ m)
  | .fault l, _ => .fault l
  | _, .fault l => .fault l
  | .go l, .go m => .go (l ++ m)
  | .go l, .gone => .go l
  | .gone, x => x

/-- A failed address check: the effective address in TRAPINFO0 and TRAPINFO1 (01 R15). -/
def badAddr (cause sub : BitVec 8) (ea : Dword) : LaneOut :=
  .bad cause sub (ea.extractLsb' 0 32) (ea.extractLsb' 32 32) none

/-- Translate a part of a lane's access (10 R307, order 5). -/
def State.probeVa (s : State) (i : Iss) (acc : Acc) (ea va : Dword) (bytes : Nat) (backed : Bool) : LaneOut :=
  match s.translate i.ctx (i.f.priv == 0) acc va with
  | .pa pa plc die d => .go [{ loc := .global pa, bytes := bytes, dirty := d, plc := plc, die := die, backed := backed }]
  | .trap c b => badAddr c b ea
  | .miss stage page ipa r =>
    match i.f.noteFor acc stage page with
    | some n => badAddr n.cause n.sub (if n.cause == Cause.pageFatal then va else ea)
    | none =>
      match s.pendFor (dieOf i.c) i.ctx stage page with
      | some (e, p) => .fault [(fidOf (dieOf i.c) e p.gen, e, va)]
      | none => .miss stage page ipa r va

/-- The checks of a global address: canonical form, supervisor half, alignment, translation (01 R12 to R14). -/
def State.probeGlobal (s : State) (i : Iss) (acc : Acc) (va : Dword) (bytes align : Nat) : LaneOut :=
  if va.extractLsb' 57 7 != (if va.getLsbD 56 then 0x7F#7 else 0#7) then badAddr Cause.misaligned 1 va
  else if i.f.priv == 0 && va.getLsbD 56 then badAddr Cause.accessViolation 2 va
  else if va.toNat % align != 0 then badAddr Cause.misaligned 2 va
  else s.probeVa i acc va va bytes false

/-- The folio that a handle, or a local-window pointer with 12 bits of generation, names (02 R58, 01 R17).
(DEDUCED, notes/assumptions/27.md.) -/
def Iss.folioFor (i : Iss) (window : Bool) (h : Word) : Option (Nat × Folio) :=
  if window then
    let slot := handleSlot h
    let f := i.core.folio slot
    if f.gen.extractLsb' 0 12 == (handleGen h).extractLsb' 0 12 && f.state != .free && f.ctx == i.ctx then some (slot, f)
    else none
  else i.core.liveFolio i.ctx h

/-- The checks of an access to a folio (02 R59, 10 R307): handle, bounds, alignment, state. -/
def State.probeLocal (s : State) (i : Iss) (acc : Acc) (window : Bool) (h : Word) (off : Int) (ea : Dword)
    (bytes align : Nat) : LaneOut :=
  match i.folioFor window h with
  | none => .bad Cause.staleHandle 0 h 0 none
  | some (slot, f) =>
    let handle := handleOf slot f.gen
    let lost : LaneOut := .bad Cause.folioLost 1 handle (BitVec.ofInt 32 off) (some f.handler)
    let pad : LaneOut :=
      if i.core.padBroken slot off.toNat bytes then .broken slot off
      else .go [{ loc := .folio slot off.toNat, bytes := bytes, dirty := [], plc := 0, die := 0, backed := false }]
    if decide (off < 0) || decide ((512 * f.size : Nat) < off + bytes) then
      .bad Cause.folioBounds 0 handle (BitVec.ofInt 32 off) none
    else if off.toNat % align != 0 then badAddr Cause.misaligned 2 ea
    else if i.w.revoked.contains slot then .gone
    else
      match f.state with
      | .bound | .closing => pad
      | .backed => s.probeVa i acc ea (f.backing + BitVec.ofNat 64 off.toNat) bytes true
      | .rebinding => if f.clm == some i.wi then pad else lost
      | .lost | .free => lost

/-- The global address of a byte of a lane's private space (01 R20). (DEDUCED, notes/assumptions/26.md.) -/
def Iss.privateVa (i : Iss) (lane o : Nat) : Dword :=
  match i.wg with
  | none => 0
  | some g => g.pbase + BitVec.ofNat 64 (i.w.privIndex * g.privsz * 96 + (o / 4 * 96 + lane) * 4 + o % 4)

/-- The checks of a private access (01 R14, R21): bounds, alignment, and each word's translation.
(DEDUCED, notes/assumptions/26.md.) -/
def State.probePrivate (s : State) (i : Iss) (acc : Acc) (o : Int) (ea : Dword) (bytes align lane : Nat) (wideAtom : Bool) :
    LaneOut :=
  let size := ((i.wg.map (·.privsz))).getD 0
  if decide (o < 0) || decide ((size : Int) < o + bytes) then badAddr Cause.accessViolation 4 ea
  else if wideAtom || o.toNat % align != 0 then badAddr Cause.misaligned 2 ea
  else
    (List.range (Nat.max 1 (bytes / 4))).foldl (fun r j =>
      r.join (s.probeVa i acc ea (i.privateVa lane (o.toNat + 4 * j)) (Nat.min 4 bytes) false)) (.go [])

/-- The checks of a generic address, by its window (01 R16 to R19). (DEDUCED, notes/assumptions/27.md.) -/
def State.probeGeneric (s : State) (i : Iss) (acc : Acc) (va : Dword) (bytes align lane : Nat) (wideAtom : Bool) :
    LaneOut :=
  if va.extractLsb' 48 16 == 0xFFFE#16 then
    s.probeLocal i acc true ((va.extractLsb' 24 12).setWidth 16 ++ (va.extractLsb' 36 12).setWidth 16)
      ((va.extractLsb' 0 24).toNat : Nat) va bytes align
  else if va.extractLsb' 48 16 == 0xFFFD#16 then
    s.probePrivate i acc ((va.extractLsb' 0 48).toNat : Nat) va bytes align lane wideAtom
  else s.probeGlobal i acc va bytes align

/-- The checks of one lane (10 R307). -/
def State.probe (s : State) (i : Iss) (f : MForm) (acc : Acc) (a b : Dword) (align lane : Nat) : LaneOut :=
  let ea := f.ea a b
  let wideAtom := acc == .atomic && f.bytes == 8
  match f.space.toNat with
  | 0 => s.probeGlobal i acc ea f.bytes align
  | 1 => s.probeGeneric i acc ea f.bytes align lane wideAtom
  | 2 => s.probeLocal i acc false (a.setWidth 32) (f.offset b) ea f.bytes align
  | _ => s.probePrivate i acc ((a.toNat % 2 ^ 32 : Nat) + f.offset b) ea f.bytes align lane wideAtom

/-- The checks of every lane of a mask. -/
def State.probes (s : State) (i : Iss) (f : MForm) (acc : Acc) (align : Nat) (m : Mask) : List (Nat × LaneOut) :=
  let a := i.src f.pairBase f.a 0
  let b := i.src false f.b 0
  (lanesOf m).map fun l => (l, s.probe i f acc (a l) (b l) align l)

/-- The lanes whose outcome passes a test. -/
def lanesWhere (outs : List (Nat × LaneOut)) (p : LaneOut → Bool) : Mask :=
  outs.foldl (fun m o => if p o.2 then m ||| (1#96 <<< o.1) else m) 0

/-- Whether a lane failed a check. -/
def LaneOut.isBad : LaneOut → Bool
  | .bad _ _ _ _ _ => true
  | .broken _ _ => true
  | _ => false

/-- Whether a lane meets a fault that parks it. -/
def LaneOut.isFault : LaneOut → Bool
  | .fault _ => true
  | _ => false

/-- Whether a lane waits for a walk. -/
def LaneOut.isMiss : LaneOut → Bool
  | .miss _ _ _ _ _ => true
  | _ => false

/-- The parts of a lane's access. -/
def LaneOut.pieces : LaneOut → List Piece
  | .go l => l
  | _ => []

/-- Start the walks that lanes wait for (01 R50, R51). (DEDUCED, notes/assumptions/24.md.) -/
def State.walksFor (s : State) (i : Iss) (acc : Acc) (outs : List (Nat × LaneOut)) (scalarMask : Option Mask) : State :=
  outs.foldl (fun s o => match o.2 with
    | .miss stage page ipa r va =>
      s.startWalk (dieOf i.c) (walkOf i.ctx stage page va ipa acc (i.f.priv == 0) i.c i.wi r)
        (.frag i.c i.wi i.fi (scalarMask.getD (1#96 <<< o.1)))
    | _ => s) s

/-- The trap of the lowest lane that failed a check; every such lane in TRAPMASK (01 R15). -/
def Iss.checkTrap (i : Iss) (outs : List (Nat × LaneOut)) : Option TrapReq :=
  let m := lanesWhere outs LaneOut.isBad
  outs.findSome? fun o => match o.2 with
    | .bad c b x y f => some { (i.trapReq c b m x y) with folio := f }
    | .broken slot off =>
      let f := i.core.folio slot
      some { (i.trapReq Cause.folioLost 1 m (handleOf slot f.gen) (BitVec.ofInt 32 off)) with folio := some f.handler }
    | _ => none

/-- The fault IDs of the lanes that fault, each with its lanes, the lowest first (01 R40). -/
def faultRefs (outs : List (Nat × LaneOut)) (scalarMask : Option Mask) : List FidRef :=
  outs.foldl (fun l o => match o.2 with
    | .fault fs => fs.foldl (fun l f =>
        let m : Mask := scalarMask.getD (1#96 <<< o.1)
        if l.any fun r => r.fid == f.1 then l.map fun r => if r.fid == f.1 then { r with lanes := r.lanes ||| m } else r
        else l ++ [faultRef f.1 m f.2.2]) l
    | _ => l) []

/-- Attach the faulting lanes to their entries (01 R51). -/
def State.attachAll (s : State) (i : Iss) (acc : Acc) (outs : List (Nat × LaneOut)) (scalarMask : Option Mask) : State :=
  outs.foldl (fun s o => match o.2 with
    | .fault fs => fs.foldl (fun s f => s.attach (dieOf i.c) f.2.1
        { toAsk := i.ask acc f.2.2, who := .frag i.c i.wi i.fi (scalarMask.getD (1#96 <<< o.1)) }) s
    | _ => s) s

/-! The memory as an access of a warp meets it. -/

/-- The bytes of a line as memory holds them. -/
def State.lineBytes (s : State) (num : Nat) : List Byte := Memory.readBytes s.mem (64 * num) 64

/-- Whether a piece is served by a line its core's data cache holds (03 R95). (DEDUCED, notes/assumptions/122.md.) -/
def State.cdcHit (s : State) (core scope : Nat) (p : Piece) : Bool :=
  match p.loc with
  | .global pa => decide (scope ≤ 2) && FMap.has (s.core core).cdc (pa / 64)
  | .folio _ _ => false

/-- Load a piece (03 R95): at .wp, .wg or .co the data cache serves it, filled on a miss; at .pk or .sy it is read from
its home, a copy in the data cache being replaced. A line read from memory is charged 64 bytes (15 R455).
(DEDUCED, notes/assumptions/122.md.) (DESIGN CHOICE, notes/assumptions/143.md.) -/
def State.loadPiece (s : State) (core scope : Nat) (p : Piece) : Nat × State :=
  match p.loc with
  | .folio _ _ => (s.locRead core p.loc p.bytes, s)
  | .global pa =>
    let s := s.place core pa p.plc p.die
    let num := pa / 64
    match FMap.get (s.core core).cdc num, decide (scope ≤ 2) with
    | some line, true => (leOf ((line.drop (pa % 64)).take p.bytes), s)
    | some _, false => (s.mread pa p.bytes, (s.charge core 64).modCore core fun k => { k with cdc := FMap.set k.cdc num (s.lineBytes num) })
    | none, true => (s.mread pa p.bytes, (s.charge core 64).modCore core fun k => { k with cdc := fillLine k.cdc num (s.lineBytes num) })
    | none, false => (s.mread pa p.bytes, s.charge core 64)

/-- Load the parts of a lane's access, the first lowest. -/
def State.loadPieces (s : State) (core scope : Nat) (l : List Piece) : Nat × State :=
  let r := l.foldl (fun (a : Nat × Nat × State) p =>
    let x := a.2.2.loadPiece core scope p
    (a.1 + x.1 * 2 ^ (8 * a.2.1), a.2.1 + p.bytes, x.2)) (0, 0, s)
  (r.1, r.2.2)

/-- Store a piece: D is set before the write (01 R31). (DESIGN CHOICE, notes/assumptions/143.md.) -/
def State.storePiece (s : State) (core : Nat) (p : Piece) (v : Nat) : State :=
  match p.loc with
  | .folio _ _ => s.locWrite core p.loc p.bytes v
  | .global pa => ((s.place core pa p.plc p.die).setDirty p.dirty).locWrite core p.loc p.bytes v

/-- Store the parts of a lane's access. -/
def State.storePieces (s : State) (core : Nat) (l : List Piece) (v : Nat) : State :=
  (l.foldl (fun (a : Nat × State) p => (a.1 + p.bytes, a.2.storePiece core p (v / 2 ^ (8 * a.1)))) (0, s)).2

/-- The scope an access is performed at: at most .co in local space (04 R133). -/
def pieceScope (scope : Nat) (p : Piece) : Nat :=
  match p.loc with
  | .folio _ _ => Nat.min scope 2
  | .global _ => scope


/-- Apply the warp's quanta whose bytes an access touches, but for those it merges with (04 R147). -/
def State.touch (s : State) (i : Iss) (l : List Piece) (merge : Quantum → Bool) : State :=
  if i.w.quanta.isEmpty then s
  else s.applyQuanta i.c i.wi fun q => !merge q && l.any fun p => q.loc.overlaps q.bytes p.loc p.bytes

/-- A release of the warp at a scope: its quanta of that scope or a narrower one and its compensations (04 R145, R147,
R148). -/
def State.release (s : State) (c w scope : Nat) : State :=
  (s.applyQuanta c w fun q => decide (q.scope ≤ scope)).payComps c w

/-- The oldest discarded quantum that a release at a scope meets, and its trap (02 R82, R86). (DEDUCED, notes/assumptions/28.md.) -/
def Iss.quantumTrap (i : Iss) (scope : Nat) : Option (LostQuantum × TrapReq) :=
  match i.w.lostQuanta.find? fun q => decide (q.scope ≤ scope) with
  | none => none
  | some q => some (q, { (i.trapReq Cause.folioLost 5 i.f.mask q.handle (BitVec.ofNat 32 q.off)) with
      folio := some ((i.core.liveFolio i.ctx q.handle).map (·.2.handler) |>.getD 0) })

/-- The issuing fragment waits in lock retry at its instruction, for a bit of a bank (03 R101, R102).
(DEDUCED, notes/assumptions/33.md.) -/
def State.lockWait (s : State) (i : Iss) (bank : Nat) : State :=
  s.modFrag i.c i.wi i.fi fun f => { f with state := .waiting, wait := .lock bank, age := 0 }

/-- The bank of the first of the warp's pending quanta that pass and that another warp's lock bit keeps from being applied
(10 R315). -/
def Iss.quantumLock (i : Iss) (p : Quantum → Bool) : Option Nat := (i.w.quanta.filter p).findSome? (i.core.lockedQuantum i.wi)

/-- Whether the store queue holds an entry of the warp below a number (04 R149). -/
def Iss.queueBefore (i : Iss) (mark : Nat) : Bool :=
  (FMap.getD i.core.storeQ (i.wi % 4) []).any fun e => e.warp == i.wi && decide (e.seq < mark)

/-- A release of the issuing fragment, and what follows it: the stores and atomics that the warp issued before it and that
are still queued are waited for (04 R149), and a quantum on a line that another warp has locked waits for its lock bit as an
atomic does (10 R315). -/
def State.releasing (s : State) (i : Iss) (scope : Option Nat) (go : State → State) : State :=
  match scope with
  | none => go s
  | some sc =>
    let mark := i.f.behind.getD i.w.queued
    if i.queueBefore mark then s.modFrag i.c i.wi i.fi fun f => { f with behind := some mark }
    else
      match i.quantumLock fun q => decide (q.scope ≤ sc) with
      | some bank => s.lockWait i bank
      | none => go (s.release i.c i.wi sc)

/-- A release by an access, whose rule lists FOLIO_LOST (10 R330): a discarded quantum of its scope traps first (02 R82). A release of
another kind, whose rule lists no such trap, leaves it for the next access that releases.
(DEDUCED, notes/assumptions/28.md, 147.md) -/
def State.releasingAccess (s : State) (i : Iss) (scope : Option Nat) (go : State → State) : State :=
  match scope.bind i.quantumTrap with
  | some (q, t) =>
    if i.queueBefore (i.f.behind.getD i.w.queued) then s.releasing i scope go
    else (s.modWarp i.c i.wi fun w => { w with lostQuanta := w.lostQuanta.erase q }).raise i t
  | none => s.releasing i scope go

/-- An acquire at a scope: at .pk or .sy the data cache of the core is emptied (03 R95, 04 R149). -/
def State.acquire (s : State) (c scope : Nat) : State :=
  if 3 ≤ scope then s.modCore c fun k => { k with cdc := [] } else s

/-- Kill the issuing fragment's context because it consumed poison (03 R99, 16 R487). (DEDUCED, notes/assumptions/35.md.) -/
def State.poisonKill (s : State) (i : Iss) : State :=
  match i.wg with
  | none => s
  | some g => s.killContext g.ctx (g.launch % 2 ^ 32) 0x7F 3 0 0 0

/-- Whether the line of a part is poisoned at its home (03 R99). -/
def Piece.poisonedHome (p : Piece) (s : State) : Bool :=
  match p.loc with
  | .global pa => s.poison.contains (pa / 64)
  | .folio _ _ => false

/-- Whether a load would consume a poisoned line (03 R99). -/
def State.poisoned (s : State) (core scope : Nat) (l : List Piece) : Bool :=
  !s.poison.isEmpty && l.any fun p => p.poisonedHome s && !s.cdcHit core scope p

/-! The two halves of a 16-byte access, which are performed one by one (04 R130). -/

/-- A place some bytes further. -/
def Loc.plus : Loc → Nat → Loc
  | .global pa, n => .global (pa + n)
  | .folio slot off, n => .folio slot (off + n)

/-- The lower half of a 16-byte part; any other part whole. -/
def Piece.low (p : Piece) : Piece := if p.bytes == 16 then { p with bytes := 8 } else p

/-- The upper half of a 16-byte part; any other part whole. -/
def Piece.high (p : Piece) : Piece := if p.bytes == 16 then { p with loc := p.loc.plus 8, bytes := 8 } else p

/-- What is left to perform of an access's parts: the upper halves of the lanes whose lower half is performed. -/
def Iss.remaining (i : Iss) (go : List (Nat × List Piece)) : List (Nat × List Piece) :=
  go.map fun l => if FMap.has i.f.half l.1 then (l.1, l.2.map Piece.high) else l

/-- The value of a lane whose rest has been loaded, under the half loaded before. -/
def Iss.joined (i : Iss) (lane v : Nat) : Nat :=
  match FMap.get i.f.half lane with
  | some low => low + 2 ^ 64 * v
  | none => v

/-- Whether an access of 16 bytes is one whose halves are performed apart: the issue says so, the warp has no other fragment that
could change its operands, none of which is shared with other warps, and every lane goes ahead.
(DESIGN CHOICE, notes/assumptions/138.md.) -/
def Iss.splits (i : Iss) (f : MForm) (outs : List (Nat × LaneOut)) : Bool :=
  i.late && f.bytes == 16 && f.ord == 0 && !([f.a, f.b, f.c].any Operand.shared) && !i.spec && i.f.half.isEmpty && i.w.frags.length == 1 && !outs.isEmpty &&
    outs.all fun o => match o.2 with
    | .go [p] => p.bytes == 16
    | _ => false

/-- The lanes and parts of an access that goes ahead. -/
def goLanes (outs : List (Nat × LaneOut)) : List (Nat × List Piece) :=
  outs.filterMap fun o => match o.2 with
    | .go l => some (o.1, l)
    | _ => none

/-- Errors that an access found (02 R93): a folio of rank 0 to 6 is LOST at once, one of rank 7 kills the context.
(DEDUCED, notes/assumptions/35.md.) -/
def State.foundErrors (s : State) (i : Iss) (outs : List (Nat × LaneOut)) (go : State → State) : State :=
  let slots := (outs.filterMap fun o => match o.2 with
    | .broken slot _ => some slot
    | _ => none).eraseDups
  if slots.any fun t => (i.core.folio t).rank == 7 then s.poisonKill i
  else go (slots.foldl (fun s t => s.modCore i.c fun k => k.loseFolio t) s)

/-- The lines of memory that an access's requests name (03 R120). -/
def requestLines (go : List (Nat × List Piece)) : List Nat :=
  go.flatMap fun o => o.2.filterMap fun p => match p.loc with
    | .global pa => some (pa / 64)
    | .folio _ _ => none

/-- Every part of the lanes that go ahead. -/
def allPieces (go : List (Nat × List Piece)) : List Piece := go.flatMap (·.2)

/-- The parts of an access that wait for a new grant of bytes: those that are no hit in the data cache, and whose class is below
urgent, be it their own, or that of the entry of their line in the line class table (03 R120, 15 R455). -/
def State.grantless (s : State) (core : Nat) (acc : Acc) (bulk : Option Nat) (l : List Piece) : List Nat :=
  l.filterMap fun p => match p.loc with
    | .global pa =>
      if decide ((s.core core).classOf (pa / 64) (if bulk.isSome then 0 else 2) < 2) && (acc.writes || !s.cdcHit core (bulk.getD 4) p)
      then some (pa / 64) else none
    | .folio _ _ => none

/-- Whether an access waits for a new grant of bytes (15 R455): the grant is spent. -/
def State.waitsGrant (s : State) (core : Nat) (acc : Acc) (bulk : Option Nat) (l : List Piece) : Bool :=
  s.budgetSpent core && !(s.grantless core acc bulk l).isEmpty

/-- The access waits for a new grant, and its lines' later requests with it (03 R120, 15 R455). -/
def State.holdGrant (s : State) (core : Nat) (acc : Acc) (bulk : Option Nat) (l : List Piece) : State :=
  ((s.grantless core acc bulk l).eraseDups.foldl (fun s x => s.holdLine core x) s).budgetHold core

/-- Whether every folio that the parts of an access lie in holds capacity still: the release before the access may have found one
broken (02 R93). -/
def Core.stillHolds (k : Core) (l : List Piece) : Bool :=
  l.all fun p => match p.loc with
    | .folio slot _ => (k.folio slot).holds
    | .global _ => true

/-- End an access after its checks (10 R307, 01 R39): walks are started, a failed check traps, a speculative fragment defers its
faults (06 R220), the faulting lanes park, and the rest is performed: `act` gives the state the memory is left in and the effect on
the core's registers, in which a trap leaves everything as it was. The instruction stays instead where its requests have no room in
the line class table (03 R120), where a folio was lost since its checks, where it waits for a new grant of bytes (15 R455), and
where a pending quantum that it makes the device apply, but for those that `past` names, lies on a line that another warp has
locked (04 R147, 10 R315). (DEDUCED, notes/assumptions/24.md, 25.md) -/
def State.accessPast (s : State) (i : Iss) (acc : Acc) (outs : List (Nat × LaneOut)) (scalarMask : Option Mask)
    (bulk : Option Nat) (past : List Piece → Quantum → Bool) (act : Mask → List (Nat × List Piece) → State → State × (Core → Eff)) : State :=
  let i := s.iss.getD i
  if outs.any fun o => o.2.isMiss then s.walksFor i acc outs scalarMask
  else
    match i.checkTrap outs with
    | some t =>
      if i.spec then s.raise i t
      else s.foundErrors i outs fun s => s.raise i (match scalarMask with
        | some m => { t with mask := m }
        | none => t)
    | none =>
      let faults := lanesWhere outs LaneOut.isFault
      let pend : Mask := if faults == 0 then 0 else scalarMask.getD faults
      if pend != 0 && i.spec then s.modFrag i.c i.wi i.fi fun f => { f with deferred := true }
      else
        let k := if pend == 0 then i.begin
          else i.core.parkFrag i.wi i.w i.fi i.f pend (faultRefs outs scalarMask)
        let s1 := (s.setCore i.c k).attachAll i acc outs scalarMask
        let go := goLanes outs
        if go.isEmpty && lanesWhere outs (fun o => o == .gone) == 0 then s1
        else if !i.core.linesFit (requestLines go) || !i.core.stillHolds (allPieces go) then s
        else
          let l := allPieces go
          if s.waitsGrant i.c acc bulk l then s.holdGrant i.c acc bulk l
          else match i.quantumLock fun q => !past l q && l.any fun p => q.loc.overlaps q.bytes p.loc p.bytes with
          | some bank => if i.spec then s else s.lockWait i bank
          | none =>
            let r := act (lanesWhere outs fun o => !o.isFault) go s1
            match r.2 (r.1.core i.c) with
            | .ok k => r.1.setCore i.c k
            | .stay _ => s
            | .trap t => s.raise i t

/-- End an access after its checks, where it makes the device apply every quantum on its bytes.
(DEDUCED, notes/assumptions/24.md, 25.md) -/
def State.access (s : State) (i : Iss) (acc : Acc) (outs : List (Nat × LaneOut)) (scalarMask : Option Mask) (bulk : Option Nat)
    (act : Mask → List (Nat × List Piece) → State → State × (Core → Eff)) : State :=
  s.accessPast i acc outs scalarMask bulk (fun _ _ => false) act

/-- Write a value of some registers lane by lane, which may land late (10 R310, 05 R178). -/
def Iss.putWords (i : Iss) (d : Operand) (m : Mask) (count : Nat) (val : Nat → Nat) (k : Core) : Eff :=
  match d with
  | .v n => (List.range count).foldl (fun e j => e.andThen
      (i.putLate (n.toNat + j) m (lanesFrom fun l => if m.getLsbD l then BitVec.ofNat 32 (val l / 2 ^ (32 * j)) else 0))) (.ok k)
  | .s n => i.putS ((List.range count).map fun j => (n.toNat + j, BitVec.ofNat 32 (val 0 / 2 ^ (32 * j)))) k
  | _ => .ok k

/-- The value in some consecutive registers, lane by lane. -/
def Iss.words (i : Iss) (o : Operand) (count : Nat) : Nat → Nat :=
  match o with
  | .v n =>
    let regs := (List.range count).map fun j => i.w.readV i.f (n.toNat + j)
    fun l => (regs.foldr (fun (r : Lanes) v => (r.at l).toNat + 2 ^ 32 * v) 0)
  | .s n =>
    let x := ((List.range count).map fun j => i.w.readS i.f (n.toNat + j)).foldr (fun (r : Word) v => r.toNat + 2 ^ 32 * v) 0
    fun _ => x
  | _ => fun _ => 0

/-- A loaded value as registers receive it: extended to 32 bits (10 R311). -/
def extendLoad (bytes : Nat) (sx : Bool) (v : Nat) : Nat :=
  if bytes < 4 && sx then (BitVec.ofInt 32 (toSigned (8 * bytes) v)).toNat else v

/-- The registers an access of a width takes (10 R310). -/
def regsFor (bytes : Nat) : Nat := Nat.max 1 (bytes / 4)

end Sys2Proof.Machine
end

