-- ==== Sys2Proof/Machine/MemoryOps.lean ====
section
/-!
DEFINITION. The memory instructions of class 3: loads, stores, atomics, lock bits, fence, pfm and cvta (10 R310 to R322),
with quanta (04 R147), speculative atomics (04 R148) and the speculative store queue (06 R221, R222).
-/
namespace Sys2Proof.Machine

/-- Whether an ORD is an acquire (04 R134). -/
def ordAcq (o : BitVec 2) : Bool := o == 1 || o == 3
/-- Whether an ORD is a release (04 R134). -/
def ordRel (o : BitVec 2) : Bool := o == 2 || o == 3

/-- The scope of a release by an access, if it is one. -/
def relScope (o : BitVec 2) (scope : Nat) : Option Nat := if ordRel o then some scope else none

/-- The scope at which a whole access acts: at most .co where every part is in local space (04 R133). -/
def accessScope (scope : Nat) (go : List (Nat × List Piece)) : Nat :=
  if go.all fun l => l.2.all fun p => match p.loc with
      | .folio _ _ => true
      | .global _ => false
  then Nat.min scope 2 else scope

/-- The scope of a plain load or store, which travels in a class below urgent; none for an acquire or a release, which are
urgent (03 R117). -/
def plainClass (f : MForm) : Option Nat := if f.ord == 0 then some f.scope.toNat else none

/-- Whether a lane of an access is local, in a folio whose claim is lost, or in a BACKED folio, where a speculative write waits
(06 R219). -/
def anyLocal (outs : List (Nat × LaneOut)) : Bool :=
  outs.any (fun o => o.2 == .gone) || (allPieces (goLanes outs)).any fun p => p.backed || match p.loc with
    | .folio _ _ => true
    | .global _ => false

/-- What a queued entry of the warp gives a speculative load of a lane: its bytes, or a wait (06 R222). -/
inductive Forward where
  | memory
  | bytes (v : Nat)
  | wait
  deriving DecidableEq, Repr

/-- Look up the queue for a load of a lane (06 R222). A load under a queued atomic, whose value is not known yet, waits; so does one
which an entry of the lane overlaps in part, whatever other entry covers it whole.
(DESIGN CHOICE, notes/assumptions/149.md.) -/
def Iss.forward (i : Iss) (lane : Nat) (p : Piece) : Forward :=
  (FMap.getD i.core.storeQ (i.wi % 4) []).foldl (fun r e =>
    if e.warp != i.wi then r
    else
      e.lanes.foldl (fun r q =>
        if q.lane != lane || !q.loc.overlaps e.bytes p.loc p.bytes then r
        else
          match r, e.atomic, q.loc, p.loc with
          | .wait, _, _, _ => .wait
          | _, none, .global a, .global b =>
            if a ≤ b && b + p.bytes ≤ a + e.bytes then .bytes (q.data / 2 ^ (8 * (b - a)) % 2 ^ (8 * p.bytes)) else .wait
          | _, _, _, _ => .wait) r) .memory

/-- Load the parts of a lane, a speculative lane's from the queue where it holds them (06 R222). -/
def State.loadLane (s : State) (i : Iss) (scope lane : Nat) (l : List Piece) : Nat × State :=
  if i.spec then
    let r := l.foldl (fun (a : Nat × Nat × State) p =>
      let x := match i.forward lane p with
        | .bytes v => (v, a.2.2)
        | _ => a.2.2.loadPiece i.c scope p
      (a.1 + x.1 * 2 ^ (8 * a.2.1), a.2.1 + p.bytes, x.2)) (0, 0, s)
    (r.1, r.2.2)
  else s.loadPieces i.c scope l

/-- Load all lanes: the values lane by lane, and the state. -/
def State.loadLanes (s : State) (i : Iss) (scope : Nat) (go : List (Nat × List Piece)) : FMap Nat × State :=
  go.foldl (fun (a : FMap Nat × State) l =>
    let x := a.2.loadLane i scope l.1 l.2
    (FMap.set a.1 l.1 x.1, x.2)) ([], s)

/-- The lower halves of a 16-byte load or store are performed, and the fragment stands at it for the upper ones (04 R130). -/
def State.firstHalves (s : State) (i : Iss) (go : List (Nat × List Piece)) (act : List (Nat × List Piece) → State → FMap Nat × State) :
    State :=
  let s := s.touch i (allPieces go) fun _ => false
  let r := act (go.map fun l => (l.1, l.2.map Piece.low)) s
  r.2.modFrag i.c i.wi i.fi fun f => { f with half := r.1 }

/-- ld (10 R310, R311): D := the bytes at each active lane's address. A speculative load applies the warp's quanta on its bytes as any
other does (04 R147; DESIGN CHOICE, notes/assumptions/151.md). -/
def execLd (f : MForm) (s : State) : Answer State :=
  .next (s.onIss fun i =>
    let n := regsFor f.bytes
    let ops := [(f.a, regsOf f.pairBase), (f.b, 1)]
    match i.held f.guard ops f.d n (f.ord == 0) with
    | some k => s.setCore i.c k
    | none =>
      if i.spec && f.ord != 0 then s
      else
        let outs := s.probes i f .load f.bytes (i.active f.guard)
        let go := goLanes outs
        if i.spec && go.any (fun l => l.2.any fun p => i.forward l.1 p == .wait) then s
        else if s.poisoned i.c f.scope.toNat (allPieces go) && !outs.any (fun o => o.2.isMiss || o.2.isBad) then
          -- a wrongly included lane consumes nothing: a speculative fragment stops here until it is resolved (04 R157)
          if i.spec then s.modFrag i.c i.wi i.fi fun f => { f with deferred := true } else s.poisonKill i
        else if i.splits f outs && !s.budgetSpent i.c then s.firstHalves i go fun go s => s.loadLanes i f.scope.toNat go
        else
          s.access i .load outs none (plainClass f) fun m go s =>
            let s := s.touch i (allPieces go) fun _ => false
            let r := s.loadLanes i f.scope.toNat (i.remaining go)
            let s := if ordAcq f.ord then r.2.acquire i.c (accessScope f.scope.toNat go) else r.2
            (s, fun k => i.putWords f.d m n (fun l => extendLoad f.bytes f.sx (i.joined l (FMap.getD r.1 l 0)))
              (i.lastReads f.lr ops m k)))

/-- Put an entry in the speculative store queue (06 R221). -/
def Core.enqueue (k : Core) (slot : Nat) (e : SQEntry) : Core :=
  { k with
    storeQ := FMap.set k.storeQ slot (FMap.getD k.storeQ slot [] ++ [e])
    warps := FMap.modify k.warps e.warp fun w => { w with queued := e.seq + 1 } }

/-- Whether the queue of the warp's issue slot is full (06 R221). -/
def Iss.queueFull (i : Iss) : Bool := decide (Config.storeQueue ≤ (FMap.getD i.core.storeQ (i.wi % 4) []).length)

/-- The queued lanes of a speculative write, a wide private access word by word (06 R221). (DEDUCED, notes/assumptions/32.md.) -/
def queueLanes (go : List (Nat × List Piece)) (val val2 : Nat → Nat) : List QLane :=
  go.flatMap fun l => (l.2.foldl (fun (a : Nat × List QLane) p =>
    (a.1 + p.bytes, a.2 ++ [{ lane := l.1, loc := p.loc, data := val l.1 / 2 ^ (8 * a.1) % 2 ^ (8 * p.bytes)
                              data2 := val2 l.1, dirty := p.dirty }])) (0, [])).2

/-- The queue entry of a speculative write of the issuing fragment. -/
def Iss.entry (i : Iss) (go : List (Nat × List Piece)) (scope : Nat) (atomic : Option (Nat × Bool × Operand))
    (lanes : List QLane) : SQEntry :=
  { warp := i.wi, seq := i.w.queued, record := i.w.innermost i.f, pc := i.f.pc
    bytes := ((allPieces go).head?.map (·.bytes)).getD 0, scope := scope, atomic := atomic, lanes := lanes }

/-- Place the regions that the parts of an access touch (01 R35). (DEDUCED, notes/assumptions/32.md.) -/
def State.placeAll (s : State) (core : Nat) (l : List Piece) : State :=
  l.foldl (fun s p => match p.loc with
    | .global pa => s.place core pa p.plc p.die
    | .folio _ _ => s) s

/-- Store all lanes in rising order, so that the highest lane's bytes stay (04 R129). -/
def State.storeLanes (s : State) (i : Iss) (go : List (Nat × List Piece)) (val : Nat → Nat) : State :=
  go.foldl (fun s l => (s.storePieces i.c l.2 (val l.1)).noticed) s

/-- The value still to be stored of a lane: its upper half where the lower one is performed (04 R130). -/
def Iss.unstored (i : Iss) (val : Nat → Nat) (lane : Nat) : Nat := if FMap.has i.f.half lane then val lane / 2 ^ 64 else val lane

/-- A store after its operands are ready (10 R310): outcomes of its lanes, the lanes that queue for it under speculation,
its values. -/
def State.storeOp (s : State) (i : Iss) (f : MForm) (outs : List (Nat × LaneOut)) (scalarMask : Option Mask)
    (spread : List (Nat × List Piece) → List (Nat × List Piece)) (val : Nat → Nat) (ops : List (Operand × Nat)) : State :=
  if i.spec then
    if (f.ord != 0) || anyLocal outs || i.queueFull then s
    else
      s.access i .store outs scalarMask (plainClass f) fun m go s =>
        (s.placeAll i.c (allPieces go), fun k => .ok ((i.lastReads f.lr ops m k).enqueue (i.wi % 4)
          (i.entry go f.scope.toNat none (queueLanes (spread go) val fun _ => 0))))
  else if outs.any fun o => o.2.isMiss || o.2.isBad then s.access i .store outs scalarMask none fun _ _ s => (s, Eff.ok)
  else if i.splits f outs && !s.budgetSpent i.c then
    s.firstHalves i (goLanes outs) fun go s => (go.foldl (fun m l => FMap.set m l.1 0) [], s.storeLanes i go val)
  else
    s.releasingAccess i (relScope f.ord (accessScope f.scope.toNat (goLanes outs))) fun s =>
      s.access i .store outs scalarMask (plainClass f) fun m go s =>
        let s := s.touch i (allPieces go) fun _ => false
        (s.storeLanes i (i.remaining go) (i.unstored val), fun k => .ok (i.lastReads f.lr ops m k))

/-- st (10 R310, R311): the bytes at each active lane's address := C. -/
def execSt (f : MForm) (s : State) : Answer State :=
  .next (s.onIss fun i =>
    let n := regsFor f.bytes
    let ops := [(f.a, regsOf f.pairBase), (f.b, 1), (f.c, n)]
    match i.held f.guard ops .none 1 with
    | some k => s.setCore i.c k
    | none => s.storeOp i f (s.probes i f .store f.bytes (i.active f.guard)) none (fun go => go) (i.words f.c n) ops)

/-- The lane whose private space a scalar access uses: the lowest that passes the guard (10 R312). -/
def Iss.scalarLane (i : Iss) (g : Guard) : Nat := (lowLane (i.lanes &&& i.guardMask g)).getD 0

/-- The checks of a scalar access (10 R312). -/
def State.scalarProbe (s : State) (i : Iss) (f : MForm) (acc : Acc) : List (Nat × LaneOut) :=
  let l := i.scalarLane f.guard
  [(l, s.probe i f acc (i.scalarSrc f.pairBase f.a 0) (i.scalarSrc false f.b 0) f.bytes l)]

/-- lds (10 R310, R312): D := the bytes at the address, once for the warp. -/
def execLds (f : MForm) (s : State) : Answer State :=
  .next (s.onIss fun i =>
    let n := regsFor f.bytes
    if i.spec || i.blocked f.guard [(f.a, regsOf f.pairBase), (f.b, 1)] then s
    else if !i.scalarGo f.guard then s.setCore i.c i.begin
    else
      let outs := s.scalarProbe i f .load
      if s.poisoned i.c f.scope.toNat (allPieces (goLanes outs)) then s.poisonKill i
      else if i.splits f outs && !s.budgetSpent i.c then s.firstHalves i (goLanes outs) fun go s => s.loadLanes i f.scope.toNat go
      else
        s.access i .load outs (some i.f.mask) (plainClass f) fun _ go s =>
          let s := s.touch i (allPieces go) fun _ => false
          let r := s.loadLanes i f.scope.toNat (i.remaining go)
          let s := if ordAcq f.ord then r.2.acquire i.c (accessScope f.scope.toNat go) else r.2
          let l := i.scalarLane f.guard
          (s, i.lenient.putWords f.d 1 n fun _ => extendLoad f.bytes f.sx (i.joined l (FMap.getD r.1 l 0))))

/-- sts (10 R310, R312): the bytes at the address := C, once for the warp. Under speculation it stands while any lane
that passed the guard is kept. -/
def execSts (f : MForm) (s : State) : Answer State :=
  .next (s.onIss fun i =>
    let n := regsFor f.bytes
    if i.blocked f.guard [(f.a, regsOf f.pairBase), (f.b, 1), (f.c, n)] then s
    else if !i.scalarGo f.guard then s.setCore i.c i.begin
    else
      s.storeOp i f (s.scalarProbe i f .store) (some i.f.mask)
        (fun go => (lanesOf (i.lanes &&& i.guardMask f.guard)).flatMap fun l => go.map fun g => (l, g.2))
        (i.words f.c n) [])

/-- An operand some registers further. -/
def Operand.plus : Operand → Nat → Operand
  | .v n, j => .v (n + BitVec.ofNat 6 j)
  | .s n, j => .s (n + BitVec.ofNat 6 j)
  | o, _ => o

/-- The registers of the operand of an atomic: its value and, for cas, the swap value (10 R314). -/
def atomRegs (f : MForm) : Nat := regsFor f.bytes * (if f.aop == 7 then 2 else 1)

/-- Read, modify and write one part of an access, answering the value read (10 R313 to R315). -/
def State.atomPiece (s : State) (core : Nat) (f : MForm) (p : Piece) (c c1 : Nat) : Nat × State :=
  let s := (match p.loc with
    | .global pa => s.place core pa p.plc p.die
    | .folio _ _ => s).setDirty p.dirty
  (s.locRead core p.loc p.bytes, s.atomAt core p.loc p.bytes f.aop.toNat f.sx c c1)

/-- Perform an atomic for all lanes in rising order (04 R129): for a .comm or .unp atomic the rule lets any order stand, of
which the model takes this one. (DESIGN CHOICE, notes/assumptions/130.md.) -/
def State.atomLanes (s : State) (core : Nat) (f : MForm) (go : List (Nat × List Piece)) (c c1 : Nat → Nat) :
    FMap Nat × State :=
  go.foldl (fun (a : FMap Nat × State) l => l.2.foldl (fun (a : FMap Nat × State) p =>
    let x := a.2.atomPiece core f p (c l.1) (c1 l.1)
    (FMap.set a.1 l.1 x.1, x.2.noticed)) a) ([], s)

/-- Whether a quantum is one that a .qnt atomic at a place merges with (04 R147). (DEDUCED, notes/assumptions/30.md.) -/
def Quantum.merges (q : Quantum) (f : MForm) (l : Loc) : Bool :=
  q.loc == l && q.aop == f.aop.toNat && q.bytes == f.bytes && q.sx == f.sx

/-- Enter one lane of a .qnt atomic into the warp's quantum buffer (04 R147); a CLOSING target is not deferred (02 R74), and where the
oldest quantum's application has found the target broken this one is discarded with the others on it (02 R82, R93).
(DEDUCED, notes/assumptions/30.md.) -/
def State.enterQuantum (s : State) (i : Iss) (f : MForm) (target : Option Nat) (p : Piece) (c : Nat) : State :=
  let s := match p.loc with
    | .global pa => s.place i.c pa p.plc p.die
    | .folio _ _ => s
  let qs := ((s.warp i.c i.wi).map (·.quanta)).getD []
  let scope := pieceScope f.scope.toNat p
  let q : Quantum := { loc := p.loc, target := target, aop := f.aop.toNat, bytes := p.bytes, scope := scope, sx := f.sx
                       value := c % 2 ^ (8 * p.bytes), since := s.refTime, dirty := p.dirty }
  let closing : Bool := match target with
    | some t => ((s.core i.c).folio t).state == .closing
    | none => false
  if closing then (s.applyQuantum i.c q).noticed
  else if qs.any fun x => x.merges f p.loc then
    let add (x : Quantum) : Quantum :=
      if x.merges f p.loc then
        { x with
          value := aopValue x.aop x.sx x.bytes x.value q.value 0
          scope := Nat.min x.scope scope
          dirty := x.dirty ++ q.dirty.filter fun d => !x.dirty.contains d }
      else x
    s.modWarp i.c i.wi fun w => { w with quanta := w.quanta.map add }
  else
    let s := match qs with
      | old :: _ => if Config.quanta ≤ qs.length then s.applyQuanta i.c i.wi fun x => x == old else s
      | [] => s
    if (s.core i.c).stillHolds [p] then s.modWarp i.c i.wi fun w => { w with quanta := w.quanta ++ [q] }
    else s.modWarp i.c i.wi fun w => { w with lostQuanta := w.lostQuanta ++ [q.lost (s.core i.c)] }

/-- The folio-table slot that a lane's local access names, if it is one (10 R305, 01 R16). -/
def Iss.targetSlot (i : Iss) (f : MForm) (lane : Nat) : Option Nat :=
  let a := i.src f.pairBase f.a 0 lane
  if f.space == 2 then some (handleSlot (a.setWidth 32))
  else if f.space == 1 && (f.ea a (i.src false f.b 0 lane)).extractLsb' 48 16 == 0xFFFE#16 then
    some ((f.ea a (i.src false f.b 0 lane)).extractLsb' 36 12).toNat
  else none

/-- The lock bit of a lane's local access: that of its bank's line, or of its line in the backing memory (03 R100). -/
def Iss.lockKey (i : Iss) (f : MForm) (lane : Nat) (p : Piece) : Nat :=
  match p.loc with
  | .folio slot off => padLock ((i.core.folio slot).padAddr off)
  | .global _ =>
    let off := (f.offset (i.src false f.b 0 lane)).toNat
    let slot := ((i.targetSlot f lane)).getD 0
    backedLock ((i.core.folio slot).backing.toNat + off)

/-- Whether a lock bit is held by another warp (03 R101). -/
def Iss.heldByOther (i : Iss) (key : Nat) : Bool :=
  match FMap.get i.core.locks key with
  | some l => l.warp != i.wi
  | none => false

/-- The bank of the first of some lock bits that another warp holds (03 R102). -/
def Iss.lockedBank (i : Iss) (keys : List Nat) : Option Nat := (keys.find? fun k => i.heldByOther k).map (· / 64)

/-- The lock bits of the parts of an access that lie in the scratchpad, where an atomic is performed under them
(10 R315). -/
def Iss.padKeys (i : Iss) (f : MForm) (go : List (Nat × List Piece)) : List Nat :=
  go.flatMap fun l => l.2.filterMap fun p => match p.loc with
    | .folio _ _ => some (i.lockKey f l.1 p)
    | .global _ => none

/-- Add what a .spec atomic of a speculative fragment would have to undo (04 R148). -/
def Iss.noteAtomics (i : Iss) (l : List Comp) (k : Core) : Core :=
  match i.w.innermost i.f with
  | some r => i.onWarp k fun w => { w with spec := FMap.modify w.spec r fun sr => { sr with atomics := sr.atomics ++ l } }
  | none => k

/-- A register allocated without a lane written: where a queued atomic's value will go (06 R216, R221).
(DEDUCED, notes/assumptions/25.md.) -/
def Iss.allocate (i : Iss) (d : Operand) (count : Nat) (k : Core) : Eff :=
  match d with
  | .v n => (List.range count).foldl (fun e j => e.andThen fun k =>
      let w := i.warpIn k
      if FMap.has w.v (n.toNat + j) then .ok k
      else if decide (((i.wg.map (·.live)).getD 0) ≤ w.v.length) then
        .trap (i.trapReq Cause.accessViolation 0x10 (i.active { k := 0, n := false, e := false })
          (BitVec.ofNat 32 (n.toNat + j)) 0)
      else .ok (i.onWarp k fun w => { w with v := FMap.set w.v (n.toNat + j) VReg.zero })) (.ok k)
  | _ => .ok k

/-- An untagged atomic of a speculative fragment: queued (06 R219, R221). (DEDUCED, notes/assumptions/31.md.) -/
def State.queueAtom (s : State) (i : Iss) (f : MForm) (outs : List (Nat × LaneOut)) (c c1 : Nat → Nat)
    (ops : List (Operand × Nat)) : State :=
  if (f.ord != 0) || anyLocal outs || i.queueFull then s
  else
    s.access i .atomic outs none none fun m go s =>
      (s.placeAll i.c (allPieces go), fun k =>
        (i.allocate f.d (regsFor f.bytes) (i.lastReads f.lr ops m k)).andThen fun k =>
          .ok (k.enqueue (i.wi % 4) (i.entry go f.scope.toNat (some (f.aop.toNat, f.sx, f.d)) (queueLanes go c c1))))

/-- An atomic that is performed now (10 R313, R315), noting a speculative fragment's .spec ones (04 R148), which do not wait for the
lane's queued writes of the same bytes (06 R219; DESIGN CHOICE, notes/assumptions/150.md). (DEDUCED, notes/assumptions/31.md.) -/
def State.atomNow (s : State) (i : Iss) (f : MForm) (outs : List (Nat × LaneOut)) (c c1 : Nat → Nat)
    (ops : List (Operand × Nat)) : State :=
  let go := goLanes outs
  if outs.any fun o => o.2.isMiss || o.2.isBad then s.access i .atomic outs none none fun _ _ s => (s, Eff.ok)
  else
  match i.lockedBank (i.padKeys f go) with
  | some bank => if i.spec then s else s.lockWait i bank
  | none =>
    s.releasingAccess i (relScope f.ord (accessScope f.scope.toNat go)) fun s =>
      s.access i .atomic outs none none fun m go s =>
        let s := s.touch i (allPieces go) fun _ => false
        let r := s.atomLanes i.c f go c c1
        let s := if ordAcq f.ord then r.2.acquire i.c (accessScope f.scope.toNat go) else r.2
        let notes : List Comp := if i.spec then
            go.flatMap fun l => l.2.map fun p =>
              { lane := l.1, loc := p.loc, bytes := p.bytes, isXor := f.aop == 5, value := c l.1 % 2 ^ (8 * p.bytes) }
          else []
        (s, fun k => i.putWords f.d m (regsFor f.bytes) (fun l => FMap.getD r.1 l 0)
          (i.noteAtomics notes (i.lastReads f.lr ops m k)))

/-- The parts of a .qnt atomic whose folio is CLOSING: they are performed at once (02 R74). -/
def Iss.closingParts (i : Iss) (f : MForm) (go : List (Nat × List Piece)) : List (Nat × List Piece) :=
  go.filter fun l => ((i.targetSlot f l.1).map fun t => (i.core.folio t).state == .closing).getD false

/-- The parts of a .qnt atomic that make new quanta: no pending one merges with them (04 R147). -/
def Iss.newQuanta (i : Iss) (f : MForm) (go : List (Nat × List Piece)) : List (Nat × List Piece) :=
  go.filter fun l => l.2.any fun p => !i.w.quanta.any fun q => q.merges f p.loc

/-- The lock bit that keeps the quanta, which a .qnt atomic makes the device apply for want of room, from being applied (04 R147,
10 R315). (DEDUCED, notes/assumptions/30.md.) -/
def Iss.evictLock (i : Iss) (f : MForm) (go : List (Nat × List Piece)) : Option Nat :=
  let fresh := i.newQuanta f go
  let excess := i.w.quanta.length + fresh.length - Config.quanta
  match (i.w.quanta.take excess).findSome? (i.core.lockedQuantum i.wi) with
  | some bank => some bank
  | none => i.lockedBank (i.padKeys f (fresh.take (excess - i.w.quanta.length)))

/-- A .qnt atomic: entered into the quantum buffer (04 R147); a part that is performed at once waits for its line's lock bit
as an atomic does (10 R315), and so does a quantum that must be applied to make room. -/
def State.quantumAtom (s : State) (i : Iss) (f : MForm) (outs : List (Nat × LaneOut)) (c : Nat → Nat)
    (ops : List (Operand × Nat)) : State :=
  match (if outs.any fun o => o.2.isMiss || o.2.isBad then none
    else (i.lockedBank (i.padKeys f (i.closingParts f (goLanes outs)))).or (i.evictLock f (goLanes outs))) with
  | some bank => s.lockWait i bank
  | none => s.accessPast i .atomic outs none none (fun go q => go.any fun p => q.merges f p.loc) fun m go s =>
    let locs := (allPieces go).map (·.loc)
    let s := s.touch i (allPieces go) fun q => locs.any fun l => q.merges f l
    (go.foldl (fun s l => l.2.foldl (fun s p => s.enterQuantum i f (i.targetSlot f l.1) p (c l.1)) s) s,
      fun k => .ok (i.lastReads f.lr ops m k))

/-- atom (10 R313 to R316): reads, modifies and writes the bytes at each active lane's address; D := the value read. -/
def execAtom (f : MForm) (s : State) : Answer State :=
  .next (s.onIss fun i =>
    let n := regsFor f.bytes
    let ops := [(f.a, regsOf f.pairBase), (f.b, 1), (f.c, atomRegs f)]
    match i.held f.guard ops f.d n (f.use == 5) with
    | some k => s.setCore i.c k
    | none =>
      if i.spec && !(f.use == 0 || f.use == 5) then s
      else
        let align := if f.aop == 7 then 2 * f.bytes else f.bytes
        let outs := s.probes i f .atomic align (i.active f.guard)
        let c := i.words f.c n
        let c1 := i.words (Operand.plus f.c n) n
        if i.spec && f.use == 0 then s.queueAtom i f outs c c1 ops
        else if f.use == 4 then s.quantumAtom i f outs c ops
        else s.atomNow i f outs c c1 ops)

/-- The lock bits that lanes name, each with the lowest lane that names it (03 R101). (DEDUCED, notes/assumptions/29.md.) -/
def lockOwners (keys : List (Nat × Nat)) : FMap Nat :=
  keys.foldl (fun m k => if FMap.has m k.1 then m else FMap.set m k.1 k.2) []

/-- Set lock bits for the issuing warp; one that it holds already counts as free and is set anew, with the lowest lane that
names it now as its owner (03 R101). (DEDUCED, notes/assumptions/29.md.) -/
def Core.takeLocks (k : Core) (w now : Nat) (keys : FMap Nat) : Core :=
  { k with locks := keys.foldl (fun m p => FMap.set m p.1 { warp := w, lane := p.2, since := now }) k.locks }

/-- The lock bits of the lanes that go ahead. -/
def Iss.lockKeys (i : Iss) (f : MForm) (go : List (Nat × List Piece)) : List (Nat × Nat) :=
  go.flatMap fun l => (l.2.map fun p => (i.lockKey f l.1 p, l.1))

/-- Whether the issuing fragment has parked whole (01 R39). -/
def State.standsParked (s : State) (i : Iss) : Bool :=
  ((s.warp i.c i.wi).bind fun w => FMap.get w.frags i.fi).any fun f => f.state == .parked

/-- Load a part at its home, a copy in the data cache being dropped (03 R95). -/
def State.loadHome (s : State) (core : Nat) (p : Piece) : Nat × State :=
  match p.loc with
  | .folio _ _ => (s.locRead core p.loc p.bytes, s)
  | .global pa => (s.mread pa p.bytes, ((s.place core pa p.plc p.die).cdcDrop core (pa / 64)).charge core 64)

/-- ldlk (10 R317, 03 R101): acquires the lock bits of the active lanes' lines, all or none, and loads. Lanes that meet a page fault take
no bit; where the whole fragment parks with them, none does (03 R103; DESIGN CHOICE, notes/assumptions/154.md). -/
def execLdlk (f : MForm) (s : State) : Answer State :=
  .next (s.onIss fun i =>
    let n := regsFor f.bytes
    let ops := [(f.a, 1), (f.b, 1)]
    match i.held f.guard ops f.d n false with
    | some k => s.setCore i.c k
    | none =>
      if i.spec then s
      else
        let outs := s.probes i f .load f.bytes (i.active f.guard)
        let keys := i.lockKeys f (goLanes outs)
        let ready := !outs.any fun o => o.2.isMiss || o.2.isBad
        match (if ready then i.lockedBank (keys.map (·.1)) else none) with
        | some bank => s.lockWait i bank
        | none =>
        if ready && s.poisoned i.c 3 (allPieces (goLanes outs)) then s.poisonKill i
        else
          s.access i .load outs none (plainClass f) fun m go s =>
            let s := s.touch i (allPieces go) fun _ => false
            let s := if s.standsParked i then s
              else s.modCore i.c fun k => k.takeLocks i.wi (s.cluster (clusterOf i.c)).rawcyc (lockOwners keys)
            let r := go.foldl (fun (a : FMap Nat × State) l => l.2.foldl (fun (a : FMap Nat × State) p =>
              let x := a.2.loadHome i.c p
              (FMap.set a.1 l.1 x.1, x.2)) a) ([], s)
            let s := if ordAcq f.ord then r.2.acquire i.c (accessScope f.scope.toNat go) else r.2
            (s, fun k => i.putWords f.d m n (fun l => FMap.getD r.1 l 0) (i.lastReads f.lr ops m k)))

/-- stul (10 R318, 03 R103): stores for the lanes whose lock bit the warp holds, then releases the bits of the active
lanes' lines; D tells which lanes stored. -/
def execStul (f : MForm) (s : State) : Answer State :=
  .next (s.onIss fun i =>
    let n := regsFor f.bytes
    let ops := [(f.a, 1), (f.b, 1), (f.c, n)]
    match i.held f.guard ops f.d 1 with
    | some k => s.setCore i.c k
    | none =>
      if i.spec then s
      else
        let outs := s.probes i f .store f.bytes (i.active f.guard)
        if outs.any fun o => o.2.isMiss || o.2.isBad then s.access i .store outs none none fun _ _ s => (s, Eff.ok)
        else
          s.releasingAccess i (relScope f.ord (accessScope f.scope.toNat (goLanes outs))) fun s =>
            s.access i .store outs none (plainClass f) fun m go s =>
              let holds (key : Nat) : Bool := match FMap.get i.core.locks key with
                | some l => l.warp == i.wi
                | none => false
              let mine := go.filter fun l => l.2.all fun p => holds (i.lockKey f l.1 p)
              let s := s.touch i (allPieces mine) fun _ => false
              let s := (allPieces mine).foldl (fun s p => match p.loc with
                | .global pa => s.cdcDrop i.c (pa / 64)
                | .folio _ _ => s) s
              let s := s.storeLanes i mine (i.words f.c n)
              let keys := (i.lockKeys f go).map (·.1)
              let s := s.modCore i.c fun k => { k with
                locks := FMap.keep k.locks fun key l => !(l.warp == i.wi && keys.contains key) }
              let bits := maskOf fun l => mine.any fun g => g.1 == l
              (s, fun k => match f.d with
                | .k d => i.putK d.toNat m bits false (i.lastReads f.lr ops m k)
                | _ => .ok (i.lastReads f.lr ops m k)))

/-- The scope of a fence (10 R320). -/
def fenceScope (f : RForm) : Nat := (f.ext.extractLsb' 2 3).toNat

/-- fence.acq (10 R320, 04 R149): at .pk or .sy the data cache is emptied. -/
def execFenceAcq (f : RForm) (s : State) : Answer State :=
  .next (s.onIss fun i => if i.spec then s else (s.setCore i.c i.begin).acquire i.c (fenceScope f))

/-- fence.rel (10 R320, 04 R147 to R149): quanta of its scope are applied and compensations performed. -/
def execFenceRel (f : RForm) (s : State) : Answer State :=
  .next (s.onIss fun i =>
    if i.spec then s
    else s.releasing i (some (fenceScope f)) fun s => s.modFrag i.c i.wi i.fi Frag.finish)

/-- fence.sc (10 R320, 04 R149): both. -/
def execFenceSc (f : RForm) (s : State) : Answer State :=
  .next (s.onIss fun i =>
    if i.spec then s
    else s.releasing i (some (fenceScope f)) fun s =>
      (s.modFrag i.c i.wi i.fi Frag.finish).acquire i.c (fenceScope f))

/-- pfm (10 R321): a hint with no architectural effect, of which this device drops every part.
(DEDUCED, notes/assumptions/34.md.) -/
def execPfm (f : MForm) (s : State) : Answer State :=
  .next (s.onCore fun i =>
    i.vector f.guard f.lr [(f.a, regsOf f.pairBase), (f.b, 1)] .none 1 fun _ k => .ok k)

/-- The conversion of a generic address for a lane (01 R23); it checks no generation, and a window slot that is FREE or another
context's gives 0, as a folio without a backing address does. (DESIGN CHOICE, notes/assumptions/131.md.) -/
def Iss.convertAddr (i : Iss) (va : Dword) (lane : Nat) : Dword :=
  if va.extractLsb' 48 16 == 0xFFFE#16 then
    let f := i.core.folio (va.extractLsb' 36 12).toNat
    if f.state == .free || f.ctx != i.ctx || f.backing == 0 then 0 else f.backing + (va.extractLsb' 0 24).setWidth 64
  else if va.extractLsb' 48 16 == 0xFFFD#16 then i.privateVa lane (va.extractLsb' 0 48).toNat
  else va

/-- cvta (10 R322), which raises no trap: D := the global address of a generic address; an s-register form once, for the lowest active
lane. -/
def execCvta (f : RForm) (s : State) : Answer State :=
  .next (s.onCore fun i =>
    i.vector f.guard f.lr [(f.a, 2)] f.d 2 fun m k =>
      let a := i.src true f.a 0
      match f.d, lowLane m with
      | .s _, some l => i.lenient.put64 f.d (i.convertAddr (a l) l) k
      | .v _, some _ => i.lenient.putSrc true f.d m (fun l => i.convertAddr (a l) l) k
      | _, _ => .ok k)

end Sys2Proof.Machine
end

