-- ==== Sys2Proof/Machine/Speculation.lean ====
section
/-!
DEFINITION. Mask prediction (06): the predictor and its training, the speculative split of a bra, and the resolution of a
speculation record with squash, replay, merges, the store queue and compensations.
-/
namespace Sys2Proof.Machine

/-- The key of a branch's predictor entry (06 R204). -/
def predKey (wi : Nat) (pc : SlotAddr) : Nat := 512 * (wi % 4) + ((pc.toNat % 512) ^^^ wi)

/-- The tag of a branch (06 R204). -/
def predTag (pc : SlotAddr) : BitVec 9 := pc.extractLsb' 9 9

/-- The predictor entry of a branch, on a hit (06 R206). -/
def Core.predictor? (k : Core) (wi : Nat) (pc : SlotAddr) : Option Pred :=
  match FMap.get k.predictor (predKey wi pc) with
  | none => none
  | some e => if e.tag == predTag pc then some e else none

/-- The mask the last-mask buffer holds for a branch (06 R205). -/
def Warp.lastMaskOf (w : Warp) (pc : SlotAddr) : Option Mask := (w.lastMask.find? fun p => p.1 == pc).map (·.2)

/-- Set the last mask of a branch, as most recently used (06 R205, R207). -/
def Warp.setLastMask (w : Warp) (pc : SlotAddr) (m : Mask) : Warp :=
  { w with lastMask := ((pc, m) :: w.lastMask.filter fun p => p.1 != pc).take 8 }

/-- The predicted taken set of a branch (06 R206). -/
def Core.predict (k : Core) (w : Warp) (wi : Nat) (pc : SlotAddr) (m : Mask) : Option Mask :=
  match k.predictor? wi pc with
  | none => none
  | some e =>
    if e.conf < 2 then none
    else
      match e.kind with
      | 0 => some m
      | 1 => some 0
      | 2 => (w.lastMaskOf pc).map fun x => x &&& m
      | _ => none

/-- Whether an entry's kind matches a taken set (06 R207). -/
def Pred.matches (e : Pred) (last : Option Mask) (m x : Mask) : Bool :=
  match e.kind with
  | 0 => x == m
  | 1 => x == 0
  | 2 => match last with
    | some l => l &&& m == x
    | none => false
  | _ => false

/-- The kind a taken set shows (06 R207). -/
def observedKind (m x : Mask) : Nat := if x == m then 0 else if x == 0 then 1 else 2

/-- The predictor entry after a branch (06 R207). -/
def Pred.update (e : Option Pred) (last : Option Mask) (pc : SlotAddr) (hint : BitVec 2) (m x : Mask) : Pred :=
  let o := observedKind m x
  match e with
  | none => { tag := predTag pc, kind := o, conf := if hint == 1 then 2 else 1 }
  | some e =>
    if e.kind == 3 then (if 0 < e.conf then { e with conf := e.conf - 1 } else { e with kind := o, conf := 1 })
    else if e.matches last m x then { e with conf := Nat.min 3 (e.conf + 1) }
    else if 0 < e.conf then { e with conf := e.conf - 1 }
    else if e.kind == 2 && o == 2 then { e with kind := 3, conf := 3 }
    else { e with kind := o, conf := 1 }

/-- Train the predictor on a branch with its mask and taken set; the fragment that executed it was outside trap mode (06 R207). -/
def Core.train (k : Core) (wi : Nat) (pc : SlotAddr) (hint : BitVec 2) (m x : Mask) : Core :=
  match FMap.get k.warps wi with
  | none => k
  | some w =>
    if hint == 2 then k
    else
      { k with
        predictor := FMap.set k.predictor (predKey wi pc)
          (Pred.update (k.predictor? wi pc) (w.lastMaskOf pc) pc hint m x)
        warps := FMap.set k.warps wi (w.setLastMask pc x) }

/-- The lowest free speculation record (06 R208). -/
def Warp.freeSpec (w : Warp) : Option Nat := FMap.freeKey w.spec Config.specRecords

/-- The predicted split of a bra (06 R209): the issuing fragment's part, and the fall-through part where it divides. -/
def Iss.splitSpec (i : Iss) (p : Mask) (tgt rcv : SlotAddr) (g : Guard) (hint : BitVec 2) : Option Warp :=
  let m := i.f.mask
  let divides := p != 0 && p != m
  match i.w.meetAt i.f rcv m, i.w.freeSpec with
  | some (w, rec), some sr =>
    let free := w.freeEntries
    let used := if divides then 1 else 0
    if free.length < used + 2 then none
    else
      let level := i.f.lvl + 1
      let side (f : Frag) (target : Bool) : Frag :=
        { f with state := .speculative, lvl := level, rcd := some rec, sides := FMap.set f.sides sr target }
      let record : SpecRec :=
        { lvl := level, parent := i.w.innermost i.f, mask := m, pred := p, pc := i.f.pc, tgt := tgt
          fall := nextSlot i.f.pc, guardK := g.k.toNat, guardN := g.n, hint := hint, rcd := rec
          reserved := (free.drop used).take 2, shadows := [], kshadows := [], flags := [], lastReads := []
          atomics := [] }
      let w : Warp := { w with spec := FMap.set w.spec sr record }
      let stay : Frag := { i.f.finish with pc := if p == 0 then nextSlot i.f.pc else tgt
                                           mask := if divides then p else m }
      let w := w.setFrag i.fi (side stay (p != 0))
      match free, divides with
      | e :: _, true => some (w.setFrag e (side (i.f.fresh (m &&& ~~~p) (nextSlot i.f.pc) (some rec)) false))
      | _, _ => some w
  | _, _ => none

/-! Resolution. -/

/-- The fragments that descend from a record (06 R208). -/
def Warp.descended (w : Warp) (r : Nat) : List (Nat × Frag) := w.frags.filter fun p => FMap.has p.2.sides r

/-- The lanes on one side of a record. -/
def Warp.sideMask (w : Warp) (r : Nat) (target : Bool) : Mask :=
  (w.descended r).foldl (fun m p => if FMap.get p.2.sides r == some target then m ||| p.2.mask else m) 0

/-- The lanes for which a record's guard passes (06 R212). -/
def Warp.taken (w : Warp) (sr : SpecRec) : Mask :=
  let k := FMap.getD w.k sr.guardK 0
  if sr.guardN then ~~~k else k

/-- Whether a record may resolve: its parent has, and no write to its guard is outstanding (06 R211). -/
def Warp.canResolve (w : Warp) (sr : SpecRec) : Bool :=
  sr.parent.isNone && !(w.kpend.any fun p => p.k == sr.guardK && p.record.isNone)

/-- Squashed lanes leave a record below the one that resolves (06 R212, R223). -/
def SpecRec.squash (sr : SpecRec) (m : Mask) : SpecRec :=
  { sr with
    mask := sr.mask &&& ~~~m, pred := sr.pred &&& ~~~m
    shadows := FMap.mapV sr.shadows fun _ h => { h with written := h.written &&& ~~~m }
    kshadows := FMap.mapV sr.kshadows fun _ h => { h with written := h.written &&& ~~~m }
    flags := sr.flags.map fun p => (p.1 &&& ~~~m, p.2)
    lastReads := sr.lastReads.map fun p => (p.1, p.2 &&& ~~~m)
    atomics := sr.atomics.filter fun a => !m.getLsbD a.lane }

/-- Merge the shadows of a resolved record into the architectural registers for the lanes kept (06 R215 to R217). A name whose
register was freed meanwhile receives one again, with zeros in the other lanes.
(DEDUCED, notes/assumptions/47.md; DESIGN CHOICE, notes/assumptions/152.md.) -/
def Warp.mergeRec (w : Warp) (sr : SpecRec) : Warp :=
  let w : Warp := { w with
    v := sr.shadows.foldl (fun v p => FMap.set v p.1 ((FMap.getD v p.1 VReg.zero).write p.2.written p.2.val)) w.v
    k := sr.kshadows.foldl (fun k p =>
      FMap.set k p.1 ((FMap.getD k p.1 0 &&& ~~~p.2.written) ||| (p.2.bits &&& p.2.written))) w.k
    fflags := sr.flags.foldl (fun f p => if p.1 == 0 then f else f ||| p.2) w.fflags }
  { w with v := sr.lastReads.foldl (fun v p => FMap.modify v p.1 fun r => { r with dead := r.dead ||| p.2 }) w.v }

/-- A reconvergence record and those outside it, some levels far (05 R166). -/
def Warp.outward (w : Warp) : Nat → Option Nat → List Nat
  | 0, _ => []
  | _, none => []
  | n + 1, some j => j :: w.outward n ((FMap.get w.recs j).bind (·.outer))

/-- Squashed lanes leave the reconvergence records whose holders, of them or of a record inside, all descend from the resolved
one; they stay in the records that their replay will meet (06 R212). (DEDUCED, notes/assumptions/47.md.) -/
def Warp.squashRecs (w : Warp) (r keep : Nat) (m : Mask) : Warp :=
  let stays := w.outward Config.fragEntries (some keep)
  { w with recs := FMap.mapV w.recs fun j x =>
      let holders := w.frags.filter fun p => (w.outward Config.fragEntries p.2.rcd).contains j
      if !stays.contains j && !holders.isEmpty && holders.all (fun p => FMap.has p.2.sides r) then
        { x with expect := x.expect &&& ~~~m, arrive := x.arrive &&& ~~~m }
      else x }

/-- A fragment that descends from a resolved record: its squashed lanes leave and it drops a level (06 R212). -/
def Frag.resolved (f : Frag) (r : Nat) (m : Mask) : Frag :=
  if !FMap.has f.sides r then f
  else
    let lvl := f.lvl - 1
    let f := { f with mask := f.mask &&& ~~~m, pend := f.pend &&& ~~~m, lvl := lvl, sides := FMap.erase f.sides r }
    if lvl == 0 then { f with state := .ready, deferred := false } else f

/-- The writes still outstanding on the registers of a resolved record and of those below it: they are dropped for squashed lanes,
and those of the record land in the architectural registers, whose lanes are no longer dead (20 R501, 05 R176). -/
def Warp.redirect (w : Warp) (r : Nat) (below : List Nat) (sq : Mask) : Warp :=
  let part (record : Option Nat) (m : Mask) : Option Nat × Mask :=
    match record with
    | none => (none, m)
    | some j =>
      if j == r then (none, m &&& ~~~sq) else if below.contains j then (some j, m &&& ~~~sq) else (some j, m)
  let moved := w.vpend.filter fun p => p.record == some r
  { w with
    kpend := (w.kpend.map fun p => { p with record := (part p.record p.lanes).1, lanes := (part p.record p.lanes).2 }).filter
      fun p => p.lanes != 0
    vpend := (w.vpend.map fun p => { p with record := (part p.record p.lanes).1, lanes := (part p.record p.lanes).2 }).filter
      fun p => p.lanes != 0
    v := moved.foldl (fun v p => FMap.modify v p.name fun q => { q with dead := q.dead &&& ~~~(p.lanes &&& ~~~sq) }) w.v }

/-- The warp after a record resolves, but for its queue (06 R212 to R217, 20 R501, R502). -/
def Warp.resolve (w : Warp) (r : Nat) (sr : SpecRec) : Warp :=
  let a := w.taken sr
  let wt := w.sideMask r true &&& ~~~a
  let wn := w.sideMask r false &&& a
  let sq := wt ||| wn
  let below := (w.spec.filter fun p => p.1 != r && p.2.parent == some r).map (·.1)
  let lost := (r :: below).flatMap fun j => (((FMap.get w.spec j).map (·.atomics)).getD []).filter fun c => sq.getLsbD c.lane
  let base := (w.descended r).head?.map (·.2)
  let w := w.squashRecs r sr.rcd sq
  let w : Warp := { w with frags := FMap.keep (FMap.mapV w.frags fun _ f => f.resolved r sq) fun _ f => f.mask != 0 }
  let w := w.mergeRec (sr.squash sq)
  let w : Warp := { w with
    comps := w.comps ++ lost
    spec := FMap.mapV (FMap.erase w.spec r) fun _ q =>
      if q.parent == some r then { q.squash sq with parent := none, lvl := q.lvl - 1 } else q }
  let w := w.redirect r below sq
  let replay (m : Mask) (pc : SlotAddr) (entry : Option Nat) (w : Warp) : Warp :=
    match base, entry with
    | some f, some e =>
      if m == 0 then w
      else w.setFrag e { f.fresh m pc (some sr.rcd) with lvl := 0, rpl := true, sides := [], held := w.trap.mode }
    | _, _ => w
  let w := replay wn sr.tgt sr.reserved.head? w
  let w := replay wt sr.fall (if wn == 0 then sr.reserved.head? else sr.reserved[1]?) w
  let w : Warp := { w with frags := FMap.mapV w.frags fun _ f => if w.trap.mode && !f.trm then { f with held := true } else f }
  let holders := w.frags.filter fun p => p.2.rcd == some sr.rcd
  let w : Warp := match holders, FMap.get w.recs sr.rcd with
    | [(j, f)], some x =>
      if subMask (x.expect &&& w.live) f.mask && f.state != .waiting then
        ({ w with recs := FMap.erase w.recs sr.rcd }).setFrag j { f with rcd := x.outer }
      else w
    | _, _ => w
  (w.freeDead.completeRecs).wakeCollectives

/-- Perform one lane of a queued write (06 R221): the D bits are set first, an atomic's value goes to its register.
(DEDUCED, notes/assumptions/46.md.) -/
def State.performQueued (s : State) (c w : Nat) (e : SQEntry) (l : QLane) : State :=
  let s := s.applyQuanta c w fun q => q.loc.overlaps q.bytes l.loc e.bytes
  let s := s.setDirty l.dirty
  match e.atomic with
  | none => s.locWrite c l.loc e.bytes l.data
  | some (aop, sx, d) =>
    let old := s.locRead c l.loc e.bytes
    let s := s.atomAt c l.loc e.bytes aop sx l.data l.data2
    match d with
    | .v n =>
      s.modWarp c w fun x => { x with
        v := (List.range (regsFor e.bytes)).foldl (fun v j =>
          FMap.set v (n.toNat + j) ((FMap.getD v (n.toNat + j) VReg.zero).write (1#96 <<< l.lane)
            (Lanes.splat (BitVec.ofNat 32 (old / 2 ^ (32 * j)))))) x.v }
    | _ => s

/-- Perform the queued writes of the lanes of a warp whose fragments have reached level 0, in order; those of lanes that still
speculate stay (06 R221).
(DEDUCED, notes/assumptions/46.md.) -/
def State.drainQueue (s : State) (c w : Nat) : State :=
  match s.warp c w with
  | none => s
  | some x =>
    let spec := x.frags.foldl (fun m p => if p.2.isSpec then m ||| p.2.mask else m) (0 : Mask)
    let ready (e : SQEntry) (l : QLane) : Bool := e.warp == w && e.record.isNone && !spec.getLsbD l.lane
    let q := FMap.getD (s.core c).storeQ (w % 4) []
    let stay := (q.map fun e => { e with lanes := e.lanes.filter fun l => !ready e l }).filter fun e => !e.lanes.isEmpty
    let s := s.modCore c fun k => { k with storeQ := FMap.set k.storeQ (w % 4) stay }
    q.foldl (fun s e => (e.lanes.filter (ready e)).foldl (fun s l => (s.performQueued c w e l).noticed) s) s

/-- Squashed lanes leave the queue (06 R221, R223). -/
def SQEntry.resolved (e : SQEntry) (w r : Nat) (below : List Nat) (sq : Mask) : SQEntry :=
  if e.warp != w then e
  else
    match e.record with
    | none => e
    | some j =>
      if j == r then { e with record := none, lanes := e.lanes.filter fun l => !sq.getLsbD l.lane }
      else if below.contains j then { e with lanes := e.lanes.filter fun l => !sq.getLsbD l.lane }
      else e

/-- Resolve a record of a warp: its merges, its queued writes and its compensations (06 R211 to R217, R221, R223, R227). -/
def State.resolveRec (s : State) (c w r : Nat) : State :=
  match s.warp c w with
  | none => s
  | some x =>
    match FMap.get x.spec r with
    | none => s
    | some sr =>
      if !x.canResolve sr then s
      else
        let a := x.taken sr
        let held := x.sideMask r true ||| x.sideMask r false
        let sq := (x.sideMask r true &&& ~~~a) ||| (x.sideMask r false &&& a)
        let below := (x.spec.filter fun p => p.1 != r && p.2.parent == some r).map (·.1)
        let s := s.modCore c fun k =>
          let k := (k.setWarp w (x.resolve r sr)).train w sr.pc sr.hint held (a &&& held)
          { k with
            events := { k.events with
              mphit := k.events.mphit + (if sq == 0 then 1 else 0)
              mpsq := k.events.mpsq + (if sq == 0 then 0 else 1)
              mprln := k.events.mprln + countLanes sq }
            storeQ := FMap.mapV k.storeQ fun _ q =>
              (q.map fun e => e.resolved w r below sq).filter fun e => !e.lanes.isEmpty }
        (s.drainQueue c w).payComps c w

/-- SPECULATION_RESOLUTION (06 R212): a record of a warp resolves. -/
def execSpeculationResolution (core warp record : Nat) (s : State) : Answer State :=
  .next (s.clocked core (s.resolveRec core warp record))

end Sys2Proof.Machine
end

