-- ==== Sys2Proof/Machine/Control.lean ====
section
/-!
DEFINITION. The control instructions of class 4 (11 R331 to R346): branches, calls, exit, barriers, waits, hints and traps.
-/
namespace Sys2Proof.Machine

/-- A slot address relative to the instruction's own (07 R229). -/
def Iss.rel (i : Iss) (x : BitVec 24) : SlotAddr := i.f.pc + x.signExtend 54

/-- Whether control may go to a slot address now; none where its line cannot be fetched yet (07 R232). -/
def State.target (s : State) (i : Iss) (p : SlotAddr) : Option Bool := s.targetOk i.c i.ctx i.f.priv p

/-- A fragment sent to a slot address; where its line could not be fetched the failure is reported there, and the target is
checked when it can be (07 R229, R232). -/
def Frag.send (f : Frag) (p : SlotAddr) (late : Bool) : Frag :=
  { f.finish with pc := p, entry := if late then some f.pc else none
                  notes := if late then f.notes.filter fun n => n.acc == .fetch else [] }

/-- The ILLEGAL_TARGET trap of the instruction (07 R249). -/
def Iss.badTarget (i : Iss) (p : SlotAddr) : TrapReq :=
  i.trapReq Cause.illegalTarget 0 i.f.mask (p.extractLsb' 0 32) ((p.extractLsb' 32 22).setWidth 32)

/-- Move the whole issuing fragment to a slot address (07 R232). (DEDUCED, notes/assumptions/14.md.) -/
def State.jump (s : State) (i : Iss) (p : SlotAddr) : State :=
  s.toward i p (fun s => s.raise i (i.badTarget p)) fun g j s => s.modFrag j.c j.wi j.fi fun f => f.send p g.late

/-- Train the predictor on a branch that was not predicted, by a fragment outside trap mode (06 R207). -/
def State.trainNow (s : State) (i : Iss) (hint : BitVec 2) (x : Mask) : State :=
  if i.f.trm then s else s.modCore i.c fun k => k.train i.wi i.f.pc hint i.f.mask x

/-- The divergent split of a bra with its taken lanes (05 R167); none where it stalls for want of an entry or a record. -/
def Iss.split (i : Iss) (w : Warp) (tgt rcv : SlotAddr) (late : Bool) (t : Mask) : Option Warp :=
  match w.meetAt i.f rcv i.f.mask, w.freeEntry with
  | some (w, r), some e =>
    let rest : Frag := { i.f.fresh (i.f.mask &&& ~~~t) (nextSlot i.f.pc) (some r) with state := i.f.state }
    some ((w.setFrag e rest).setFrag i.fi { i.f.send tgt late with mask := t, rcd := some r })
  | _, _ => none

/-- A bra that is not predicted, with its taken lanes (05 R167, 11 R333, 06 R210): its target is checked when a lane takes it,
RCV when it divides the fragment. (DEDUCED, notes/assumptions/15.md.) -/
def State.branch (s : State) (i : Iss) (tgt rcv : SlotAddr) (hint : BitVec 2) (t : Mask) : State :=
  if t == 0 then (s.trainNow i hint t).modFrag i.c i.wi i.fi Frag.finish
  else s.toward i tgt (fun s => s.raise i (i.badTarget tgt)) fun g i s =>
    if t == i.f.mask then (s.trainNow i hint t).modFrag i.c i.wi i.fi fun f => f.send tgt g.late
    else s.toward i rcv (fun s => s.raise i (i.badTarget rcv)) fun _ i s =>
      let s1 := s.trainNow i hint t
      match i.split ((s1.warp i.c i.wi).getD i.w) tgt rcv g.late t with
      | some w => s1.setWarp i.c i.wi w
      | none => s

/-- The predicted split of a bra whose slots are marked, where the predictor, the records and the entries let it be predicted
(06 R202, R206, R209). -/
def State.predicted (s : State) (i : Iss) (f : BForm) (tgt rcv : SlotAddr) : Option State :=
  let hint := f.hint.extractLsb' 0 2
  match i.core.predict i.w i.wi i.f.pc i.f.mask with
  | none => none
  | some p =>
    (i.splitSpec p tgt rcv f.guard hint).map fun w =>
      let w := if (i.core.predictor? i.wi i.f.pc).any fun e => e.kind == 2 then
          w.setLastMask i.f.pc ((w.lastMaskOf i.f.pc).getD 0)
        else w
      s.modCore i.c fun k => { (k.setWarp i.wi w) with events := { k.events with mpred := k.events.mpred + 1 } }

/-- Whether the fragment and its guard let a bra be predicted: every outstanding write of the guard comes from an earlier
instruction of the fragment's own lanes (06 R202). -/
def State.mayPredict (s : State) (i : Iss) (f : BForm) : Bool :=
  let own := (i.w.kpend.filter fun p => p.k == f.guard.k.toNat).all fun p => p.frag == i.fi && subMask i.f.mask p.owner
  own && (s.part (ctxPart i.ctx)).featack.getLsbD 0 && f.hint.extractLsb' 0 2 != 2 && !i.f.trm && decide (i.f.lvl ≤ 1)

/-- A bra whose guard has a write outstanding: predicted where 06 R202 allows it, else it waits for the guard (11 R333). -/
def State.awaitGuard (s : State) (i : Iss) (f : BForm) (tgt rcv : SlotAddr) : State :=
  if !s.mayPredict i f then s
  else s.toward i tgt id fun g i s =>
    if g.late then s
    else s.toward i rcv id fun g i s => if g.late then s else (s.predicted i f tgt rcv).getD s

/-- bra (11 R333): lanes that pass the guard go to the target; predicted under 06 R202. -/
def execBra (f : BForm) (s : State) : Answer State :=
  .next (s.onIss fun i =>
    let tgt := i.rel f.tgt
    let rcv := i.rel f.rcv
    let hint := f.hint.extractLsb' 0 2
    if !f.guard.e then s.branch i tgt rcv hint i.f.mask
    else if decide (4 < (rcv.extractLsb' 0 3).toNat) then s.raise i (i.badTarget rcv)
    else if i.blocked f.guard [] then s.awaitGuard i f tgt rcv
    else s.branch i tgt rcv hint (i.f.mask &&& i.guardMask f.guard))

/-- brs (11 R334): the whole fragment goes to the target, on a condition of SFLAGS or of the guard. -/
def execBrs (f : BForm) (s : State) : Answer State :=
  .next (s.onIss fun i =>
    if i.spec || i.blocked f.guard [] then s
    else if brsTaken f.cond.toNat i.w.sflags i.f.mask (i.guardMask f.guard) then s.jump i (i.rel f.tgt)
    else s.modFrag i.c i.wi i.fi Frag.finish)

/-- Go to a slot address held in a register, whose upper bits must be zero (11 R335). -/
def State.jumpReg (s : State) (i : Iss) (v : Dword) : State :=
  if v.extractLsb' 54 10 != 0 then s.raise i (i.badTarget (v.setWidth 54))
  else s.jump i (v.setWidth 54)

/-- jmp (11 R335): the fragment goes to the slot address in A. -/
def execJmp (f : RForm) (s : State) : Answer State :=
  .next (s.onIss fun i => if i.spec then s else s.jumpReg i (i.s64 f.a 0))

/-- call (11 R335): D := the next slot address; the fragment goes to the target. -/
def execCall (f : BForm) (s : State) : Answer State :=
  .next (s.onIss fun i =>
    let p := i.rel f.tgt
    if i.spec then s
    else s.toward i p (fun s => s.raise i (i.badTarget p)) fun g i s =>
      let back : Dword := (nextSlot i.f.pc).setWidth 64
      let there := i.f.send p g.late
      let e := match f.d with
        | .v _ => i.putLanes2 true f.d i.f.mask (Lanes.splat (back.extractLsb' 0 32)) (Lanes.splat (back.extractLsb' 32 32)) i.begin
        | d => i.put64 d back i.begin
      match e with
      | .ok k => s.setCore i.c (i.onWarp k fun w => w.modFrag i.fi fun q =>
          { q with pc := p, entry := there.entry, notes := there.notes })
      | .stay _ => s
      | .trap t => s.raise i t)

/-- ret (11 R335): the fragment goes to the slot address in A, which must be one for all its lanes. -/
def execRet (f : RForm) (s : State) : Answer State :=
  .next (s.onIss fun i =>
    if i.spec then s
    else
      match f.a with
      | .v _ =>
        let a := i.src true f.a 0
        let v := a ((lowLane i.f.mask).getD 0)
        if (lanesOf i.f.mask).any fun l => a l != v then
          s.raise i (i.trapReq Cause.illegalConvergence 4 i.f.mask 0 0)
        else if v.extractLsb' 54 10 != 0 then s.raise i (i.badTarget (v.setWidth 54))
        else s.toward i (v.setWidth 54) (fun s => s.raise i (i.badTarget (v.setWidth 54))) fun g i s =>
          (s.setCore i.c (i.lastReads f.lr [(f.a, 2)] i.f.mask i.core)).modFrag i.c i.wi i.fi fun q =>
            q.send (v.setWidth 54) g.late
      | _ => s.jumpReg i (i.s64 f.a 0))

/-- The groups of lanes with equal targets, by lowest lane (11 R336). -/
def brxGroups (m : Mask) (a : Nat → Dword) : List (SlotAddr × Mask) :=
  (lanesOf m).foldl (fun (l : List (SlotAddr × Mask)) lane =>
    let p : SlotAddr := (a lane).setWidth 54
    let b : Mask := 1#96 <<< lane
    if l.any fun g => g.1 == p then l.map fun g => if g.1 == p then (g.1, g.2 ||| b) else g
    else l ++ [(p, b)]) []

/-- Place groups in free entries while there are any: the warp, and the lanes left over (11 R336).
(DEDUCED, notes/assumptions/43.md, 15.md) -/
def Warp.placeGroups (w : Warp) (f : Frag) (r : Nat) (late : SlotAddr → Bool) : List (SlotAddr × Mask) → Warp × Mask
  | [] => (w, 0)
  | g :: rest =>
    match w.freeEntry with
    | none => (w, (g :: rest).foldl (fun m x => m ||| x.2) 0)
    | some e =>
      let there := f.send g.1 (late g.1)
      (w.setFrag e { f.fresh g.2 g.1 (some r) with entry := there.entry, notes := there.notes }).placeGroups f r late rest

/-- Judge the slots that the groups of a brx go to (07 R232, 11 R336). -/
def State.judgeAll (s : State) (i : Iss) : List SlotAddr → List (SlotAddr × Goal) × State
  | [] => ([], s)
  | p :: r =>
    let a := s.judge i i.f.priv p
    let b := a.2.judgeAll i r
    ((p, a.1) :: b.1, b.2)

/-- A brx whose targets are all judged good: its groups part under one record (11 R336). (DEDUCED, notes/assumptions/43.md.) -/
def State.partGroups (s : State) (i : Iss) (f : RForm) (late : SlotAddr → Bool) (groups : List (SlotAddr × Mask)) : State :=
  match groups with
  | [] => s
  | [g] =>
    (s.setCore i.c (i.lastReads f.lr [(f.a, 2)] i.f.mask i.core)).modFrag i.c i.wi i.fi fun q => q.send g.1 (late g.1)
  | g :: rest =>
    match i.w.meetAt i.f (i.rel f.ext) i.f.mask with
    | none => s
    | some (w, r) =>
      let placed := w.placeGroups i.f r late rest
      let left := g.2 ||| placed.2
      let self : Frag := if placed.2 == 0 then { i.f.send g.1 (late g.1) with mask := left, rcd := some r }
        else { i.f with mask := left, rcd := some r, age := 0 }
      let k := i.core.setWarp i.wi (placed.1.setFrag i.fi self)
      s.setCore i.c (i.lastReads f.lr [(f.a, 2)] (if placed.2 == 0 then i.f.mask else i.f.mask &&& ~~~left) k)

/-- brx (11 R336): an indirect branch for each lane. (DEDUCED, notes/assumptions/43.md.) -/
def execBrx (f : RForm) (s : State) : Answer State :=
  .next (s.onIss fun i =>
    if i.spec then s
    else
      match f.a with
      | .v _ =>
        let a := i.src true f.a 0
        let groups := brxGroups i.f.mask a
        let r := s.judgeAll i (groups.map (·.1))
        if r.1.any fun g => g.2 == .walking then r.2
        else
          let is (t : Goal → Bool) (p : SlotAddr) : Bool := r.1.any fun g => g.1 == p && t g.2
          match (lanesOf i.f.mask).find? fun l =>
            (a l).extractLsb' 54 10 != 0 || is (fun g => g == .judged false) ((a l).setWidth 54) with
          | some l => s.raise i (i.badTarget ((a l).setWidth 54))
          | none => r.2.onIss fun j => r.2.partGroups j f (is Goal.late) groups
      | _ => s.jumpReg i (i.s64 f.a 0))

/-- The trap of an instruction that trap mode does not allow (11 R338). -/
def Iss.trapMode (i : Iss) : TrapReq := i.trapReq Cause.illegalConvergence 5 i.f.mask 0 0

/-- exit (11 R337, 05 R195): the active lanes leave the live mask. -/
def execExit (f : RForm) (s : State) : Answer State :=
  .next (s.onIss fun i =>
    if i.spec || i.blocked f.guard [] then s
    else if i.w.trap.mode then s.raise i i.trapMode
    else
      let m := i.active f.guard
      match if i.w.live &&& ~~~m == 0 then i.quantumLock fun _ => true else none with
      | some bank => s.lockWait i bank
      | none =>
        let s := s.modFrag i.c i.wi i.fi Frag.finish
        if m == 0 then s else s.exitLanes i.c i.wi m)

/-- The barrier an instruction names (11 R339). -/
def barOf (f : RForm) : Nat := (f.ext.extractLsb' 0 4).toNat

/-- Arrive at a barrier (11 R340, R341): a release at .wg, then the arrival; lanes that have already arrived in the phase
wait for its end and issue the instruction again. -/
def State.arrive (s : State) (i : Iss) (b : Nat) (after : Frag → Frag) : State :=
  let bar := (i.wg.map fun g => g.bar b).getD { phase := 0, arr := [], mask := [] }
  if FMap.getD bar.mask i.w.index 0 &&& i.f.mask != 0 then s.keepWaiting i (.barAgain b)
  else
    s.releasing i (some 1) fun s =>
      let s := s.modFrag i.c i.wi i.fi after
      s.modCore i.c fun k =>
        (k.modWg i.w.wg fun g => { g with bars := FMap.set g.bars b (bar.join i.w.index i.f.mask i.w.live) }).checkBar
          i.w.wg b

/-- bar (11 R341): arrives, and waits for the phase to complete. -/
def execBar (f : RForm) (s : State) : Answer State :=
  .next (s.onIss fun i =>
    if i.spec then s
    else if i.w.trap.mode then s.raise i i.trapMode
    else s.arrive i (barOf f) fun g => { g with state := .waiting, wait := .bar (barOf f), age := 0 })

/-- barr (11 R341): arrives, and goes on. (DEDUCED, notes/assumptions/42.md.) -/
def execBarr (f : RForm) (s : State) : Answer State :=
  .next (s.onIss fun i =>
    if i.spec then s
    else if i.w.trap.mode then s.raise i i.trapMode
    else s.arrive i (barOf f) Frag.finish)

/-- barw (11 R341): waits until the phase in which the warp last arrived has completed. (DEDUCED, notes/assumptions/42.md.) -/
def execBarw (f : RForm) (s : State) : Answer State :=
  .next (s.onIss fun i =>
    if i.spec then s
    else if i.w.trap.mode then s.raise i i.trapMode
    else
      let pending := (i.wg.map fun g => FMap.getD (g.bar (barOf f)).mask i.w.index 0 != 0).getD false
      if pending then s.keepWaiting i (.barw (barOf f)) else s.modFrag i.c i.wi i.fi Frag.finish)

/-- The value of a class counter and the operations issued in the class (04 R153). -/
def Counters.ofClass (c : Counters) (cls : Nat) : Nat × Nat :=
  match cls with
  | 0 => (c.cp, c.cpIssued)
  | 1 => (c.st, c.stIssued)
  | _ => (c.rm, c.rmIssued)

/-- The failures that a wcnt covers, oldest first: those of its class older than the n most recent (04 R153, 11 R342). -/
def Warp.covered (w : Warp) (cls n : Nat) : List EngineFail :=
  w.fails.filter fun f => f.cls == cls && decide (f.seq + n < (w.counters.ofClass cls).2)

/-- The trap that a failed engine operation gives at a wcnt (11 R342, 12 R377, R378). -/
def Iss.engineTrap (i : Iss) (f : EngineFail) : TrapReq :=
  if f.status == 1 then
    { (i.trapReq Cause.folioLost 2 i.f.mask f.info0 f.info1) with
      folio := some (((i.core.liveFolio i.ctx f.info0).map (·.2.handler)).getD 0) }
  else i.trapReq Cause.engineFault (if f.status == 2 then 2 else BitVec.ofNat 8 (f.status - 1)) i.f.mask f.info0 f.info1

/-- Examine the failures a wcnt covers (11 R342, 02 R83): the oldest traps and is consumed; in a fragment in trap mode a LOST one
is consumed without a trap. A HELD fragment's trap is only recorded, so it consumes nothing (05 R186 to R188). -/
def State.examine (s : State) (i : Iss) (l : List EngineFail) : State :=
  let consume (x : List EngineFail) : State := s.modWarp i.c i.wi fun w => { w with fails := w.fails.filter fun f => !x.contains f }
  let lost := if i.f.trm then l.takeWhile fun f => f.status == 1 else []
  match l.drop lost.length with
  | [] => (consume lost).modFrag i.c i.wi i.fi Frag.endWait
  | f :: _ => (if i.f.held then s else consume (lost ++ [f])).raise i (i.engineTrap f)

/-- Try a wcnt (11 R342). -/
def State.tryCount (s : State) (i : Iss) (cls n : Nat) : State :=
  if n < (i.w.counters.ofClass cls).1 then s.keepWaiting i (.wcnt cls n)
  else s.examine i (i.w.covered cls n)

/-- wcnt (11 R342): waits until the class counter is at most n, then examines the operations it covers. -/
def execWcnt (f : RForm) (s : State) : Answer State :=
  .next (s.onIss fun i =>
    if i.spec then s else s.tryCount i (f.ext.extractLsb' 0 2).toNat (f.ext.extractLsb' 2 6).toNat)

/-- sleep (11 R343): waits until REFTIME has advanced by B nanoseconds. -/
def execSleep (f : RForm) (s : State) : Answer State :=
  .next (s.onIss fun i =>
    let n := (i.s32 f.b (f.ext.setWidth 32)).toNat
    if i.spec then s
    else if n == 0 then s.modFrag i.c i.wi i.fi Frag.finish
    else s.keepWaiting i (.sleep (s.refTime + n)))

/-- yield (11 R343): restarts the fragment's age. -/
def execYield (_f : RForm) (s : State) : Answer State :=
  .next (s.onIss fun i => if i.spec then s else s.modFrag i.c i.wi i.fi Frag.finish)

/-- pfi (11 R343): a hint with no architectural effect, of which this device drops every line.
(DEDUCED, notes/assumptions/34.md.) -/
def execPfi (_f : BForm) (s : State) : Answer State :=
  .next (s.onIss fun i => s.modFrag i.c i.wi i.fi Frag.finish)

/-- nop (07 R228): nothing but the advance to the next slot. -/
def execNop (_f : RForm) (s : State) : Answer State :=
  .next (s.onIss fun i => s.modFrag i.c i.wi i.fi Frag.finish)

/-- The handler above the running one (11 R345). (DEDUCED, notes/assumptions/48.md.) -/
def nextHandler (h : Handler) (kernel supervisor : SlotAddr) : Option (Handler × SlotAddr) :=
  let sup := if supervisor == 0 then none else some (Handler.supervisor, supervisor)
  match h with
  | .folio => if kernel == 0 then sup else some (.kernel, kernel)
  | .kernel => sup
  | .supervisor => none

/-- Hand the running handler on to the next one up (11 R345). (DEDUCED, notes/assumptions/48.md.) -/
def State.escalate (s : State) (i : Iss) (code : Word) : State :=
  match i.wg with
  | none => s
  | some g =>
    let sup := ((FMap.get s.ctxs g.ctx).map (·.suph)).getD 0
    match nextHandler i.w.trap.handler g.handler sup with
    | none => s.doubleTrap i.c i.wi Cause.software i.f.pc
    | some (h, addr) =>
      let level := if h == .supervisor then Nat.max 1 i.f.priv else i.f.priv
      match s.judge i level addr with
      | (.judged false, _) => s.doubleTrap i.c i.wi Cause.illegalTarget i.f.pc
      | (.walking, t) => t
      | (g, t) =>
        t.modWarp i.c i.wi fun w => { (w.modFrag i.fi fun f => { f.send addr g.late with priv := level }) with
          trap := { w.trap with
            handler := h, cause := Cause.software, sub := 1
            info1 := (code <<< 16) ||| (w.trap.sub ++ w.trap.cause).setWidth 32 } }

/-- The code of a trap or brk (11 R344, R346). -/
def codeOf (f : RForm) : Word := (f.ext.extractLsb' 0 16).setWidth 32

/-- trap (11 R344, R345): a SOFTWARE trap for the lanes that pass, or the hand-over to the next handler in trap mode. -/
def execTrap (f : RForm) (s : State) : Answer State :=
  .next (s.onIss fun i =>
    let m := i.f.mask &&& i.guardMask f.guard
    if i.spec || i.blocked f.guard [(f.a, 1)] then s
    else if m == 0 then s.modFrag i.c i.wi i.fi Frag.finish
    else if i.w.trap.mode then s.escalate i (codeOf f)
    else s.raise i { (i.trapReq Cause.software 0 m (codeOf f) (i.s32 f.a 0)) with pc := nextSlot i.f.pc })

/-- brk (11 R346): a BREAKPOINT trap at the brk itself. -/
def execBrk (f : RForm) (s : State) : Answer State :=
  .next (s.onIss fun i =>
    if i.spec then s else s.raise i (i.trapReq Cause.breakpoint 0 i.f.mask (codeOf f) 0))

end Sys2Proof.Machine
end

