-- ==== Sys2Proof/Machine/CrossLane.lean ====
section
/-!
DEFINITION. The cross-lane and predicate instructions of class 5 (11 R332, R347 to R352), and when a collective is
performed (05 R190 to R192, R197, R198).
-/
namespace Sys2Proof.Machine

/-- The guard of an instruction without one. -/
def noGuard : Guard := { k := 0, n := false, e := false }

/-- The trap of a collective that other fragments keep from being performed (05 R191). -/
def Iss.notWhole (i : Iss) : TrapReq :=
  i.trapReq Cause.illegalConvergence 1 i.f.mask (BitVec.ofNat 32 i.w.frags.length) 0

/-- A collective (05 R190 to R192): performed by a fragment that holds every live lane; otherwise it waits for parked and
replay fragments to fuse with it, and traps where there are others. -/
def Iss.collective (i : Iss) (ops : List (Operand × Nat)) (act : Core → Eff) : Eff :=
  if i.spec || i.blocked noGuard ops then .stay i.core
  else if i.f.mask == i.w.live then act i.begin
  else if i.w.frags.all fun p => p.1 == i.fi || p.2.state == .parked || p.2.rpl then
    .stay (i.core.setWarp i.wi (i.w.setFrag i.fi { i.f with state := .waiting, wait := .collective, age := 0 }))
  else .trap i.notWhole

/-- The segment length of a shfl (11 R347). -/
def segLen (code : Nat) : Nat :=
  match code with
  | 0 => 96
  | 1 => 32
  | 2 => 16
  | 3 => 8
  | 4 => 4
  | _ => 2

/-- The source lane of a shfl (11 R347). -/
def shflLane (mode s l b : Nat) : Nat :=
  let base := l - l % s
  let j := l % s
  base + match mode with
    | 0 => b % s
    | 1 => if b ≤ j then j - b else j
    | 2 => if j + b < s then j + b else j
    | _ => if j ^^^ b < s then j ^^^ b else j

/-- shfl (11 R347): D := A of another live lane's place in the segment. -/
def execShfl (f : RForm) (s : State) : Answer State :=
  .next (s.onCore fun i =>
    let w := f.ty.is64
    let ops := [(f.a, regsOf w), (f.b, 1)]
    i.collective ops fun k =>
      let a := i.src w f.a 0
      let b := i.src false f.b (imm24 f.ext)
      let c := f.c.code.toNat
      i.putSrc w f.d i.w.live (fun l => a (shflLane (c % 4) (segLen (c / 4 % 8)) l (b l).toNat))
        (i.lastReads f.lr ops i.w.live k))

/-- The bits of a k operand. -/
def Iss.kBits (i : Iss) (o : Operand) : Mask :=
  match o with
  | .k n => i.w.readK i.f n.toNat
  | _ => 0

/-- The result of a vote over the live lanes (11 R348). -/
def voteOf (mode : Nat) (k live : Mask) : Bool :=
  match mode with
  | 0 => k &&& live != 0
  | 1 => k &&& live == live
  | _ => k &&& live == 0 || k &&& live == live

/-- vote (11 R348): D := one bit over the live lanes' bits of A; Z tells that it is 0. -/
def execVote (f : RForm) (s : State) : Answer State :=
  .next (s.onCore fun i =>
    i.collective [(f.a, 1), (f.d, 1)] fun k =>
      let r := voteOf (f.c.code.toNat % 4) (i.kBits f.a) i.w.live
      let k := i.onWarp k fun w => { w with sflags := setZ w.sflags !r }
      match f.d with
      | .k n => i.putK n.toNat (~~~(0 : Mask)) (if r then i.w.live else 0) true k
      | d => i.put32 d (if r then 1 else 0) k)

/-- Write a mask to three s registers (11 R349, R352). -/
def Iss.putPlanes (i : Iss) (d : Operand) (m : Mask) (k : Core) : Eff :=
  match d with
  | .s n => i.putS ((List.range 3).map fun j => (n.toNat + j, maskWord m j)) k
  | _ => .ok k

/-- bal (11 R349): D := a bit of A in each live lane. -/
def execBal (f : RForm) (s : State) : Answer State :=
  .next (s.onCore fun i =>
    let ops := [(f.a, 1), (f.b, 1)]
    i.collective (ops ++ [(f.d, 1)]) fun k =>
      let a := i.src false f.a 0
      let b := (i.scalarSrc false f.b (imm24 f.ext)).toNat % 32
      let m := maskOf fun l => i.w.live.getLsbD l && (a l).getLsbD b
      let k := i.lastReads f.lr ops i.w.live k
      match f.d with
      | .k n => i.putK n.toNat (~~~(0 : Mask)) m true k
      | d => i.putPlanes d m k)

/-- The identity of a reduction (05 R197), as bits of its type. -/
def reduceIdentity (op : Nat) (t : Ty) : Nat :=
  let w := 2 ^ t.width
  match op with
  | 1 => w - 1
  | 4 => (t.greatest % (w : Nat)).toNat
  | 5 => (t.least % (w : Nat)).toNat
  | 7 => (FloatFmt.of t).inf false
  | 8 => (FloatFmt.of t).inf true
  | _ => 0

/-- The least or greatest number of a set of float values (09 R296). -/
def reduceMinMax (f : FloatFmt) (wantMax : Bool) (l : List Nat) : FRes :=
  let fl := if l.any fun x => (f.value x).isSnan then flagIV else 0
  match l.filter fun x => !(f.value x).isNan with
  | [] => { bits := f.nan, flags := fl }
  | x :: r => { bits := r.foldl (fun a b => (f.minMax wantMax a b).bits) x, flags := fl }

/-- The combination of the selected values (11 R350): its bits and flags. -/
def reduceOf (op : Nat) (t : Ty) (sat : Bool) (rnd : Nat) (l : List Nat) : FRes :=
  let bitsOf (x : Int) : FRes := { bits := (x % (2 ^ t.width : Nat)).toNat, flags := 0 }
  let f := FloatFmt.of t
  let vals := l.map t.val
  if l.isEmpty then { bits := reduceIdentity op t, flags := 0 }
  else
    match op with
    | 0 => bitsOf (t.result sat (vals.foldl (· + ·) 0))
    | 1 => { bits := l.foldl (fun a b => a &&& t.low b) (2 ^ t.width - 1), flags := 0 }
    | 2 => { bits := l.foldl (fun a b => a ||| t.low b) 0, flags := 0 }
    | 3 => { bits := l.foldl (fun a b => a ^^^ t.low b) 0, flags := 0 }
    | 4 => bitsOf (vals.foldl min t.greatest)
    | 5 => bitsOf (vals.foldl max t.least)
    | 6 =>
      let v := l.map fun x => f.value (t.low x)
      let opposed := v.any (fun x => x == .inf false) && v.any fun x => x == .inf true
      if opposed then f.invalid else if v.any FVal.isNan then f.nanOf v else f.sum rnd v
    | 7 => reduceMinMax f false (l.map t.low)
    | _ => reduceMinMax f true (l.map t.low)

/-- The lanes a redux or scan selects (11 R350): bit 5 of EXT24 is ALL. -/
def Iss.selected (i : Iss) (f : RForm) : Mask :=
  if f.ext.getLsbD 5 then i.w.live else i.w.live &&& i.kBits f.c

/-- The op of a redux or scan. -/
def reduceOp (f : RForm) : Nat := (f.ext.extractLsb' 0 4).toNat

/-- Set E, and OR flags into FFLAGS (05 R197, 11 R350). -/
def Iss.reduceFlags (i : Iss) (empty : Bool) (flags : Nat) (k : Core) : Core :=
  i.onWarp k fun w => { w with sflags := setE w.sflags empty, fflags := w.fflags ||| BitVec.ofNat 32 flags }

/-- redux (11 R350): D := the combination of A over the selected lanes. -/
def execRedux (f : RForm) (s : State) : Answer State :=
  .next (s.onCore fun i =>
    let w := f.ty.is64
    let ops := [(f.a, regsOf w)]
    i.collective (ops ++ [(f.c, 1)]) fun k =>
      let a := i.src w f.a 0
      let m := i.selected f
      let r := reduceOf (reduceOp f) f.ty f.mod.sat f.mod.rnd.toNat ((lanesOf m).map fun l => (a l).toNat)
      let v := BitVec.ofNat 64 r.bits
      let k := i.reduceFlags (m == 0) r.flags (i.lastReads f.lr ops i.w.live k)
      match f.d with
      | .s _ => i.putScalar w f.d v k
      | d => i.putSrc w d i.w.live (fun _ => v) k)

/-- scan (11 R350): D := in each selected lane, the combination of A over the selected lanes up to it. -/
def execScan (f : RForm) (s : State) : Answer State :=
  .next (s.onCore fun i =>
    let w := f.ty.is64
    let ops := [(f.a, regsOf w)]
    i.collective (ops ++ [(f.c, 1)]) fun k =>
      let a := i.src w f.a 0
      let m := i.selected f
      let exc := f.ext.getLsbD 4
      let part (l : Nat) : FRes :=
        reduceOf (reduceOp f) f.ty f.mod.sat f.mod.rnd.toNat
          (((lanesOf m).filter fun j => decide (j < l) || (j == l && !exc)).map fun j => (a j).toNat)
      let rs := (lanesOf m).map fun l => (l, part l)
      let flags := rs.foldl (fun x r => x ||| r.2.flags) 0
      let k := i.reduceFlags (m == 0) flags (i.lastReads f.lr ops i.w.live k)
      i.putSrc w f.d m (fun l => BitVec.ofNat 64 (((rs.find? fun r => r.1 == l).map (·.2.bits)).getD 0)) k)

/-- A lane's value of A as bcast and perm read it: that of the fragment for its own lanes, the committed value for another
lane, 0 past lane 95 (11 R351, 05 R198). -/
def Iss.otherLane (i : Iss) (wide : Bool) (o : Operand) : Nat → Dword :=
  let own := i.src wide o 0
  match o with
  | .v n =>
    let lo := i.w.committedV i.f n.toNat
    let hi := if wide then i.w.committedV i.f (n.toNat + 1) else Lanes.splat 0
    fun l =>
      if 96 ≤ l then 0
      else if i.f.mask.getLsbD l then own l
      else hi.at l ++ lo.at l
  | _ => own

/-- bcast (11 R351): D := A of lane B. -/
def execBcast (f : RForm) (s : State) : Answer State :=
  .next (s.onCore fun i =>
    let w := f.ty.is64
    i.vector f.guard f.lr [(f.a, regsOf w), (f.b, 1)] f.d (regsOf w) fun m k =>
      let v := i.otherLane w f.a (i.scalarSrc false f.b (imm24 f.ext)).toNat
      i.putSrc w f.d m (fun _ => v) k)

/-- perm (11 R351): D := A of the lane that B names in each lane. -/
def execPerm (f : RForm) (s : State) : Answer State :=
  .next (s.onCore fun i =>
    let w := f.ty.is64
    i.vector f.guard f.lr [(f.a, regsOf w), (f.b, 1)] f.d (regsOf w) fun m k =>
      let a := i.otherLane w f.a
      let b := i.src false f.b 0
      i.putSrc w f.d m (fun l => a (b l).toNat) k)

/-- A predicate instruction on the bits of the active lanes (11 R352). -/
def Iss.predicate (i : Iss) (f : RForm) (ops : List (Operand × Nat)) (bits : Mask) : Eff :=
  i.vector f.guard f.lr ops f.d 1 fun m k =>
    match f.d with
    | .k n => if m == 0 then .ok k else i.putK n.toNat m bits true k
    | _ => .ok k

/-- A k operand, complemented where asked (11 R352). -/
def Iss.kArg (i : Iss) (o : Operand) (neg : Bool) : Mask := if neg then ~~~(i.kBits o) else i.kBits o

/-- kand (11 R352): bit L of D := a and b. -/
def execKand (f : RForm) (s : State) : Answer State :=
  .next (s.onCore fun i =>
    i.predicate f [(f.a, 1), (f.b, 1)] (i.kArg f.a f.mod.nega &&& i.kArg f.b f.mod.negb))

/-- kor (11 R352): bit L of D := a or b. -/
def execKor (f : RForm) (s : State) : Answer State :=
  .next (s.onCore fun i =>
    i.predicate f [(f.a, 1), (f.b, 1)] (i.kArg f.a f.mod.nega ||| i.kArg f.b f.mod.negb))

/-- kxor (11 R352): bit L of D := a exclusive or b. -/
def execKxor (f : RForm) (s : State) : Answer State :=
  .next (s.onCore fun i =>
    i.predicate f [(f.a, 1), (f.b, 1)] (i.kArg f.a f.mod.nega ^^^ i.kArg f.b f.mod.negb))

/-- knot (11 R352): bit L of D := not a. -/
def execKnot (f : RForm) (s : State) : Answer State :=
  .next (s.onCore fun i => i.predicate f [(f.a, 1)] (~~~(i.kBits f.a)))

/-- kmov (11 R352): bit L of D := a. -/
def execKmov (f : RForm) (s : State) : Answer State :=
  .next (s.onCore fun i => i.predicate f [(f.a, 1)] (i.kBits f.a))

/-- kfrom (11 R352): bit L of D := bit L of the three words from A. -/
def execKfrom (f : RForm) (s : State) : Answer State :=
  .next (s.onCore fun i =>
    let word (j : Nat) : Word := match f.a with
      | .s n => i.w.readS i.f (n.toNat + j)
      | _ => 0
    i.predicate f [(f.a, 3)] (maskFrom (word 0) (word 1) (word 2)))

/-- A predicate instruction that writes a count or a lane number to an s register, with Z (11 R352). -/
def Iss.kScalar (i : Iss) (f : RForm) (val : Mask → Nat) (none96 : Nat) : Eff :=
  if i.spec || i.blocked f.guard [(f.a, 1)] then .stay i.core
  else
    let r := val (i.kBits f.a &&& i.active f.guard)
    i.put32 f.d (BitVec.ofNat 32 r) (i.onWarp i.begin fun w => { w with sflags := setZ w.sflags (r == none96) })

/-- kpop (11 R352): D := how many active lanes have their bit of A; Z when none. -/
def execKpop (f : RForm) (s : State) : Answer State :=
  .next (s.onCore fun i => i.kScalar f countLanes 0)

/-- kfst (11 R352): D := the lowest active lane with its bit of A, or 96; Z when none. -/
def execKfst (f : RForm) (s : State) : Answer State :=
  .next (s.onCore fun i => i.kScalar f (fun m => (lowLane m).getD 96) 96)

/-- kto (11 R352): the three words from D := A. -/
def execKto (f : RForm) (s : State) : Answer State :=
  .next (s.onCore fun i =>
    if i.spec || i.blocked noGuard [(f.a, 1)] then .stay i.core else i.putPlanes f.d (i.kBits f.a) i.begin)

end Sys2Proof.Machine
end

