-- ==== Sys2Proof/Machine/Float.lean ====
section
/-!
DEFINITION. The floating-point instructions, class 2 (09 R290 to R304).
-/
namespace Sys2Proof.Machine

/-- The results of a float operation in the lanes of a mask. -/
abbrev FLanes := Vector FRes 96

/-- An operation in the active lanes. -/
def floatLanes (m : Mask) (op : Nat → FRes) : FLanes :=
  Vector.ofFn fun l : Fin 96 => if m.getLsbD l.val then op l.val else { bits := 0, flags := 0 }

/-- One lane of the results. -/
def FLanes.at (r : FLanes) (l : Nat) : FRes := r.toArray.getD l { bits := 0, flags := 0 }

/-- Raise the flags of all active lanes, each for the lanes that raise it (09 R286, 06 R217). -/
def Iss.raiseLanes (i : Iss) (m : Mask) (r : FLanes) (k : Core) : Core :=
  (List.range 5).foldl (fun k b => i.raiseFlags (m &&& maskOf fun l => (r.at l).flags.testBit b) (2 ^ b) k) k

/-- A floating-point source of the operation's type, with its modifiers, lane by lane (09 R290, R291, R293). -/
def Iss.fsrc (i : Iss) (t : Ty) (o : Operand) (abs neg : Bool) (imm : BitVec 24) : Nat → Nat :=
  let x := i.src false o (immFloat t imm)
  fun l => floatBits t abs neg (x l)

/-- A class 2 instruction with a float result of its type (09 R290, R295): the operation on the bits of A, B and C, of
which it reads the first n. -/
def Iss.floatOp (i : Iss) (f : RForm) (n : Nat) (op : Nat → Nat → Nat → FRes) : Eff :=
  i.vector f.guard f.lr ([(f.a, 1), (f.b, 1), (f.c, 1)].take n) f.d 1 fun m k =>
    let a := i.fsrc f.ty f.a f.mod.absa f.mod.nega 0
    let b := i.fsrc f.ty f.b f.mod.absb f.mod.negb f.ext
    let c := i.fsrc f.ty f.c false f.mod.negc 0
    let r := floatLanes m fun l => op (a l) (b l) (c l)
    i.putSrc false f.d m (fun l => BitVec.ofNat 64 (r.at l).bits) (i.raiseLanes m r k)

/-- The rounding mode of an instruction (09 R284). -/
def RForm.rnd (f : RForm) : Nat := f.mod.rnd.toNat

/-- fadd (09 R295): D := A + B. -/
def execFadd (f : RForm) (s : State) : Answer State :=
  let t := FloatFmt.of f.ty
  .next (s.onCore fun i => i.floatOp f 2 fun a b _ => t.add (RForm.rnd f) (t.value a) (t.value b))

/-- fsub (09 R295): D := A − B. -/
def execFsub (f : RForm) (s : State) : Answer State :=
  let t := FloatFmt.of f.ty
  .next (s.onCore fun i => i.floatOp f 2 fun a b _ => t.add (RForm.rnd f) (t.value a) (t.value b).negate)

/-- fmul (09 R295): D := A × B. -/
def execFmul (f : RForm) (s : State) : Answer State :=
  let t := FloatFmt.of f.ty
  .next (s.onCore fun i => i.floatOp f 2 fun a b _ => t.mul (RForm.rnd f) (t.value a) (t.value b))

/-- ffma (09 R295): D := A × B + C, rounded once. -/
def execFfma (f : RForm) (s : State) : Answer State :=
  let t := FloatFmt.of f.ty
  .next (s.onCore fun i => i.floatOp f 3 fun a b c => t.fma (RForm.rnd f) (t.value a) (t.value b) (t.value c))

/-- fdiv (09 R295): D := A ÷ B. -/
def execFdiv (f : RForm) (s : State) : Answer State :=
  let t := FloatFmt.of f.ty
  .next (s.onCore fun i => i.floatOp f 2 fun a b _ => t.div (RForm.rnd f) (t.value a) (t.value b))

/-- fmin (09 R296): minimumNumber. -/
def execFmin (f : RForm) (s : State) : Answer State :=
  let t := FloatFmt.of f.ty
  .next (s.onCore fun i => i.floatOp f 2 fun a b _ => t.minMax false a b)

/-- fmax (09 R296): maximumNumber. -/
def execFmax (f : RForm) (s : State) : Answer State :=
  let t := FloatFmt.of f.ty
  .next (s.onCore fun i => i.floatOp f 2 fun a b _ => t.minMax true a b)

/-- fcmp (09 R297): bit L of the k register D tells whether the condition holds in active lane L. -/
def execFcmp (f : RForm) (s : State) : Answer State :=
  let t := FloatFmt.of f.ty
  .next (s.onCore fun i =>
    i.vector f.guard f.lr [(f.a, 1), (f.b, 1)] f.d 1 fun m k =>
      let a := i.fsrc f.ty f.a f.mod.absa f.mod.nega 0
      let b := i.fsrc f.ty f.b f.mod.absb f.mod.negb f.ext
      let r := floatLanes m fun l =>
        let c := fcmpOp (f.c.code.toNat % 16) (t.value (a l)) (t.value (b l))
        { bits := if c.1 then 1 else 0, flags := if c.2 then flagIV else 0 }
      i.putCond f.d m (fun l => (r.at l).bits == 1) (i.raiseLanes m r k))

/-- fclass (09 R298): D := the class bits of A. -/
def execFclass (f : RForm) (s : State) : Answer State :=
  let t := FloatFmt.of f.ty
  .next (s.onCore fun i => i.floatOp f 1 fun a _ _ => { bits := t.classOf a, flags := 0 })

/-- frcp (09 R299, R300): D := 1 ÷ A. -/
def execFrcp (f : RForm) (s : State) : Answer State :=
  let t := FloatFmt.of f.ty
  .next (s.onCore fun i => i.floatOp f 1 fun a _ _ => t.rcp (t.value a))

/-- frsq (09 R299, R300): D := 1 ÷ √A. -/
def execFrsq (f : RForm) (s : State) : Answer State :=
  let t := FloatFmt.of f.ty
  .next (s.onCore fun i => i.floatOp f 1 fun a _ _ => t.rsq (t.value a))

/-- fsqrt (09 R295): D := √A. -/
def execFsqrt (f : RForm) (s : State) : Answer State :=
  let t := FloatFmt.of f.ty
  .next (s.onCore fun i => i.floatOp f 1 fun a _ _ => t.sqrt (RForm.rnd f) (t.value a))

/-- fexp2 (09 R299, R300): D := 2^A. -/
def execFexp2 (f : RForm) (s : State) : Answer State :=
  let t := FloatFmt.of f.ty
  .next (s.onCore fun i => i.floatOp f 1 fun a _ _ => t.exp2 (t.value a))

/-- flog2 (09 R299, R300): D := log2 A. -/
def execFlog2 (f : RForm) (s : State) : Answer State :=
  let t := FloatFmt.of f.ty
  .next (s.onCore fun i => i.floatOp f 1 fun a _ _ => t.log2 (t.value a))

/-- fsin (09 R299, R300): D := sin A. -/
def execFsin (f : RForm) (s : State) : Answer State :=
  let t := FloatFmt.of f.ty
  .next (s.onCore fun i => i.floatOp f 1 fun a _ _ => t.trig false (t.value a))

/-- fcos (09 R299, R300): D := cos A. -/
def execFcos (f : RForm) (s : State) : Answer State :=
  let t := FloatFmt.of f.ty
  .next (s.onCore fun i => i.floatOp f 1 fun a _ _ => t.trig true (t.value a))

/-- ftanh (09 R299, R300): D := tanh A. -/
def execFtanh (f : RForm) (s : State) : Answer State :=
  let t := FloatFmt.of f.ty
  .next (s.onCore fun i => i.floatOp f 1 fun a _ _ => t.tanh (t.value a))

/-- frnd (09 R301): D := A rounded to an integral value. -/
def execFrnd (f : RForm) (s : State) : Answer State :=
  let t := FloatFmt.of f.ty
  .next (s.onCore fun i => i.floatOp f 1 fun a _ _ => t.rint (RForm.rnd f) (t.value a) a)

/-- fscale (09 R293, R295): D := A × 2^B, B read as a 32-bit integer. -/
def execFscale (f : RForm) (s : State) : Answer State :=
  let t := FloatFmt.of f.ty
  .next (s.onCore fun i =>
    i.vector f.guard f.lr [(f.a, 1), (f.b, 1)] f.d 1 fun m k =>
      let a := i.fsrc f.ty f.a f.mod.absa f.mod.nega 0
      let b := i.src false f.b (imm24 f.ext)
      let r := floatLanes m fun l => t.scale (RForm.rnd f) (t.value (a l)) (toSigned 32 (b l).toNat)
      i.putSrc false f.d m (fun l => BitVec.ofNat 64 (r.at l).bits) (i.raiseLanes m r k))

/-- Whether a type is a floating-point type (07 R245). -/
def isFloat : Ty → Bool
  | .f32 | .f16 | .bf16 => true
  | _ => false

/-- A conversion of one source pattern between two types (09 R302); an integer result is extended as EXT gives. -/
def convertOp (dst src : Ty) (rnd : Nat) (x : Dword) (abs neg : Bool) : FRes :=
  match isFloat src, isFloat dst with
  | true, true => (FloatFmt.of dst).convert rnd ((FloatFmt.of src).value (floatBits src abs neg x))
  | true, false =>
    let r := toIntType dst.width dst.signed rnd ((FloatFmt.of src).value (floatBits src abs neg x))
    { r with bits := (BitVec.ofInt 64 (dst.val r.bits)).toNat }
  | false, true => (FloatFmt.of dst).ofInt rnd (src.val x.toNat)
  | false, false => { bits := x.toNat, flags := 0 }

/-- fcvt (09 R302): D := A converted from the source type to the destination type. -/
def execFcvt (f : RForm) (s : State) : Answer State :=
  let sty := Ty.ofCode (f.ext.extractLsb' 0 4)
  .next (s.onCore fun i =>
    i.vector f.guard f.lr [(f.a, regsOf sty.is64)] f.d (regsOf f.ty.is64) fun m k =>
      let a := i.src sty.is64 f.a 0
      let r := floatLanes m fun l => convertOp f.ty sty (RForm.rnd f) (a l) f.mod.absa f.mod.nega
      i.putSrc f.ty.is64 f.d m (fun l => BitVec.ofNat 64 (r.at l).bits) (i.raiseLanes m r k))

/-- The block length of a code (09 R292). -/
def blockLen (code : Nat) : Nat :=
  match code with
  | 0 => 16
  | 1 => 32
  | 2 => 48
  | _ => 96

/-- fxpk in one lane: its block's exponent over the active lanes of the block, and its mantissa (09 R303). -/
def packLane (m len : Nat) (active : Mask) (v : Nat → FVal) (l : Nat) : FRes :=
  let block := ((List.range len).map fun j => len * (l / len) + j).filter fun j => active.getLsbD j
  let e := xbExp (block.map v)
  let r := xbMant m e (v l)
  { bits := 256 * e + (r.1 % 256).toNat, flags := if e == 0xFF then flagIV else if r.2 then flagNX else 0 }

/-- fxpk (09 R303): D := the exponent and mantissa of each element packed with its block. -/
def execFxpk (f : RForm) (s : State) : Answer State :=
  let t := FloatFmt.of f.ty
  .next (s.onCore fun i =>
    i.vector f.guard f.lr [(f.a, 1)] f.d 1 fun m k =>
      let a := i.fsrc f.ty f.a false false 0
      let r := floatLanes m (packLane (f.ext.extractLsb' 0 4).toNat (blockLen (f.ext.extractLsb' 4 2).toNat) m
        fun l => t.value (a l))
      i.putSrc false f.d m (fun l => BitVec.ofNat 64 (r.at l).bits) (i.raiseLanes m r k))

/-- fxup (09 R304): D := the value of each packed element. -/
def execFxup (f : RForm) (s : State) : Answer State :=
  let t := FloatFmt.of f.ty
  let m := (f.ext.extractLsb' 0 4).toNat
  .next (s.onCore fun i =>
    i.vector f.guard f.lr [(f.a, 1)] f.d 1 fun act k =>
      let a := i.src false f.a 0
      let r := floatLanes act fun l => t.unpack (RForm.rnd f) m (bitsAt (a l).toNat 8 8) (toSigned m (a l).toNat)
      i.putSrc false f.d act (fun l => BitVec.ofNat 64 (r.at l).bits) (i.raiseLanes act r k))

end Sys2Proof.Machine
end

