-- ==== Sys2Proof/Machine/Allocator.lean ====
section
/-!
DEFINITION. The allocator of a core's scratchpad (02 R60 to R66) and the sewn reservations it places (14 R428).
-/
namespace Sys2Proof.Machine

/-- Who holds a run of units: a folio, or a workgroup's sewn reservation. -/
inductive Keeper where
  | folio (slot : Nat)
  | sewn (wg : Nat)
  deriving DecidableEq, Repr

/-- A run of units that is held (02 R60, 14 R428). -/
structure Span where
  rank : Nat
  start : Nat
  len : Nat
  /-- a CLOSING folio, which is never moved (02 R63) -/
  fixed : Bool
  keeper : Keeper
  deriving DecidableEq, Repr

/-- The unit after a run. -/
def Span.top (r : Span) : Nat := r.start + r.len

/-- Put a run into a list kept by rising start. -/
def insertRun (r : Span) : List Span → List Span
  | [] => [r]
  | x :: l => if r.start ≤ x.start then r :: x :: l else x :: insertRun r l

/-- Runs by rising start. -/
def sortRuns (l : List Span) : List Span := l.foldr insertRun []

/-- The runs held on a core: folios outside the reservations, and the reservations (14 R428). -/
def Core.runs (k : Core) : List Span :=
  sortRuns (((k.folios.filter fun p => p.2.holds && !p.2.inSewn).map fun p =>
      { rank := p.2.rank, start := p.2.start, len := p.2.size, fixed := p.2.state == .closing, keeper := .folio p.1 }) ++
    k.wgs.filterMap fun g => match g.2.sewn with
      | some r => if r.len == 0 then none
        else some { rank := 7, start := r.start, len := r.len, fixed := false, keeper := .sewn g.1 }
      | none => none)

/-- The allocatable region of a core (02 R60). -/
def Core.region (k : Core) : Nat := 64 * k.cap.alloc

/-- The free runs between two units, rising, as start and end. -/
def gaps (hi : Nat) : Nat → List Span → List (Nat × Nat)
  | p, [] => if p < hi then [(p, hi)] else []
  | p, r :: l =>
    if r.top ≤ p then gaps hi p l
    else if hi ≤ r.start then (if p < hi then [(p, hi)] else [])
    else if p < r.start then (p, r.start) :: gaps hi r.top l
    else gaps hi r.top l

/-- The unit after the last one of the allocatable region for a rank (02 R60). -/
def regionTop (region r : Nat) : Nat := if r == 7 then Nat.min region Config.sewnUnits else region

/-- The window of a rank: its first unit and the unit after its last (02 R60). -/
def window (region r : Nat) (l : List Span) : Nat × Nat :=
  ((l.filter fun x => r < x.rank).foldl (fun m x => Nat.max m x.top) 0,
    (l.filter fun x => x.rank < r).foldl (fun m x => Nat.min m x.start) (regionTop region r))

/-- The free units of the allocatable region for a rank (02 R62). -/
def freeUnits (region r : Nat) (l : List Span) : Nat := sumNat ((gaps (regionTop region r) 0 l).map fun g => g.2 - g.1)

/-- Step 1 of 02 R62: the lowest run of the window for ranks 4 to 7, the highest for ranks 0 to 3 (02 R61). -/
def fit (region r n : Nat) (l : List Span) : Option Nat :=
  let w := window region r l
  let ok := (gaps w.2 w.1 l).filter fun g => decide (n ≤ g.2 - g.1)
  if 4 ≤ r then ok.head?.map (·.1) else ok.getLast?.map fun g => g.2 - n

/-- Runs packed upward from a unit, in order. -/
def pack : Nat → List Span → List Span
  | _, [] => []
  | p, r :: l => { r with start := p } :: pack (p + r.len) l

/-- Step 2 of 02 R62: the runs after compaction for a new folio of a rank (02 R63); none where the two groups do not fit. -/
def compact (region r : Nat) (l : List Span) : Option (List Span) :=
  let fixed := l.filter (·.fixed)
  let free := l.filter fun x => !x.fixed
  let low (x : Span) : Bool := decide (r < x.rank) || (x.rank == r && decide (4 ≤ r))
  let bottom := free.filter low
  let upper := free.filter fun x => !low x
  let ceil := fixed.foldl (fun m x => Nat.min m x.start) region
  let need := sumNat (upper.map (·.len))
  if ceil < sumNat (bottom.map (·.len)) + need then none
  else some (sortRuns (pack 0 bottom ++ pack (ceil - need) upper ++ fixed))

/-- The new start of each run that a compaction moves: old start, length, new start. -/
def movesOf (old new : List Span) : List (Nat × Nat × Nat) :=
  old.filterMap fun r => match new.find? fun x => x.keeper == r.keeper with
    | some x => if x.start == r.start then none else some (r.start, r.len, x.start)
    | none => none

/-- Where a unit goes in a compaction; a unit of a run that stays, or that nothing holds, stays. -/
def movedUnit (m : List (Nat × Nat × Nat)) (u : Nat) : Nat :=
  match m.find? fun x => decide (x.1 ≤ u) && decide (u < x.1 + x.2.1) with
  | some x => u - x.1 + x.2.2
  | none => u

/-- Carry out a compaction: contents, the errors in them, folios and reservations move; what no run holds is dropped
(02 R63). Lock bits stay with their bank (DESIGN CHOICE, notes/assumptions/10.md). -/
def Core.relocate (k : Core) (old new : List Span) : Core :=
  let m := movesOf old new
  if m.isEmpty then k
  else
    let kept (u : Nat) : Bool := old.any fun r => decide (r.start ≤ u) && decide (u < r.top)
    { k with
      pad := k.pad.foldl (fun (p : FMap Byte) c =>
        if kept (c.1 / 512) then FMap.set p (512 * movedUnit m (c.1 / 512) + c.1 % 512) c.2 else p) []
      padBad := (k.padBad.filter fun w => kept (w / 64)).map fun w => 64 * movedUnit m (w / 64) + w % 64
      folios := FMap.mapV k.folios fun _ f => if f.holds then { f with start := movedUnit m f.start } else f
      wgs := FMap.mapV k.wgs fun _ g => { g with sewn := g.sewn.map fun r => { r with start := movedUnit m r.start } } }

/-- Steps 1 and 2 of 02 R62: a place for a folio of a rank and size, and the core after any compaction, which is made only
where the free units suffice. (DEDUCED, notes/assumptions/36.md.) -/
def Core.settleIn (k : Core) (r n : Nat) : Option (Nat × Core) :=
  let l := k.runs
  match fit k.region r n l with
  | some u => some (u, k)
  | none =>
    if freeUnits k.region r l < n then none
    else
      match compact k.region r l with
      | none => none
      | some new => (fit k.region r n new).map fun u => (u, k.relocate l new)

/-- Put a folio into a list kept by falling start. -/
def insertFolio (p : Nat × Folio) : List (Nat × Folio) → List (Nat × Folio)
  | [] => [p]
  | x :: l => if x.2.start ≤ p.2.start then p :: x :: l else x :: insertFolio p l

/-- Displace folios, the highest first, until a place is found (02 R64). (DEDUCED, notes/assumptions/36.md.) -/
def Core.displace (r n : Nat) : List Nat → Core → Option (Nat × Core)
  | [], _ => none
  | slot :: rest, k =>
    let k := k.loseFolio slot
    match k.settleIn r n with
    | some x => some x
    | none => Core.displace r n rest k

/-- Capacity for a folio of a rank and size, with the core that obtaining it leaves; none on NOCAP (02 R62).
(DEDUCED, notes/assumptions/36.md.) -/
def Core.obtain (k : Core) (r n : Nat) : Option (Nat × Core) :=
  match k.settleIn r n with
  | some x => some x
  | none =>
    let lower := (k.holders.filter fun p => decide (p.2.rank < r)).foldr insertFolio []
    Core.displace r n (lower.map (·.1)) k

/-- A place for a rank 7 folio inside what remains of a workgroup's reservation (14 R428). (DEDUCED, notes/assumptions/37.md.) -/
def Core.insideSewn (k : Core) (wg n : Nat) : Option Nat :=
  match (FMap.get k.wgs wg).bind (·.sewn) with
  | none => none
  | some r =>
    let used := sortRuns ((k.folios.filter fun p => p.2.inSewn && p.2.holds && p.2.own == some wg).map fun p =>
      { rank := 7, start := p.2.start, len := p.2.size, fixed := false, keeper := .folio p.1 })
    ((gaps (r.start + r.len) r.start used).find? fun g => decide (n ≤ g.2 - g.1)).map (·.1)

end Sys2Proof.Machine
end

