-- ==== Sys2Proof/Machine/FolioOps.lean ====
section
/-!
DEFINITION. The folio instructions of class 3 (10 R323 to R329; 02 R66 to R73, R89 to R92) and the waits of frwait.
-/
namespace Sys2Proof.Machine

/-- The code of a folio's state (02 R57). -/
def FolioState.code : FolioState → Nat
  | .free => 0
  | .bound => 1
  | .closing => 2
  | .lost => 3
  | .rebinding => 4
  | .backed => 5

/-- A word of a folio-table entry (02 R57). (DEDUCED, notes/assumptions/120.md.) -/
def Folio.word (f : Folio) (n : Nat) : Dword :=
  match n with
  | 0 =>
    BitVec.ofNat 64 (2 ^ 48 * f.gen.toNat + 2 ^ 45 * f.state.code + 2 ^ 42 * f.rank + 2 ^ 41 * f.pers.toNat +
      2 ^ 40 * f.clm.isSome.toNat + 2 ^ 35 * (f.clm.getD 31 % 32) + 2 ^ 30 * f.own.getD 31 + 2 ^ 12 * (f.size - 1) +
      (if f.holds then f.start else 0))
  | 1 => f.handler
  | 2 => f.backing
  | _ => f.key ++ (0 : Word)

/-- The persistent folio of a context with a key on a core (02 R67, R68). -/
def Core.keyed (k : Core) (ctx : CtxKey) (key : Word) : Option (Nat × Folio) :=
  k.folios.find? fun p => p.2.pers && p.2.state != .free && p.2.ctx == ctx && p.2.key == key

/-- The free slots of a core's folio table (02 R57). (DESIGN CHOICE, notes/assumptions/38.md.) -/
def Core.freeSlots (k : Core) : List Nat :=
  (List.range Config.folioSlots).filter fun s => (k.folio s).state == .free

/-- Record a persistent folio in the partition's affinity directory, where it has room (14 R429).
(DEDUCED, notes/assumptions/45.md.) -/
def State.addAffinity (s : State) (ctx : CtxKey) (key : Word) (core : Nat) : State :=
  s.modPart (ctxPart ctx) fun p =>
    if 4096 ≤ p.affinity.length then p else { p with affinity := p.affinity ++ [(ctx, key, core)] }

/-- Free a folio, its affinity entry going with a persistent one (14 R429). (DEDUCED, notes/assumptions/13.md, 45.md) -/
def State.freeSlot (s : State) (c slot : Nat) : State :=
  let f := (s.core c).folio slot
  let s := s.modCore c fun k => k.freeFolio slot
  if f.pers then
    s.modPart (ctxPart f.ctx) fun p => { p with affinity := p.affinity.filter fun a => a != (f.ctx, f.key, c) }
  else s

/-- Whether a falloc's size is allowed (02 R66). -/
def sizeOk (rank size : Nat) : Bool :=
  size % 512 == 0 && decide (512 ≤ size) && decide (size ≤ if rank == 7 then 0x4_0000 else 0x20_0000)

/-- The check of a BACKING address: the sub-code of MISALIGNED, or 0 (02 R92). (DESIGN CHOICE, notes/assumptions/39.md.) -/
def backingSub (b : Dword) : BitVec 8 :=
  if b == 0 then 0
  else if b.extractLsb' 57 7 != (if b.getLsbD 56 then 0x7F#7 else 0#7) then 1
  else if b.extractLsb' 0 9 != 0 then 2
  else 0

/-- Find capacity for a falloc: a rank 7 folio of a workgroup inside its reservation where it fits, otherwise under
02 R62; the unit, whether inside the reservation, and the core (14 R428). (DEDUCED, notes/assumptions/37.md.) -/
def Core.capacityFor (k : Core) (wg : Option Nat) (r n : Nat) : Option (Nat × Bool × Core) :=
  match if r == 7 then wg.bind fun g => k.insideSewn g n else none with
  | some u => some (u, true, k)
  | none => (k.obtain r n).map fun x => (x.1, false, x.2)

/-- The result of a falloc: the handle, Z and NOCAP, and the state (10 R324). (DESIGN CHOICE, notes/assumptions/38.md.) -/
def State.allocate (s : State) (i : Iss) (rank units : Nat) (handler backing : Dword) (key : Option Word) :
    Word × Bool × Bool × State :=
  match key.bind fun x => i.core.keyed i.ctx x with
  | some (slot, f) => (handleOf slot f.gen, true, false, s)
  | none =>
    match s.chooseOf i.core.freeSlots with
    | (none, s) => (0, false, true, s)
    | (some slot, s) =>
      match i.core.capacityFor (if key.isSome then none else some i.w.wg) rank units with
      | none => (0, false, true, s)
      | some (u, inside, k) =>
        let k := k.zeroUnits u units
        let g := (k.folio slot).gen
        let f : Folio :=
          { gen := g, state := .bound, rank := rank, pers := key.isSome, clm := none
            own := if key.isSome then none else some i.w.wg
            size := units, start := u, handler := handler, backing := backing, key := key.getD 0, ctx := i.ctx
            inSewn := inside }
        let s := s.setCore i.c { k with folios := FMap.set k.folios slot f }
        (handleOf slot g, false, false, match key with
          | some x => s.addAffinity i.ctx x i.c
          | none => s)

/-- The core clock of the core that issues. -/
def State.coreClock (s : State) : Nat := (s.cluster (clusterOf s.cur.core)).rawcyc

/-- Whether a falloc.c of a key comes too late in its core clock: that of a warp in a higher slot with the same context and key has
been performed in it, and those of one clock are performed in ascending order (17 R494). It is then one of the next clock. -/
def Core.keyedBefore (k : Core) (now : Nat) (i : Iss) (key : Word) : Bool :=
  k.keyedAt.any fun x => x.1 == now && decide (i.wi < x.2.1) && x.2.2 == (i.ctx, key)

/-- A falloc.c of a key is performed in this core clock (17 R494). -/
def State.noteKeyed (s : State) (i : Iss) (key : Word) : State :=
  s.modCore i.c fun k => { k with
    keyedAt := (s.coreClock, i.wi, i.ctx, key) :: k.keyedAt.filter fun x => x.1 == s.coreClock }

/-- falloc and falloc.c after their operands are ready (10 R324): the checks in order, then the allocation. -/
def State.fallocOp (s : State) (i : Iss) (f : IForm) (keyed : Bool) : State :=
  let rank := (f.ext8.extractLsb' 0 3).toNat
  let size := f.imm.toNat
  let pair (j : Nat) : Dword := match f.a with
    | .s n => i.w.readS i.f (n.toNat + j + 1) ++ i.w.readS i.f (n.toNat + j)
    | _ => 0
  let key := i.s32 f.b 0
  let backing := pair 2
  if !sizeOk rank size || (keyed && key == 0) then s.raiseFree i Cause.folioBounds 0
  else if backingSub backing != 0 then
    s.raise i (i.trapReq Cause.misaligned (backingSub backing) i.f.mask (backing.extractLsb' 0 32)
      (backing.extractLsb' 32 32))
  else if keyed && i.core.keyedBefore s.coreClock i key then s
  else
    let r := s.allocate i rank (size / 512) (pair 0) backing (if keyed then some key else none)
    s.complete (if keyed then r.2.2.2.noteKeyed i key else r.2.2.2) i fun k =>
      i.lenient.put32 f.d r.1 (i.onWarp k fun w => { w with sflags := setZ (setNocap w.sflags r.2.2.1) r.2.1 })

/-- falloc (10 R324): D := the handle of a new folio of the workgroup, or 0. (DESIGN CHOICE, notes/assumptions/39.md.) -/
def execFalloc (f : IForm) (s : State) : Answer State :=
  .next (s.onIss fun i => s.scalarDo i f.guard [(f.a, 4)] fun s => s.fallocOp i f false)

/-- falloc.c (02 R67, 10 R324): D := the handle of the context's persistent folio with a key, new or not, or 0. -/
def execFallocC (f : IForm) (s : State) : Answer State :=
  .next (s.onIss fun i => s.scalarDo i f.guard [(f.a, 4), (f.b, 1)] fun s => s.fallocOp i f true)

/-- fopen (10 R325, 02 R68): D := the handle of the context's persistent folio with a key, or 0. -/
def execFopen (f : RForm) (s : State) : Answer State :=
  .next (s.onCore fun i => i.scalar f.guard [(f.b, 1)] fun k =>
    let r := i.core.keyed i.ctx (i.s32 f.b (f.ext.signExtend 32))
    i.lenient.put32 f.d ((r.map fun p => handleOf p.1 p.2.gen).getD 0)
      (i.onWarp k fun w => { w with sflags := setZ w.sflags r.isNone }))

/-- The trap of a handle that is not live (02 R58). -/
def Iss.stale (i : Iss) (h : Word) : TrapReq := i.trapReq Cause.staleHandle 0 i.f.mask h 0

/-- An instruction on the live folio that its handle names, or the trap of a handle that is not live. -/
def State.withFolio (s : State) (i : Iss) (o : Operand) (act : Nat → Folio → State → State) : State :=
  let h := i.s32 o 0
  match i.core.liveFolio i.ctx h with
  | none => s.raise i (i.stale h)
  | some (slot, f) => act slot f s

/-- An instruction on the live folio that its handle names which makes the device apply the quanta pending on it: it waits for a lock
bit that keeps one of them from being applied (04 R147, 10 R315). (DEDUCED, notes/assumptions/30.md.) -/
def State.withQuanta (s : State) (i : Iss) (o : Operand) (act : Nat → Folio → State → State) : State :=
  s.withFolio i o fun slot f s => match i.core.folioLock i.wi slot with
    | some bank => s.lockWait i bank
    | none => act slot f s

/-- ffree (10 R326): the folio becomes FREE; quanta on it are applied first (02 R82). -/
def execFfree (f : RForm) (s : State) : Answer State :=
  .next (s.onIss fun i => s.scalarDo i f.guard [(f.a, 1)] fun s =>
    s.withQuanta i f.a fun slot _ s =>
      ((s.applyFolioQuanta i.c slot).freeSlot i.c slot).modFrag i.c i.wi i.fi Frag.finish)

/-- fdrop (10 R326): the folio becomes LOST, or stays so; quanta on it are applied first (02 R82). -/
def execFdrop (f : RForm) (s : State) : Answer State :=
  .next (s.onIss fun i => s.scalarDo i f.guard [(f.a, 1)] fun s =>
    s.withQuanta i f.a fun slot fo s =>
      let s := if fo.state == .lost then s
        else (s.applyFolioQuanta i.c slot).modCore i.c fun k => k.loseFolio slot
      s.modFrag i.c i.wi i.fi Frag.finish)

/-- The claimant's notice that it lost its claim is given by its next fbind, fbind.b or fdone on the folio, whatever the result: its
loads no longer read zero and its stores have effect again (02 R71; DESIGN CHOICE, notes/assumptions/148.md). -/
def State.told (s : State) (i : Iss) (slot : Nat) : State :=
  s.modWarp i.c i.wi fun w => { w with revoked := w.revoked.filter fun t => t != slot }

/-- Capacity for a LOST or BACKED folio, claimed by the issuing warp (02 R70, R89); none on NOCAP.
(DEDUCED, notes/assumptions/19.md.) -/
def State.claim (s : State) (i : Iss) (slot : Nat) : Option State :=
  let k := s.core i.c
  let f := k.folio slot
  match k.obtain f.rank f.size with
  | none => none
  | some (u, k) =>
    let k := (k.dropBackedLocks f).zeroUnits u f.size
    some (s.setCore i.c (k.modFolio slot fun f => { f with state := .rebinding, clm := some i.wi, start := u, inSewn := false }))

/-- fbind: its result code and the state (02 R70, R72). -/
def State.bindFolio (s : State) (i : Iss) (slot : Nat) (f : Folio) : Nat × State :=
  match f.state with
  | .bound | .closing | .free => (2, s)
  | .rebinding => (if f.clm == some i.wi then 0 else 1, s)
  | .lost | .backed =>
    match (s.applyFolioQuanta i.c slot).claim i slot with
    | some t => (0, t)
    | none => (3, s)

/-- fbind.b: its result code and the state (02 R70, R72). -/
def State.backFolio (s : State) (i : Iss) (slot : Nat) (f : Folio) : Nat × State :=
  match f.state with
  | .bound | .closing | .backed | .free => (2, s)
  | .rebinding =>
    if f.clm != some i.wi then (1, s)
    else if f.backing == 0 then (4, s)
    else
      (0, (s.applyFolioQuanta i.c slot).modCore i.c fun k => k.modFolio slot fun f =>
        { f with state := .backed, clm := none, start := 0, inSewn := false })
  | .lost =>
    if f.backing == 0 then (4, s)
    else (0, s.modCore i.c fun k => k.modFolio slot fun f => { f with state := .backed })

/-- Complete a folio instruction with a result code, setting NOCAP where asked to (02 R72). -/
def State.finishCode (s0 s : State) (i : Iss) (d : Operand) (code : Nat) (nocap : Option Bool) : State :=
  s0.complete s i fun k => i.lenient.put32 d (BitVec.ofNat 32 code) (match nocap with
    | some b => i.onWarp k fun w => { w with sflags := setNocap w.sflags b }
    | none => k)

/-- fbind (10 R327): claims a LOST or BACKED folio, with fresh capacity; D := the result code.
(DEDUCED, notes/assumptions/41.md.) -/
def execFbind (f : RForm) (s : State) : Answer State :=
  .next (s.onIss fun i => s.scalarDo i f.guard [(f.a, 1)] fun s =>
    s.withQuanta i f.a fun slot fo s =>
      let r := s.bindFolio i slot fo
      s.finishCode (r.2.told i slot) i f.d r.1 (some (r.1 == 3)))

/-- fbind.b (10 R327): makes a folio BACKED; D := the result code. (DEDUCED, notes/assumptions/41.md.) -/
def execFbindB (f : RForm) (s : State) : Answer State :=
  .next (s.onIss fun i => s.scalarDo i f.guard [(f.a, 1)] fun s =>
    s.withQuanta i f.a fun slot fo s =>
      let r := s.backFolio i slot fo
      s.finishCode (r.2.told i slot) i f.d r.1 (some false))

/-- fdone (10 R327, 02 R70): the claimant's folio becomes BOUND; D := the result code. -/
def execFdone (f : RForm) (s : State) : Answer State :=
  .next (s.onIss fun i => s.scalarDo i f.guard [(f.a, 1)] fun s =>
    s.withFolio i f.a fun slot fo s =>
      let mine := fo.state == .rebinding && fo.clm == some i.wi
      let t := if mine then s.modCore i.c fun k => k.modFolio slot fun f => { f with state := .bound, clm := none } else s
      s.finishCode (t.told i slot) i f.d (if mine then 0 else 5) none)

/-- fquery (10 R329): D := a word of the slot's entry; Z tells that the handle is not live. -/
def execFquery (f : RForm) (s : State) : Answer State :=
  .next (s.onCore fun i => i.scalar f.guard [(f.a, 1)] fun k =>
    let h := i.s32 f.a 0
    if Config.folioSlots ≤ handleSlot h || handleGen h == 0 then .trap (i.stale h)
    else
      let fo := i.core.folio (handleSlot h)
      let other := fo.state != .free && fo.ctx != i.ctx
      i.lenient.put64 f.d (if other then 0 else fo.word (f.ext.extractLsb' 0 2).toNat)
        (i.onWarp k fun w => { w with sflags := setZ w.sflags (i.core.liveFolio i.ctx h).isNone }))

/-! Waits of frwait (02 R73, 10 R328, 17 R495). Each is tried when it issues and again after every step. -/

/-- The instant a timeout ends; none where it is zero (02 R73). -/
def State.deadline (s : State) (us : Nat) : Option Nat := if us == 0 then none else some (s.refTime + 1000 * us)

/-- End a wait with a result; where the register cannot be written yet the wait stays. -/
def State.endWith (s : State) (i : Iss) (d : Operand) (v : Word) (w : Wait) : State :=
  let k0 := (s.keepWaiting i w)
  match i.lenient.put32 d v ((s.modFrag i.c i.wi i.fi Frag.endWait).core i.c) with
  | .ok k => s.setCore i.c k
  | .stay _ => k0
  | .trap t => s.raise i t

/-- frwait.st (02 R73). -/
def State.tryState (s : State) (i : Iss) (h : Word) (d : Operand) (limit : Option Nat) : State :=
  match i.core.liveFolio i.ctx h with
  | none => s.endWith i d 0 (.folioState h d limit)
  | some (_, f) =>
    if f.state == .rebinding then s.keepWaiting i (.folioState h d limit)
    else s.endWith i d (BitVec.ofNat 32 f.state.code) (.folioState h d limit)

/-- frwait.cap (02 R73). -/
def State.tryCapacity (s : State) (i : Iss) (base : Nat) (d : Operand) (limit : Option Nat) : State :=
  if base < i.core.cap.alloc then s.endWith i d (BitVec.ofNat 32 i.core.cap.alloc) (.capacity base d limit)
  else s.keepWaiting i (.capacity base d limit)

/-- Read a word at its place for a wait: the warp's own quanta on it are applied first (04 R147), its region is placed, and a
copy of its line in the core's data cache gives way to what is read (04 R131). -/
def State.readHome (s : State) (i : Iss) (p : Piece) : Word × State :=
  let s := s.touch i [p] fun _ => false
  let s := match p.loc with
    | .global pa => ((s.place i.c pa p.plc p.die).cdcDrop i.c (pa / 64)).charge i.c 64
    | .folio _ _ => s
  (BitVec.ofNat 32 (s.locRead i.c p.loc 4), s)

/-- Whether a check that fails is one that frwait traps for (10 R330). -/
def waitTraps (cause : BitVec 8) : Bool :=
  cause == Cause.staleHandle || cause == Cause.folioBounds || cause == Cause.misaligned || cause == Cause.folioLost

/-- frwait.w (02 R73, 10 R328, 17 R495): the word is read in the folio, or at its home for a BACKED folio, when the wait issues, and
again where a write has made it differ; a poisoned line kills the context (03 R99). It waits on for a page that cannot be read,
whose traps its rule does not list (10 R330). `again` is none at its issue, else whether a write has met the word since.
(DEDUCED, notes/assumptions/40.md, 147.md) -/
def State.tryWord (s : State) (i : Iss) (h : Word) (off : Nat) (value : Word) (d : Operand) (limit : Option Nat)
    (again : Option Bool) : State :=
  let w : Wait := .folioWord h off value d limit
  let outs := [((lowLane i.f.mask).getD 0, s.probeLocal i .load false h off (BitVec.ofNat 64 off) 4 4)]
  match outs with
  | [(_, .go [p])] =>
    if p.poisonedHome s then s.poisonKill i
    else
      let met := again == some true
      let idle := again == some false && BitVec.ofNat 32 (s.locRead i.c p.loc 4) == value
      if idle || (i.quantumLock fun q => q.loc.overlaps q.bytes p.loc p.bytes).isSome then s.keepWaiting i w
      else
        let r := s.readHome i p
        if r.1 == value && !met then r.2.keepWaiting i w else r.2.endWith i d 0 w
  | [(_, .gone)] => if value == 0 then s.keepWaiting i w else s.endWith i d 0 w
  | [(_, .bad c sub x y f)] =>
    if waitTraps c then s.raise i { (i.trapReq c (if c == Cause.folioLost then 3 else sub) i.f.mask x y) with folio := f }
    else s.keepWaiting i w
  | [(_, .broken slot _)] =>
    s.foundErrors i outs fun s =>
      s.raise i { (i.trapReq Cause.folioLost 3 i.f.mask h (BitVec.ofNat 32 off)) with
        folio := some (i.core.folio slot).handler }
  | [(_, .fault _)] => (s.attachAll i .load outs (some i.f.mask)).keepWaiting i w
  | _ => (s.walksFor i .load outs (some i.f.mask)).keepWaiting i w

/-- The timeout of a frwait in microseconds (10 R323). -/
def waitLimit (f : RForm) : Nat := (f.ext.extractLsb' 2 16).toNat

/-- frwait.st (10 R328, 02 R73): waits until the folio is no longer REBINDING; D := its state. -/
def execFrwaitSt (f : RForm) (s : State) : Answer State :=
  .next (s.onIss fun i => s.scalarDo i f.guard [(f.a, 1)] fun s =>
    s.withFolio i f.a fun _ _ s => s.tryState i (i.s32 f.a 0) f.d (s.deadline (waitLimit f)))

/-- frwait.w (10 R328, 02 R73): waits until a word of the folio differs from a value; D := 0. (DEDUCED, notes/assumptions/40.md.) -/
def execFrwaitW (f : RForm) (s : State) : Answer State :=
  .next (s.onIss fun i => s.scalarDo i f.guard [(f.a, 1), (f.b, 1), (f.c, 1)] fun s =>
    s.tryWord i (i.s32 f.a 0) (i.s32 f.b 0).toNat (i.s32 f.c 0) f.d (s.deadline (waitLimit f)) none)

/-- frwait.cap (10 R328, 02 R73): waits until ALLOC exceeds its value at issue; D := the new ALLOC. -/
def execFrwaitCap (f : RForm) (s : State) : Answer State :=
  .next (s.onIss fun i => s.scalarDo i f.guard [] fun s =>
    s.tryCapacity i i.core.cap.alloc f.d (s.deadline (waitLimit f)))

end Sys2Proof.Machine
end

