-- ==== Sys2Proof/Machine/Matrix.lean ====
section
/-!
DEFINITION. The matrix engine (12 R353 to R376): tiles, quires, mmac with its stops and its governor, and the moves of
tiles.
-/
namespace Sys2Proof

/-- The tile of a Format X instruction. -/
def XForm.t (f : XForm) : Nat := f.tile.toNat

/-- The row of an mxv or mvx (12 R353). -/
def XForm.row (f : XForm) : Nat := (f.ext.extractLsb' 0 5).toNat

end Sys2Proof

namespace Sys2Proof.Machine

/-! Tiles (12 R355 to R357). -/

/-- The key of element [r][q] of a tile. -/
def tileKey (t r q : Nat) : Nat := 1024 * t + 32 * r + q

/-- Element [r][q] of a tile of a workgroup (12 R355). -/
def Wg.elem (g : Wg) (t r q : Nat) : Word := FMap.getD g.tile (tileKey t r q) 0

/-- Write elements of a tile, at keys 32 × r + q. -/
def Wg.putElems (g : Wg) (t : Nat) (rows : FMap Word) : Wg :=
  { g with tile := rows.foldl (fun m p => FMap.set m (1024 * t + p.1) p.2) g.tile }

/-- Whether the workgroup has no such tile (12 R355). -/
def Iss.noTile (i : Iss) (f : XForm) : Bool := decide (((i.wg.map (·.tiles)).getD 0) ≤ f.t)

/-- The TILE trap (12 R355). -/
def Iss.tileTrap (i : Iss) (f : XForm) : TrapReq :=
  i.trapReq Cause.accessViolation 0x11 i.f.mask (BitVec.ofNat 32 f.t) 0

/-- Whether a tile waits for the results of an mmac in its compute phase (12 R365). -/
def Iss.tileBusy (i : Iss) (f : XForm) : Bool :=
  match i.core.matrix.compute with
  | some c => c.wg == i.w.wg && c.tile == f.t
  | none => false

/-- A collective of the matrix engine that acts on more than its core (12 R354 to R356, R365). -/
def State.tileDo (s : State) (i : Iss) (f : XForm) (ops : List (Operand × Nat)) (act : State → State) : State :=
  match i.collective ops fun k => .ok k with
  | .stay k => s.setCore i.c k
  | .trap t => s.raise i t
  | .ok _ => if i.noTile f then s.raise i (i.tileTrap f) else if i.tileBusy f then s else act s

/-- MPROG of a stopped mmac (12 R357, R367). -/
def mprogOf (tile row : Nat) : Word := BitVec.ofNat 32 (2 ^ 31 + 2 ^ 24 * tile + row)

/-- MPROG with V cleared when it is of this tile (12 R357). -/
def clearProg (m : Word) (tile : Nat) : Word := if (m.extractLsb' 24 7).toNat == tile then m &&& 0x7FFF_FFFF else m

/-- mclr (12 R373): every element of the tile := +0. -/
def execMclr (f : XForm) (s : State) : Answer State :=
  .next (s.onIss fun i => s.tileDo i f [] fun s =>
    s.complete s i fun k =>
      .ok ((i.onWarp k fun w => { w with mprog := clearProg w.mprog f.t }).modWg i.w.wg fun g =>
        { g with tile := FMap.keep g.tile fun key _ => key / 1024 != f.t }))

/-- mxv (12 R376): D := three rows of the tile, in the live lanes. -/
def execMxv (f : XForm) (s : State) : Answer State :=
  .next (s.onIss fun i => s.tileDo i f [(f.d, 1)] fun s =>
    match i.wg with
    | none => s
    | some g =>
      let vals := lanesFrom fun l => g.elem f.t (f.row + l / 32) (l % 32)
      s.complete s i fun k => match f.d with
        | .v n => i.putLate n.toNat i.w.live vals k
        | _ => .ok k)

/-- mvx (12 R376): three rows of the tile := A, for the live lanes. -/
def execMvx (f : XForm) (s : State) : Answer State :=
  .next (s.onIss fun i => s.tileDo i f [(f.a, 1)] fun s =>
    let a := i.src false f.a 0
    let rows : FMap Word := (lanesOf i.w.live).map fun l => (32 * (f.row + l / 32) + l % 32, (a l).setWidth 32)
    s.complete s i fun k =>
      let k := i.lastReads f.lr [(f.a, 1)] i.w.live k
      .ok ((i.onWarp k fun w => { w with mprog := clearProg w.mprog f.t }).modWg i.w.wg fun g => g.putElems f.t rows))

/-! Moving tiles (12 R374, R375). -/

/-- The format of an mld or mst row. -/
def rowFmt (f : XForm) : Nat := (f.ext.extractLsb' 0 4).toNat

/-- The mantissa width of an xb row format (12 R374). -/
def rowM (fmt : Nat) : Nat := fmt - 2

/-- The bytes of a row (12 R374). -/
def rowBytes (fmt : Nat) : Nat :=
  match fmt with
  | 0 => 128
  | 1 | 2 => 64
  | _ => 4 * rowM fmt + 4

/-- The block length of an xb row. -/
def rowBlock (f : XForm) : Nat := blockLen (f.ext.extractLsb' 4 2).toNat

/-- The 16-bit format of a row or stream code: 1 bf16, 2 f16; binary32 otherwise. -/
def codeFmt (code : Nat) : FloatFmt :=
  match code with
  | 1 => FloatFmt.of .bf16
  | 2 => FloatFmt.of .f16
  | _ => FloatFmt.f32

/-- The elements of a row read from its bytes, as binary32 (12 R374, R375). -/
def rowElem (fmt len : Nat) (row : Nat → Nat) (e : Nat) : Nat :=
  match fmt with
  | 0 => (FloatFmt.f32.convert 0 (FloatFmt.f32.value (sumNat ((List.range 4).map fun j => row (4 * e + j) * 2 ^ (8 * j))))).bits
  | 1 | 2 => (FloatFmt.f32.convert 0 ((codeFmt fmt).value (row (2 * e) + 256 * row (2 * e + 1)))).bits
  | _ =>
    let m := rowM fmt
    let mant := sumNat ((List.range m).map fun p => bitsAt (row (4 * p + e / 8)) (e % 8) 1 * 2 ^ p)
    (FloatFmt.f32.unpack 0 m (row (4 * m + e / len)) (toSigned m mant)).bits

/-- The bytes of a row written from its elements (12 R374, R375). -/
def packRow (fmt len : Nat) (el : Nat → Nat) : List Byte :=
  match fmt with
  | 0 => (List.range 32).flatMap fun e => bytesOf 4 (el e)
  | 1 | 2 => (List.range 32).flatMap fun e => bytesOf 2 ((codeFmt fmt).convert 0 (FloatFmt.f32.value (el e))).bits
  | _ =>
    let m := rowM fmt
    let v (e : Nat) : FVal := FloatFmt.f32.value (el e)
    let exps := (List.range (32 / len)).map fun b => xbExp ((List.range len).map fun j => v (len * b + j))
    let mants := (List.range 32).map fun e => ((xbMant m (exps.getD (e / len) 0) (v e)).1 % (2 ^ m : Nat)).toNat
    let planes := (List.range m).flatMap fun p => (List.range 4).map fun b =>
      BitVec.ofNat 8 (sumNat ((List.range 8).map fun j => bitsAt (mants.getD (8 * b + j) 0) p 1 * 2 ^ j))
    planes ++ (List.range 4).map fun b => BitVec.ofNat 8 (exps.getD b 0)

/-- The checks of an mld or mst: every word of every row, in order (12 R375). (DEDUCED, notes/assumptions/51.md.) -/
def State.probeRows (s : State) (i : Iss) (f : XForm) (acc : Acc) : LaneOut :=
  let size := rowBytes (rowFmt f)
  let off := (i.s32 f.c 0).toNat
  let stride := match f.b with
    | .none => size
    | _ => (i.s32 f.b 0).toNat
  (List.range 32).foldl (fun o r => (List.range (size / 4)).foldl (fun o j =>
    let x := off + r * stride + 4 * j
    o.join (if f.xfl.extractLsb' 0 2 == 0 then s.probeGlobal i acc (i.s64 f.a 0 + BitVec.ofNat 64 x) 4 4
      else s.probeLocal i acc false (i.s32 f.a 0) (x : Nat) (BitVec.ofNat 64 x) 4 4)) o) (.go [])

/-- mld (12 R374, R375): the tile := 32 rows of memory, each element as binary32. (DEDUCED, notes/assumptions/51.md.) -/
def execMld (f : XForm) (s : State) : Answer State :=
  .next (s.onIss fun i => s.tileDo i f [(f.a, 2), (f.b, 1), (f.c, 1)] fun s =>
    let o := s.probeRows i f .load
    if s.poisoned i.c 0 o.pieces then s.poisonKill i
    else
      s.access i .load [((lowLane i.f.mask).getD 0, o)] (some i.f.mask) (some 0) fun _ go s =>
        let s := s.touch i (allPieces go) fun _ => false
        let r := (allPieces go).foldl (fun (a : List Nat × State) p =>
          let x := a.2.loadPiece i.c 0 p
          (x.1 :: a.1, x.2)) ([], s)
        let words := r.1.reverse.toArray
        let size := rowBytes (rowFmt f)
        let byte (row j : Nat) : Nat := bitsAt (words.getD ((row * size + j) / 4) 0) (8 * (j % 4)) 8
        let rows : FMap Word := (List.range 1024).map fun k =>
          (k, BitVec.ofNat 32 (rowElem (rowFmt f) (rowBlock f) (byte (k / 32)) (k % 32)))
        (r.2, fun k => .ok ((i.onWarp k fun w => { w with mprog := clearProg w.mprog f.t }).modWg i.w.wg fun g =>
          g.putElems f.t rows)))

/-- mst (12 R374, R375): 32 rows of memory := the tile, in a format. -/
def execMst (f : XForm) (s : State) : Answer State :=
  .next (s.onIss fun i => s.tileDo i f [(f.a, 2), (f.b, 1), (f.c, 1)] fun s =>
    match i.wg with
    | none => s
    | some g =>
      let bytes := (List.range 32).flatMap fun r =>
        packRow (rowFmt f) (rowBlock f) fun e => (g.elem f.t r e).toNat
      let arr := bytes.toArray
      let word (n : Nat) : Nat := leOf ((List.range 4).map fun j => arr.getD (4 * n + j) 0)
      s.access i .store [((lowLane i.f.mask).getD 0, s.probeRows i f .store)] (some i.f.mask) (some 0) fun _ go s =>
        let s := s.touch i (allPieces go) fun _ => false
        let l := allPieces go
        (((List.range l.length).zip l).foldl (fun s p => s.storePiece i.c p.2 (word p.1)) s, fun k => .ok k))

/-! Quires (12 R358 to R363). -/

/-- A slot of a quire table as context creation leaves it (12 R358). -/
def Quire.fresh : Quire := { gen := 1, valid := false, words := List.replicate 8 0 }

/-- A word of a quire record. -/
def Quire.word (q : Quire) (n : Nat) : Dword := q.words.getD n 0
/-- FMT. -/
def Quire.fmt (q : Quire) : Nat := ((q.word 1).extractLsb' 42 4).toNat
/-- BLK. -/
def Quire.blk (q : Quire) : Nat := ((q.word 1).extractLsb' 40 2).toNat
/-- LOC. -/
def Quire.isLocal (q : Quire) : Bool := (q.word 1).getLsbD 46
/-- NROWS. -/
def Quire.nrows (q : Quire) : Nat := ((q.word 1).extractLsb' 0 32).toNat
/-- RSTRIDE. -/
def Quire.rstride (q : Quire) : Nat := ((q.word 2).extractLsb' 0 32).toNat
/-- SSTRIDE. -/
def Quire.sstride (q : Quire) : Nat := ((q.word 2).extractLsb' 32 32).toNat
/-- KLEN. -/
def Quire.klen (q : Quire) : Nat := ((q.word 4).extractLsb' 0 32).toNat
/-- Whether the operand is in a block format. -/
def Quire.isXb (q : Quire) : Bool := decide (q.fmt ≤ 6)
/-- The mantissa width m. -/
def Quire.m (q : Quire) : Nat := q.fmt + 2
/-- The plane-cycles of an operand: its mantissa width, 16 for a 16-bit format (12 R365). -/
def Quire.cost (q : Quire) : Nat := if q.isXb then q.m else 16

/-- The slot of a context's quire table. -/
def State.quire (s : State) (ctx : CtxKey) (slot : Nat) : Quire :=
  match FMap.get s.ctxs ctx with
  | some c => FMap.getD c.quires slot Quire.fresh
  | none => Quire.fresh

/-- Write a slot of a context's quire table; every core's copy of it is discarded with it (12 R363). -/
def State.setQuire (s : State) (ctx : CtxKey) (slot : Nat) (q : Quire) : State :=
  s.modCtx ctx fun c => { c with quires := FMap.set c.quires slot q }

/-- The record that a quire handle names, where it is live (12 R358). -/
def State.liveQuire (s : State) (ctx : CtxKey) (h : Word) : Option Quire :=
  let q := s.quire ctx (handleSlot h)
  if handleGen h != 0 && decide (handleSlot h < 1024) && q.gen == handleGen h && q.valid then some q else none

/-- The trap of a quire handle that is not live (12 R358). -/
def Iss.staleQuire (i : Iss) (h : Word) : TrapReq := i.trapReq Cause.staleHandle 0 i.f.mask h 1

/-- Whether an address is non-canonical (01 R12). -/
def nonCanonical (a : Dword) : Bool := a.extractLsb' 57 7 != (if a.getLsbD 56 then 0x7F#7 else 0#7)

/-- Whether a word of a record offends (12 R359, R361). -/
def quireOffends (q : Quire) (n : Nat) : Bool :=
  match n with
  | 0 =>
    if q.isLocal then (q.word 0).extractLsb' 32 2 != 0 else nonCanonical (q.word 0) || (q.word 0).extractLsb' 0 2 != 0
  | 1 =>
    q.fmt == 7 || decide (10 ≤ q.fmt) || ((q.fmt == 8 || q.fmt == 9) && q.blk != 0) || q.nrows == 0 ||
      (q.word 1).extractLsb' 32 8 != 0
  | 2 => (q.word 2).extractLsb' 0 2 != 0
  | 3 =>
    q.isXb && (if q.isLocal then (q.word 3).extractLsb' 0 2 != 0 || (q.word 3).extractLsb' 32 32 != 0
      else nonCanonical (q.word 3))
  | 4 => q.klen == 0 || decide (2 ^ 31 ≤ q.klen) || (q.word 4).extractLsb' 32 32 != 0
  | _ => q.word n != 0

/-- What BADQUIRE reports for a record and a slot number (12 R361). -/
def quireBad (q : Quire) (slot : Nat) : Option Nat :=
  match (List.range 8).find? fun n => quireOffends q n with
  | some n => some (8 * n)
  | none => if 1024 ≤ slot then some 64 else none

/-- A slot after qinv (12 R362). -/
def Quire.invalidate (q : Quire) : Quire := { q with valid := false, gen := nextGen q.gen }

/-- The record words of a qmk with V and GEN cleared. -/
def quireOf (words : List Dword) : Quire :=
  { gen := 0, valid := false, words := words.mapIdx fun n w => if n == 1 then w &&& 0x00007FFF_FFFFFFFF else w }

/-- Check a record and write it: the handle, or the trap (12 R361). -/
def State.writeQuire (s : State) (i : Iss) (slot : Nat) (words : List Dword) : TrapReq ⊕ (Word × State) :=
  let q := quireOf words
  match quireBad q slot with
  | some off => .inl (i.trapReq Cause.matrixOperand 1 i.f.mask (BitVec.ofNat 32 off) 0)
  | none =>
    let old := s.quire i.ctx slot
    let gen := if old.valid then nextGen old.gen else old.gen
    .inr (handleOf slot gen, s.setQuire i.ctx slot { q with gen := gen, valid := true })

/-- The record words of a qmk of register form (12 R361). -/
def qmkWords (f : XForm) (r : Nat → Word) : List Dword :=
  let loc : Word := if f.ext.getLsbD 6 then 0x4000 else 0
  [r 1 ++ r 0,
   (loc ||| ((f.ext.extractLsb' 0 4).setWidth 32 <<< 10) ||| ((f.ext.extractLsb' 4 2).setWidth 32 <<< 8)) ++ r 6,
   r 5 ++ r 4, r 3 ++ r 2, (0 : Word) ++ r 7, 0, 0, 0]

/-- qmk (12 R361): writes a quire record from eight registers; D := its handle. -/
def execQmk (f : XForm) (s : State) : Answer State :=
  .next (s.onIss fun i => s.scalarDo i f.guard [(f.a, 8), (f.b, 1)] fun s =>
    let reg (j : Nat) : Word := match f.a with
      | .s n => i.w.readS i.f (n.toNat + j)
      | _ => 0
    match s.writeQuire i (i.s32 f.b 0).toNat (qmkWords f reg) with
    | .inl t => s.raise i t
    | .inr (h, t) => s.complete t i (i.lenient.put32 f.d h))

/-- qmk.m (12 R361): writes a quire record read from memory, as lds.b64 reads it; D := its handle. -/
def execQmkM (f : XForm) (s : State) : Answer State :=
  .next (s.onIss fun i => s.scalarDo i f.guard [(f.a, 2), (f.b, 1)] fun s =>
    let va := i.s64 f.a 0
    if va.extractLsb' 0 6 != 0 then
      s.raise i (i.trapReq Cause.misaligned 2 i.f.mask (va.extractLsb' 0 32) (va.extractLsb' 32 32))
    else
      let o := (List.range 8).foldl (fun (o : LaneOut) j =>
        o.join (s.probeGlobal i .load (va + BitVec.ofNat 64 (8 * j)) 8 8)) (.go [])
      if s.poisoned i.c 0 o.pieces then s.poisonKill i
      else
        s.access i .load [((lowLane i.f.mask).getD 0, o)] (some i.f.mask) (some 0) fun _ go s =>
          let s := s.touch i (allPieces go) fun _ => false
          let r := (allPieces go).foldl (fun (a : List Dword × State) p =>
            let x := a.2.loadPiece i.c 0 p
            (a.1 ++ [BitVec.ofNat 64 x.1], x.2)) ([], s)
          match r.2.writeQuire i (i.s32 f.b 0).toNat r.1 with
          | .inl t => (s, fun _ => .trap t)
          | .inr (h, t) => (t, i.lenient.put32 f.d h))

/-- qinv (12 R362): the slot's V := 0 and its GEN advances. -/
def execQinv (f : XForm) (s : State) : Answer State :=
  .next (s.onIss fun i => s.scalarDo i f.guard [(f.a, 1)] fun s =>
    let h := i.s32 f.a 0
    match s.liveQuire i.ctx h with
    | none => s.raise i (i.staleQuire h)
    | some q => (s.setQuire i.ctx (handleSlot h) q.invalidate).modFrag i.c i.wi i.fi Frag.finish)

/-! mmac (12 R364 to R371). -/

/-- A byte of an operand: an offset from BASE, or from SBASE. -/
structure OperandByte where
  exps : Bool
  off : Nat

/-- How many elements of a row lie in chunk c of K (12 R360). -/
def Quire.inChunk (q : Quire) (row c : Nat) : Nat :=
  let k := if q.isXb then 96 else 48
  if q.nrows ≤ row then 0 else Nat.min k (q.klen - k * c)

/-- The bytes that hold the elements of a row in a chunk, in order (12 R360, 09 R288). -/
def Quire.rowBytes (q : Quire) (row c : Nat) : List OperandByte :=
  let n := q.inChunk row c
  let base := row * q.rstride
  if q.isXb then
    let len := blockLen q.blk
    ((List.range q.m).flatMap fun p => (List.range ((n + 7) / 8)).map fun b =>
      { exps := false, off := base + c * (12 * q.m) + 12 * p + b : OperandByte }) ++
    (List.range ((n + len - 1) / len)).map fun b =>
      { exps := true, off := row * q.sstride + c * (96 / len) + b : OperandByte }
  else (List.range (2 * n)).map fun b => { exps := false, off := base + 96 * c + b : OperandByte }

/-- The elements of a row in a chunk, from those bytes; past the row's end they are +0 (12 R360, 09 R287). -/
def Quire.rowElems (q : Quire) (row c : Nat) (bytes : Array Nat) : List FVal :=
  let n := q.inChunk row c
  let at' (j : Nat) : Nat := bytes.getD j 0
  (List.range (if q.isXb then 96 else 48)).map fun k =>
    if n ≤ k then .num false 0 0
    else if q.isXb then
      let w := (n + 7) / 8
      let mant := sumNat ((List.range q.m).map fun p => bitsAt (at' (p * w + k / 8)) (k % 8) 1 * 2 ^ p)
      xbValue q.m (at' (q.m * w + k / blockLen q.blk)) (toSigned q.m mant)
    else (FloatFmt.of (if q.fmt == 8 then .bf16 else .f16)).value (at' (2 * k) + 256 * at' (2 * k + 1))

/-- The checks of one byte of an operand (12 R360, 02 R59). -/
def State.probeByte (s : State) (i : Iss) (q : Quire) (b : OperandByte) : LaneOut :=
  if q.isLocal then
    let h : Word := (q.word 0).extractLsb' 0 32
    let off := (if b.exps then ((q.word 3).extractLsb' 0 32).toNat else ((q.word 0).extractLsb' 32 32).toNat) + b.off
    let back := ((s.core i.c).liveFolio i.ctx h).map (·.2.backing) |>.getD 0
    s.probeLocal i .engineRead false h (off : Nat) (back + BitVec.ofNat 64 off) 1 1
  else
    let va := (if b.exps then q.word 3 else q.word 0) + BitVec.ofNat 64 b.off
    s.probeVa i .engineRead va va 1 false

/-- Why reading a row stopped. -/
inductive RowStop where
  | out (o : LaneOut)
  | poison
  /-- a request waits for a grant of bytes, or for an entry of the line class table (03 R120, 15 R455) -/
  | wait (s : State)

/-- The state in which a request of an mmac's operand read waits, if it does: for a grant of bytes, or for an entry of the line class
table (03 R120, 15 R455). -/
def State.operandWait (s : State) (i : Iss) (p : Piece) : Option State :=
  if s.cdcHit i.c 2 p then none
  else if !(s.core i.c).linesFit (requestLines [(0, [p])]) then some s
  else if s.waitsGrant i.c .load (some 2) [p] then some (s.holdGrant i.c .load (some 2) [p])
  else none

/-- Read bytes of an operand through the data cache (12 R366). -/
def State.readBytes (s : State) (i : Iss) (q : Quire) : List OperandByte → List Nat → RowStop ⊕ (List Nat × State)
  | [], acc => .inr (acc.reverse, s)
  | b :: rest, acc =>
    match s.probeByte i q b with
    | .go [p] =>
      if s.poisoned i.c 2 [p] then .inl .poison
      else if let some t := s.operandWait i p then .inl (.wait t)
      else
        let r := (s.touch i [p] fun _ => false).loadPiece i.c 2 p
        r.2.readBytes i q rest (r.1 :: acc)
    | .gone => s.readBytes i q rest (0 :: acc)
    | o => .inl (.out o)

/-- Read the elements of a row (12 R360, R365). -/
def State.readRow (s : State) (i : Iss) (q : Quire) (row c : Nat) : RowStop ⊕ (List FVal × State) :=
  match s.readBytes i q (q.rowBytes row c) [] with
  | .inl e => .inl e
  | .inr (l, s) => .inr (q.rowElems row c l.toArray, s)

/-- SUM32 (12 R364). -/
def sum32 (acc : Nat) (a b : List FVal) : Nat :=
  let l := FloatFmt.f32.value acc :: (a.zip b).map fun p => (p.1.mul p.2).1
  if l.any FVal.isNan then FloatFmt.f32.nan else (FloatFmt.f32.sum 0 l).bits

/-- Read the rows of B from some on. -/
def State.readB (s : State) (i : Iss) (q : Quire) (base c : Nat) :
    List Nat → List (List FVal) → RowStop ⊕ (List (List FVal) × State)
  | [], acc => .inr (acc.reverse, s)
  | r :: rest, acc =>
    match s.readRow i q (base + r) c with
    | .inl e => .inl e
    | .inr (l, t) => t.readB i q base c rest (l :: acc)

/-- An mmac whose operands are known: the element it starts from, and the rows of B. -/
structure Product where
  old : Nat → Nat → Nat
  cols : List (List FVal)

/-- Read the rows of A in ascending order and compute each (12 R364, R365): the rows computed, with the first row that
is not and why. -/
def State.rowsOfA (s : State) (i : Iss) (q : Quire) (base c : Nat) (p : Product) :
    List Nat → FMap Word → FMap Word × Option (Nat × RowStop) × State
  | [], rows => (rows, none, s)
  | r :: rest, rows =>
    match s.readRow i q (base + r) c with
    | .inl e => (rows, some (r, e), s)
    | .inr (l, t) =>
      let new : FMap Word := ((List.range 32).zip p.cols).map fun col =>
        (32 * r + col.1, BitVec.ofNat 32 (sum32 (p.old r col.1) l col.2))
      t.rowsOfA i q base c p rest (rows ++ new)

/-- The window of the governor that a core clock lies in (12 R369). -/
def Matrix.windowOf (m : Matrix) (now : Nat) : Nat := now / m.window

/-- The charge of the window of a core clock. -/
def Matrix.chargeAt (m : Matrix) (now : Nat) : Nat := if m.winIdx == m.windowOf now then m.charge else 0

/-- Whether an mmac of a cost may start (12 R369). -/
def Matrix.admits (m : Matrix) (now cost : Nat) : Bool :=
  m.chargeAt now == 0 || decide (m.chargeAt now + cost ≤ m.budget)

/-- The gated sub-arrays among those that rows from one on need (12 R370). -/
def Matrix.gatedFor (m : Matrix) (start : Nat) : Bool :=
  (List.range 4).any fun j => decide (start / 8 ≤ j) && m.gated.getLsbD j

/-- Whether an mmac still waits for sub-arrays to wake: WAKE core cycles from when it first needed a gated one, neither more nor less
(12 R370, 15 R458). -/
def Matrix.mustWait (m : Matrix) (now start : Nat) : Bool :=
  match m.wantWake with
  | some since => decide (now < since + m.wake.toNat)
  | none => m.gatedFor start

/-- The sub-arrays that rows from one on need are awake when the wait is over (15 R458). -/
def Matrix.awake (m : Matrix) (start : Nat) : Matrix :=
  if m.wantWake.isNone then m
  else { m with gated := (List.range 4).foldl (fun g j => if start / 8 ≤ j then g &&& ~~~(1#4 <<< j) else g) m.gated }

/-- The governor in the window of a core clock: a new one begins with no charge, and that of the window just before it is kept
(12 R369, 15 R459). -/
def Matrix.roll (m : Matrix) (now : Nat) : Matrix :=
  if m.winIdx == m.windowOf now then m
  else { m with winIdx := m.windowOf now, charge := 0, last := if m.winIdx + 1 == m.windowOf now then m.charge else 0 }

/-- The engine after an mmac of a cost starts (12 R369): a ballast series is reduced by its plane-cycles (15 R459). -/
def Matrix.start (m : Matrix) (now cost : Nat) : Matrix :=
  { ((m.roll now).endWait now) with
    charge := m.chargeAt now + cost, wantWake := none
    ballast := if m.service.isSome then m.ballast - cost else m.ballast }

/-- The sub-arrays that the rows of a tile run on become idle at an instant: 8 rows each (12 R370). -/
def Matrix.idle (m : Matrix) (rows : List Nat) (now : Nat) : Matrix :=
  { m with idleSince := (List.range 4).foldl (fun x j => if rows.any fun r => r / 8 == j then FMap.set x j now else x) m.idleSince }

/-- The rows of a tile that some of its elements, numbered 32 × row + column, lie in. -/
def rowsIn (l : FMap Word) : List Nat := ((FMap.keys l).map (· / 32)).eraseDups

/-- The rows that an mmac has computed are written, MPROG tells the first that is not, and the engine is done with it: what every
stop leaves (12 R367). -/
def State.haltMmac (s : State) (i : Iss) (f : XForm) (rows : FMap Word) (row cost : Nat) : State :=
  s.modCore i.c fun k =>
    { ((i.onWarp k fun w => { w with mprog := mprogOf f.t row }).modWg i.w.wg fun g => g.putElems f.t rows) with
      matrix := (k.matrix.start (s.cluster (clusterOf i.c)).rawcyc cost).idle (row :: rowsIn rows) s.refTime }

/-- Stop an mmac (12 R367): the fragment parks whole, no lane of it keeping a lock bit (03 R103), or traps. Where a read only has to
wait, for a walk or for its request, the mmac keeps the records it read and begins anew (12 R363). -/
def State.stopMmac (s : State) (i : Iss) (f : XForm) (q : Quire × Quire) (rows : FMap Word) (row : Nat) (why : RowStop) : State :=
  let cost := q.1.cost
  let keep (s : State) : State := s.modFrag i.c i.wi i.fi fun x => { x with quires := some q }
  let prog := mprogOf f.t row
  let s1 := s.haltMmac i f rows row cost
  let lane := (lowLane i.f.mask).getD 0
  match why with
  | .poison => s.poisonKill i
  | .out (.fault l) =>
    let outs := [(lane, LaneOut.fault l)]
    ((s1.modFrag i.c i.wi i.fi fun g => { g with
      state := .parked, pend := g.mask, notes := [], age := 0, quires := none
      fids := (faultRefs outs (some i.f.mask)).map fun r => { r with matrix := true } }).attachAll i .load outs (some i.f.mask)).modCore
        i.c fun k => k.dropLaneLocks i.wi i.f.mask
  | .out (.broken slot _) =>
    s1.foundErrors i [(lane, .broken slot 0)] fun s =>
      let fo := i.core.folio slot
      s.raise i { (i.trapReq Cause.folioLost 4 i.f.mask (handleOf slot fo.gen) prog) with folio := some fo.handler }
  | .out (.bad c _ x y fo) =>
    let t := if c == Cause.folioLost then { (i.trapReq c 4 i.f.mask x prog) with folio := fo }
      else if c == Cause.staleHandle || c == Cause.folioBounds then i.trapReq c 0 i.f.mask x 0
      else i.trapReq Cause.matrixOperand (if c == Cause.pageFatal then 3 else 4) i.f.mask x y
    s1.raise i t
  | .out o => keep (s.walksFor i .engineRead [(lane, o)] (some i.f.mask))
  | .wait t => keep t

/-- The first row of an mmac (12 R364). -/
def startRow (prog : Word) (tile : Nat) : Nat :=
  if prog.getLsbD 31 && (prog.extractLsb' 24 7).toNat == tile then (prog.extractLsb' 0 6).toNat else 0

/-- The operand phase of an mmac (12 R364, R365): B first, then A row by row; then the compute phase holds its rows.
(DEDUCED, notes/assumptions/50.md.) -/
def State.operandPhase (s : State) (i : Iss) (f : XForm) (qa qb : Quire) : State :=
  let sel := (i.s32 f.c 0).toNat
  let c := bitsAt sel 24 8
  let j := bitsAt sel 12 12
  let r := bitsAt sel 0 12
  let start := startRow i.w.mprog f.t
  let now := (s.cluster (clusterOf i.c)).rawcyc
  match s.readB i qb (32 * j) c (List.range 32) [] with
  | .inl e => s.stopMmac i f (qa, qb) [] start e
  | .inr (cols, s1) =>
    let old (a b : Nat) : Nat := match i.wg with
      | some g => if f.xfl.getLsbD 0 then 0 else (g.elem f.t a b).toNat
      | none => 0
    let p : Product := { old := old, cols := cols }
    let run := s1.rowsOfA i qa (32 * r) c p ((List.range 32).drop start) []
    match run.2.1 with
    | some (row, e) => run.2.2.stopMmac i f (qa, qb) run.1 row e
    | none =>
      run.2.2.complete run.2.2 i fun k =>
        .ok { (i.onWarp k fun w => { w with mprog := w.mprog &&& 0x7FFF_FFFF }) with
          matrix := { (k.matrix.start now qa.cost) with
            compute := some { wg := i.w.wg, tile := f.t, rows := run.1 } } }

/-- The operand phase of an mmac that a save stops after some A rows, MPROG telling the next: none where its reads do not all succeed
or no row is left (12 R367). -/
def State.cutMmac (s : State) (i : Iss) (f : XForm) (qa qb : Quire) (n : Nat) : Option State :=
  let sel := (i.s32 f.c 0).toNat
  let c := bitsAt sel 24 8
  let start := startRow i.w.mprog f.t
  match s.readB i qb (32 * bitsAt sel 12 12) c (List.range 32) [] with
  | .inl _ => none
  | .inr (cols, s1) =>
    let old (a b : Nat) : Nat := match i.wg with
      | some g => if f.xfl.getLsbD 0 then 0 else (g.elem f.t a b).toNat
      | none => 0
    let run := s1.rowsOfA i qa (32 * bitsAt sel 0 12) c { old := old, cols := cols } (((List.range 32).drop start).take n) []
    if run.2.1.isSome || decide (32 ≤ start + n) then none else some (run.2.2.haltMmac i f run.1 (start + n) qa.cost)

/-- The records of an mmac's operands: those it read when it issued, or those the handles name now (12 R363). -/
def State.mmacRecords (s : State) (i : Iss) (f : XForm) : Option Quire × Option Quire :=
  match i.f.quires with
  | some q => (some q.1, some q.2)
  | none => (s.liveQuire i.ctx (i.s32 f.a 0), s.liveQuire i.ctx (i.s32 f.b 0))

/-- mmac (12 R364 to R370): the tile := the tile, or +0, plus the product of a row tile of A and a column tile of B. While it waits
for the engine, a sub-array or budget it keeps the records it read (12 R363). (DEDUCED, notes/assumptions/50.md.) -/
def execMmac (f : XForm) (s : State) : Answer State :=
  .next (s.onIss fun i => s.tileDo i f [(f.a, 1), (f.b, 1), (f.c, 1)] fun s =>
    match s.mmacRecords i f with
    | (none, _) => s.raise i (i.staleQuire (i.s32 f.a 0))
    | (_, none) => s.raise i (i.staleQuire (i.s32 f.b 0))
    | (some qa, some qb) =>
      let m := (s.core i.c).matrix
      let now := (s.cluster (clusterOf i.c)).rawcyc
      let waits (g : Matrix → Matrix) : State :=
        (s.modCore i.c fun k => { k with matrix := g k.matrix }).modFrag i.c i.wi i.fi fun x => { x with quires := some (qa, qb) }
      if qa.isXb != qb.isXb then s.raise i (i.trapReq Cause.matrixOperand 2 i.f.mask 0 0)
      else if m.compute.isSome then waits id
      else if m.mustWait now (startRow i.w.mprog f.t) then waits fun m => { m with wantWake := some (m.wantWake.getD now) }
      else if !m.admits now qa.cost then waits fun m => { m with waitSince := some (m.waitSince.getD (i.w.uid, now)) }
      else (s.modCore i.c fun k => { k with matrix := k.matrix.awake (startRow i.w.mprog f.t) }).operandPhase i f qa qb)

/-- MMAC_COMPLETE (12 R365): the rows of the compute phase are written to the tile. -/
def execMmacComplete (core : Nat) (s : State) : Answer State :=
  .next (s.clocked core (match (s.core core).matrix.compute with
    | none => s
    | some c => s.modCore core fun k =>
        { (k.modWg c.wg fun g => g.putElems c.tile c.rows) with
          matrix := { k.matrix.idle (rowsIn c.rows) s.refTime with compute := none } }))

/-- pwrh (12 R372): declares a burst; a gated sub-array's wake may begin ahead of it, and nothing else changes.
(DEDUCED, notes/assumptions/52.md.) -/
def execPwrh (_f : XForm) (s : State) : Answer State :=
  .next (s.onIss fun i => if i.spec then s else s.modFrag i.c i.wi i.fi Frag.finish)

end Sys2Proof.Machine
end

