-- ==== Sys2Proof/Machine/EngineLib.lean ====
section
/-!
DEFINITION. Engine operations in flight (12 R377 to R390, 04 R152 to R156, 17 R496): where their words lie, reading and
writing one word, gathering slots (03 R105 to R108), and completion.
-/
namespace Sys2Proof.Machine

/-! Gathering records (03 R105 to R107). -/

/-- The slot size in bytes. -/
def Gath.size (g : Gath) : Nat := 64 * (g.slotsz + 1)
/-- The number of slots. -/
def Gath.count (g : Gath) : Nat := g.nslot + 1
/-- FREE (03 R106). -/
def Gath.free (g : Gath) : Nat := g.count - g.res - g.fill - g.held
/-- The byte offset of a slot in the folio. -/
def Gath.slotOff (g : Gath) (slot : Nat) : Nat := 64 * g.off + g.size * slot

/-- Reserve slot PI (03 R107). -/
def Gath.reserve (g : Gath) : Gath :=
  { g with res := g.res + 1, pi := (g.pi + 1) % g.count, order := g.order ++ [(g.pi, false)] }

/-- Slots whose data is complete fill in reservation order (03 R107): how many at the head, and what stays. -/
def fillRun : List (Nat × Bool) → Nat × List (Nat × Bool)
  | (_, true) :: rest => ((fillRun rest).1 + 1, (fillRun rest).2)
  | l => (0, l)

/-- A reserved slot's data is complete (03 R107). -/
def Gath.complete (g : Gath) (slot : Nat) : Gath :=
  let marked := g.order.map fun p => if p.1 == slot then (p.1, true) else p
  let r := fillRun marked
  { g with order := r.2, res := g.res - r.1, fill := g.fill + r.1 }

/-- Change a gathering record. -/
def State.modGath (s : State) (c rec : Nat) (f : Gath → Gath) : State :=
  s.modCore c fun k => { k with gath := FMap.modify k.gath rec f }

/-! Where words lie. -/

/-- Where one word of an operation lies. -/
inductive Spot where
  | va (a : Dword)
  | folio (h : Word) (off : Nat)
  | remote (a : Dword)
  | zero
  deriving DecidableEq, Repr

/-- A byte offset from an end, in a gathering's reserved slot where it is one (12 R380). -/
def Core.spot (k : Core) (o : EngineOp) (e : End) (off : Nat) : Option Spot :=
  match e with
  | .global va => some (.va (BitVec.ofNat 64 (va + off)))
  | .loc h x => some (.folio h (x + off))
  | .remote _ va => some (.remote (BitVec.ofNat 64 (va + off)))
  | .gather rec x =>
    match o.slot, FMap.get k.gath rec with
    | some (_, slot), some g => some (.folio g.handle (g.slotOff slot + x + off))
    | _, _ => none

/-! The stitch record (12 R388, R389). -/

/-- A stitch operation of a record. -/
structure StitchOp where
  code : Nat
  y : Nat
  const : Nat

/-- A word of the record. -/
def EngineOp.w (o : EngineOp) (n : Nat) : Dword := o.record.getD n 0
/-- COUNT. -/
def EngineOp.count (o : EngineOp) : Nat := ((o.w 4).extractLsb' 32 32).toNat
/-- F0, F1 and F2: 3 for an absent stream. -/
def EngineOp.streamFmt (o : EngineOp) (n : Nat) : Nat := ((o.w 4).extractLsb' (30 - 2 * n) 2).toNat
/-- DFMT. -/
def EngineOp.dfmt (o : EngineOp) : Nat := ((o.w 4).extractLsb' 22 4).toNat
/-- DBLK. -/
def EngineOp.dblk (o : EngineOp) : Nat := ((o.w 4).extractLsb' 20 2).toNat
/-- Whether the destination is in a block format. -/
def EngineOp.xbDst (o : EngineOp) : Bool := decide (4 ≤ o.dfmt)
/-- The mantissa width of a block destination. -/
def EngineOp.xm (o : EngineOp) : Nat := o.dfmt - 2
/-- The element size of a stream or destination code. -/
def codeSize (c : Nat) : Nat := if c == 0 then 4 else 2
/-- The streams that are present. -/
def EngineOp.streams (o : EngineOp) : List Nat := (List.range 3).filter fun n => o.streamFmt n != 3

/-- The operations applied: those before the first END (12 R389). (DEDUCED, notes/assumptions/54.md.) -/
def EngineOp.steps (o : EngineOp) : List StitchOp :=
  let bits := (o.w 5).toNat + 2 ^ 64 * (o.w 6).toNat + 2 ^ 128 * (o.w 7).toNat
  ((List.range 8).map fun k =>
    { code := bitsAt bits (24 * k + 18) 6, y := bitsAt bits (24 * k + 16) 2, const := bitsAt bits (24 * k) 16 : StitchOp }).takeWhile
    fun x => x.code != 0

/-- Whether an operation has an operand y. -/
def StitchOp.binary (x : StitchOp) : Bool := decide (1 ≤ x.code) && decide (x.code ≤ 6)

/-- Whether a record breaks a rule of 12 R388 or R389. (DEDUCED, notes/assumptions/54.md.) -/
def EngineOp.badRecord (o : EngineOp) : Bool :=
  let half := o.streams.any (fun n => codeSize (o.streamFmt n) == 2) || o.dfmt == 1 || o.dfmt == 2
  (List.range 4).any (fun n => (o.w n).extractLsb' 0 2 != 0) || o.count == 0 || decide (2 ^ 24 < o.count) ||
    o.streamFmt 0 == 3 || o.dfmt == 3 || decide (10 < o.dfmt) || (!o.xbDst && o.dblk != 0) ||
    (o.xbDst && o.streamFmt 2 != 3) || (half && o.count % 2 != 0) || (o.xbDst && o.count % 96 != 0) ||
    (o.w 4).extractLsb' 0 20 != 0 ||
    o.steps.any fun x => decide (15 < x.code) || (x.binary && decide (x.y < 3) && o.streamFmt x.y == 3)

/-- The bytes from each address of the record: the streams, the destination, the exponents (12 R388). -/
def EngineOp.extents (o : EngineOp) : List (Dword × Nat) :=
  (o.streams.map fun n => (o.w n, o.count * codeSize (o.streamFmt n))) ++
    (if o.xbDst then [(o.w 3, o.count / 96 * (12 * o.xm)), (o.w 2, o.count / blockLen o.dblk)]
      else [(o.w 3, o.count * codeSize o.dfmt)])

/-- A generic address of an engine: a byte of a folio by its window's slot and 12 bits of generation, or a global address; none for
the private window (12 R390, 01 R16 to R18). A pointer to no live folio gives a handle that is not live. -/
def Core.genericSpot (k : Core) (ctx : CtxKey) (a : Dword) (off : Nat) : Option Spot :=
  if a.extractLsb' 48 16 == 0xFFFD#16 then none
  else if a.extractLsb' 48 16 == 0xFFFE#16 then
    let slot := (a.extractLsb' 36 12).toNat
    let f := k.folio slot
    let live := f.gen.extractLsb' 0 12 == a.extractLsb' 24 12 && f.state != .free && f.ctx == ctx
    some (.folio (handleOf slot (if live then f.gen else (a.extractLsb' 24 12).setWidth 16)) ((a.extractLsb' 0 24).toNat + off))
  else some (.va (a + BitVec.ofNat 64 off))

/-- Whether an end of a record fails its check (12 R390). -/
def Core.badEnd (k : Core) (ctx : CtxKey) (e : Dword × Nat) : Bool :=
  match k.genericSpot ctx e.1 0 with
  | none => true
  | some (.folio h off) => match k.liveFolio ctx h with
    | none => true
    | some (_, f) => decide (512 * f.size < off + e.2)
  | some _ => false

/-- The words that a stitch operation writes: those of the destination, then those of the exponents.
(DESIGN CHOICE, notes/assumptions/53.md.) -/
def EngineOp.stitchWords (o : EngineOp) : Nat :=
  if o.xbDst then o.count / 96 * (3 * o.xm) + (o.count / blockLen o.dblk + 3) / 4 else o.count * codeSize o.dfmt / 4

/-- The elements that a destination word is made of (12 R389). -/
def EngineOp.elemsOf (o : EngineOp) (n : Nat) : List Nat :=
  if !o.xbDst then
    if codeSize o.dfmt == 4 then [n] else [2 * n, 2 * n + 1]
  else
    let rows := o.count / 96 * (3 * o.xm)
    if n < rows then
      -- every element of the blocks that the 32 elements of the word lie in
      let len := blockLen o.dblk
      let first := 96 * (n / (3 * o.xm)) + 32 * (n % 3)
      let lo := first / len * len
      let hi := (first + 31) / len * len + len
      (List.range (hi - lo)).map (lo + ·)
    else
      let len := blockLen o.dblk
      ((List.range (4 * len)).map (4 * len * (n - rows) + ·)).filter fun e => decide (e < o.count)

/-- The words of stream n that hold some elements. -/
def EngineOp.streamWords (o : EngineOp) (n : Nat) (l : List Nat) : List Nat :=
  (l.map fun e => e * codeSize (o.streamFmt n) / 4).eraseDups

/-- The key in the buffer of a word of a stream. -/
def streamKey (n word : Nat) : Nat := 3 * word + n

/-- A stream's element as read (12 R389): its bits in the stream's format. -/
def EngineOp.elem (o : EngineOp) (n e : Nat) : FVal :=
  let c := o.streamFmt n
  let off := e * codeSize c
  let w := (FMap.getD o.buf (streamKey n (off / 4)) 0).toNat
  (codeFmt c).value (if c == 0 then w else w / 2 ^ (8 * (off % 4)) % 2 ^ 16)

/-- One operation of the chain (12 R389). -/
def StitchOp.apply (x : StitchOp) (t : Nat) (y : FVal) : Nat :=
  let f := FloatFmt.f32
  let tv := f.value t
  let yb := (f.convert 0 y).bits
  match x.code with
  | 1 => (f.add 0 tv y).bits
  | 2 => (f.add 0 tv y.negate).bits
  | 3 => (f.mul 0 tv y).bits
  | 4 => (f.minMax false t yb).bits
  | 5 => (f.minMax true t yb).bits
  | 6 => (f.add 0 y tv.negate).bits
  | 7 => (f.convert 0 tv.negate).bits
  | 8 => if tv.neg then (f.convert 0 tv.negate).bits else t
  | 9 => (f.rcp tv).bits
  | 10 => (f.rsq tv).bits
  | 11 => (f.sqrt 0 tv).bits
  | 12 => (f.exp2 tv).bits
  | 13 => (f.log2 tv).bits
  | 14 => (f.tanh tv).bits
  | _ => (f.minMax true t 0).bits

/-- The final t of an element (12 R389). -/
def EngineOp.result (o : EngineOp) (e : Nat) : Nat :=
  let start := (FloatFmt.f32.convert 0 (o.elem 0 e)).bits
  o.steps.foldl (fun t x =>
    x.apply t (if x.y == 3 then (FloatFmt.of .bf16).value x.const else o.elem x.y e)) start

/-- The value of a destination word (12 R389, 09 R288, R289). -/
def EngineOp.stitchValue (o : EngineOp) (n : Nat) : Nat :=
  let v (e : Nat) : FVal := FloatFmt.f32.value (o.result e)
  if !o.xbDst then
    if codeSize o.dfmt == 4 then o.result n
    else ((codeFmt o.dfmt).convert 0 (v (2 * n))).bits + 2 ^ 16 * ((codeFmt o.dfmt).convert 0 (v (2 * n + 1))).bits
  else
    let len := blockLen o.dblk
    let exp (b : Nat) : Nat := xbExp ((List.range len).map fun j => v (len * b + j))
    let rows := o.count / 96 * (3 * o.xm)
    if n < rows then
      let plane := n % (3 * o.xm) / 3
      let first := 96 * (n / (3 * o.xm)) + 32 * (n % 3)
      sumNat ((List.range 32).map fun j =>
        let e := first + j
        bitsAt ((xbMant o.xm (exp (e / len)) (v e)).1 % (2 ^ o.xm : Nat)).toNat plane 1 * 2 ^ j)
    else
      sumNat ((List.range 4).map fun j =>
        let b := 4 * (n - rows) + j
        if b < o.count / len then exp b * 2 ^ (8 * j) else 0)

/-- The bytes of a destination word that are written: the last word of the exponents may hold fewer than four. -/
def EngineOp.stitchBytes (o : EngineOp) (n : Nat) : Nat :=
  let rows := o.count / 96 * (3 * o.xm)
  if o.xbDst && decide (rows ≤ n) then Nat.min 4 (o.count / blockLen o.dblk - 4 * (n - rows)) else 4

/-! Words of an operation. -/

/-- How many words an operation writes; none before a stitch record has been read. -/
def EngineOp.words (o : EngineOp) : Option Nat :=
  match o.kind with
  | .copy _ _ rows len _ _ => some (rows * len / 4)
  | .gather _ _ rows len _ => some (rows.length * len / 4)
  | .remoteAtomic _ _ wide _ _ old => some (if old.isSome then (if wide then 2 else 1) else 0)
  | .stitch _ => if o.record.isEmpty then none else some o.stitchWords

/-- How many numbers of words an operation reads by: those of its streams for a stitch. -/
def EngineOp.reads (o : EngineOp) : Nat :=
  match o.kind with
  | .stitch _ => 3 * o.streams.foldl (fun m n => Nat.max m ((o.count * codeSize (o.streamFmt n) + 3) / 4)) 0
  | _ => o.words.getD 0

/-- Whether every word has been written. -/
def EngineOp.written (o : EngineOp) : Bool :=
  match o.words with
  | some n => o.done.length == n
  | none => false

/-- Where word n is read from (12 R380, R383, R388). -/
def Core.readSpot (k : Core) (o : EngineOp) (n : Nat) : Option Spot :=
  match o.kind with
  | .copy _ src rows len ss _ =>
    if rows * len / 4 ≤ n then none else k.spot o src (4 * n / len * ss + 4 * n % len)
  | .gather _ src rows len ss =>
    if rows.length * len / 4 ≤ n then none
    else match rows.getD (4 * n / len) none with
      | some r => k.spot o src (r * ss + 4 * n % len)
      | none => some .zero
  | .remoteAtomic _ _ _ _ _ _ => none
  | .stitch _ =>
    if o.record.isEmpty || o.streamFmt (n % 3) == 3 || decide (o.count * codeSize (o.streamFmt (n % 3)) ≤ 4 * (n / 3)) then none
    else k.genericSpot o.ctx (o.w (n % 3)) (4 * (n / 3))

/-- Where word n is written to. -/
def Core.writeSpot (k : Core) (o : EngineOp) (n : Nat) : Option Spot :=
  match o.kind with
  | .copy dst _ _ len _ ds => k.spot o dst (4 * n / len * ds + 4 * n % len)
  | .gather dst _ _ _ _ => k.spot o dst (4 * n)
  | .remoteAtomic _ _ _ _ _ old => old.map fun va => .va (BitVec.ofNat 64 (va + 4 * n))
  | .stitch _ =>
    let rows := o.count / 96 * (3 * o.xm)
    if o.xbDst && decide (rows ≤ n) then k.genericSpot o.ctx (o.w 2) (4 * (n - rows))
    else k.genericSpot o.ctx (o.w 3) (4 * n)

/-- The value that word n receives, once what it is made of has been read. -/
def EngineOp.valueOf (o : EngineOp) (n : Nat) : Option Nat :=
  match o.kind with
  | .stitch _ =>
    let es := o.elemsOf n
    if o.streams.all fun s => (o.streamWords s es).all fun w => FMap.has o.buf (streamKey s w) then some (o.stitchValue n)
    else none
  | _ => (FMap.get o.buf n).map (·.toNat)

/-- The address of a spot in a space of its own: 0 for global addresses, else 1 plus the handle. -/
def Spot.key : Spot → Nat × Nat
  | .va a => (0, a.toNat)
  | .folio h off => (1 + h.toNat, off)
  | .remote a => (2 ^ 33, a.toNat)
  | .zero => (2 ^ 34, 0)

/-- The source extents of an operation, in rows: space, first byte and bytes. -/
def Core.sources (k : Core) (o : EngineOp) : List (Nat × Nat × Nat) :=
  let row (e : End) (off len : Nat) : List (Nat × Nat × Nat) := ((k.spot o e off).map fun p => (p.key.1, p.key.2, len)).toList
  match o.kind with
  | .copy _ src rows len ss _ => (List.range rows).flatMap fun r => row src (r * ss) len
  | .gather _ src rows len ss => rows.flatMap fun r => match r with
    | some x => row src (x * ss) len
    | none => []
  | .remoteAtomic _ _ _ _ _ _ => []
  | .stitch _ => o.streams.filterMap fun n => (k.genericSpot o.ctx (o.w n) 0).map fun p =>
      (p.key.1, p.key.2, o.count * codeSize (o.streamFmt n))

/-- Whether a destination word lies in a source extent (12 R379). (DESIGN CHOICE, notes/assumptions/53.md.) -/
def Core.overlapped (k : Core) (o : EngineOp) (p : Spot) : Bool :=
  (k.sources o).any fun x => x.1 == p.key.1 && decide (x.2.1 < p.key.2 + 4) && decide (p.key.2 < x.2.1 + x.2.2)

/-! Reading and writing a word. -/

/-- Change an operation of a core. -/
def State.modOp (s : State) (c n : Nat) (f : EngineOp → EngineOp) : State :=
  s.modCore c fun k => { k with ops := FMap.modify k.ops n f }

/-- What an engine's access to memory finds. -/
inductive EngineTr where
  | pa (p : Piece)
  | hold (s : State)
  | fail (status : Nat)

/-- Translate an engine access (12 R379): a walk begins, a pending fault holds the operation, a failed one ends it. -/
def State.engineTr (s : State) (c n : Nat) (o : EngineOp) (acc : Acc) (va : Dword) (bytes : Nat) : EngineTr :=
  match s.translate o.ctx o.level0 acc va with
  | .pa pa plc die d => .pa { loc := .global pa, bytes := bytes, dirty := d, plc := plc, die := die, backed := false }
  | .trap _ _ => .fail 5
  | .miss stage page ipa r =>
    let w := walkOf o.ctx stage page va ipa acc o.level0 c 31 r
    match o.notes.find? fun x => x.acc == acc && x.stage == stage && x.page == page with
    | some x => .fail (if x.cause == Cause.pageFatal then 4 else 5)
    | none =>
      match s.pendFor (dieOf c) o.ctx stage page with
      | some (e, p) =>
        .hold ((s.attach (dieOf c) e { toAsk := w.toAsk, who := .engine c n }).modOp c n fun o => { o with
          fids := fidOf (dieOf c) e p.gen :: o.fids.filter fun x => x != fidOf (dieOf c) e p.gen })
      | none =>
        .hold (s.startWalk (dieOf c) w (.engine c n))

/-- Whether a spot lies in the folio of a handle. -/
def Spot.inFolio (p : Spot) (h : Word) : Bool :=
  match p with
  | .folio x _ => x == h
  | _ => false

/-- The offset reported for a source folio that is lost: that of the first word not transferred (02 R86); for a stitch, of the word
which the first destination word not written needs of the first stream that lies in the folio. (DEDUCED, notes/assumptions/55.md.) -/
def Core.lostOff (k : Core) (o : EngineOp) (h : Word) : Word :=
  let n := o.firstLeft
  let source : Nat := match o.kind with
    | .stitch _ =>
      let there := o.streams.filter fun x => (k.genericSpot o.ctx (o.w x) 0).any fun p => p.inFolio h
      ((there.findSome? fun x => (o.streamWords x (o.elemsOf n)).head?.map fun w => streamKey x w)).getD 0
    | _ => n
  match k.readSpot o source with
  | some (.folio _ off) => BitVec.ofNat 32 off
  | _ => 0

/-- Where a folio end's word goes now (17 R496): the scratchpad, the backing memory, or nowhere. -/
def Core.folioSpot (k : Core) (ctx : CtxKey) (h : Word) (off : Nat) : Option (Loc ⊕ Dword) :=
  match k.liveFolio ctx h with
  | none => none
  | some (slot, f) =>
    match f.state with
    | .backed => some (.inr (f.backing + BitVec.ofNat 64 off))
    | .lost | .free => none
    | _ => some (.inl (.folio slot off))

/-- Kill the context of an engine operation that consumed poison or an uncorrectable error (03 R99, 02 R93).
(DEDUCED, notes/assumptions/55.md.) -/
def State.killOp (s : State) (o : EngineOp) : State := s.killContext o.ctx (o.launch % 2 ^ 32) 0x7F 3 0 0 0

/-- An engine finds an uncorrectable error in a folio's word: the folio becomes LOST and the operation meets that, or, at rank 7, its
context is killed (02 R93). -/
def State.brokenOp (s : State) (c n : Nat) (o : EngineOp) (h : Word) (lost : EngineOp → EngineOp) : State :=
  if ((s.core c).folio (handleSlot h)).rank == 7 then s.killOp o
  else (s.modCore c fun k => k.loseFolio (handleSlot h)).modOp c n lost

/-- A word written to a LOST folio is dropped, and the operation goes on with its other words (02 R81, 17 R496). -/
def EngineOp.dropWord (o : EngineOp) (word : Nat) (h : Word) (off : Nat) : EngineOp :=
  { o with
    done := word :: o.done
    lost := match o.lost with
      | some (n, x) => if n < word then some (n, x) else some (word, h, BitVec.ofNat 32 off)
      | none => some (word, h, BitVec.ofNat 32 off) }

/-- An operation whose words have all been presented, some of them to a LOST folio, has status LOST (02 R81). -/
def EngineOp.closed (o : EngineOp) : EngineOp :=
  match o.lost with
  | some _ => o.fail 1 0 0
  | none => o

/-- The address that an operation's command gives its remote end. -/
def EngineOp.remoteBase (o : EngineOp) : Dword :=
  match o.kind with
  | .copy (.remote _ v) _ _ _ _ _ => BitVec.ofNat 64 v
  | .copy _ (.remote _ v) _ _ _ _ => BitVec.ofNat 64 v
  | .remoteAtomic (.remote _ v) _ _ _ _ _ => BitVec.ofNat 64 v
  | _ => 0

/-- The address of word n in another package. -/
def Core.remoteVa (k : Core) (o : EngineOp) (n : Nat) : Option Dword :=
  match k.readSpot o n, k.writeSpot o n with
  | some (.remote a), _ => some a
  | _, some (.remote a) => some a
  | _, _ => none

/-- The address of a spot, where it lies outside the scratchpad. -/
def Core.spotVa (k : Core) (o : EngineOp) : Option Spot → Option Dword
  | some (.va a) => some a
  | some (.remote a) => some a
  | some (.folio h off) => match k.folioSpot o.ctx h off with
    | some (.inr a) => some a
    | _ => none
  | _ => none

/-- The address that is reported for word n where it was not transferred (12 R378): the one in another package, else that of its
destination, else that of its source; a stitch's destination is a generic address. (DEDUCED, notes/assumptions/55.md.) -/
def Core.wordVa (k : Core) (o : EngineOp) (n : Nat) : Dword :=
  match o.kind with
  | .remoteAtomic _ _ _ _ _ _ => o.remoteBase
  | .stitch _ =>
    let rows := o.count / 96 * (3 * o.xm)
    if o.xbDst && decide (rows ≤ n) then o.w 2 + BitVec.ofNat 64 (4 * (n - rows)) else o.w 3 + BitVec.ofNat 64 (4 * n)
  | _ => (((k.remoteVa o n).or (k.spotVa o (k.writeSpot o n))).or (k.spotVa o (k.readSpot o n))).getD 0

/-- The package of a remote end. -/
def EngineOp.pkg (o : EngineOp) : Nat :=
  match o.kind with
  | .copy (.remote p _) _ _ _ _ _ => p
  | .copy _ (.remote p _) _ _ _ _ => p
  | .remoteAtomic (.remote p _) _ _ _ _ _ => p
  | _ => 0

/-- A word of another package is asked for, in order: a request for each line, which has an entry in the line class table until it is
answered (03 R120). -/
def State.askRemote (s : State) (c n key : Nat) (o : EngineOp) (va : Nat) : State :=
  let line := remoteLine o.pkg va
  if key != o.asked then s
  else
    match if o.line == some line then some s else s.lineEnter c line 0 1 with
    | none => s
    | some s => s.modOp c n fun o => { o with asked := o.asked + 1, line := some line }

/-- Whether the warp of an operation lost its claim on a folio without being told (02 R71). -/
def Core.unclaimed (k : Core) (o : EngineOp) (slot : Nat) : Bool :=
  k.warps.any fun w => w.2.uid == o.warpUid && w.2.revoked.contains slot

/-- Whether a lock bit of another warp keeps a pending quantum of an operation's warp on some bytes from being applied (10 R315). -/
def State.opLocked (s : State) (o : EngineOp) (c : Nat) (l : Loc) (n : Nat) : Bool :=
  match s.placeOf o.warpUid, l with
  | some (d, w), .folio _ _ => d == c && ((s.warp d w).map fun x => x.quanta.any fun q =>
      q.loc.overlaps q.bytes l n && ((s.core d).lockedQuantum w q).isSome).getD false
  | _, _ => false

/-- Read one word for an operation and keep it, after its warp's pending quanta on it (04 R152), whose lock bits it waits for; a
request of memory, one for a line, waits for an entry of the line class table (03 R120, 15 R455). -/
def State.engineRead (s : State) (c n key : Nat) (o : EngineOp) (p : Spot) : State :=
  let keep (s : State) (v : Nat) : State := s.modOp c n fun o => { o with buf := FMap.set o.buf key (BitVec.ofNat 32 v) }
  let fromVa (va : Dword) : State :=
    match s.engineTr c n o .engineRead va 4 with
    | .hold t => t
    | .fail st => s.modOp c n fun o => o.fail st (va.extractLsb' 0 32) (va.extractLsb' 32 32)
    | .pa q =>
      match q.loc with
      | .global pa =>
        match if o.line == some (pa / 64) then some s else s.lineRequest c (pa / 64) 0 64 with
        | none => (s.holdLine c (pa / 64)).budgetHold c
        | some s =>
          let s := (s.touchUid o.warpUid c q.loc 4).modOp c n fun o => { o with line := some (pa / 64) }
          if s.poison.contains (pa / 64) then s.killOp o
          else keep (s.placeFor (ctxPart o.ctx) (dieOf c) pa q.plc q.die) (s.mread pa 4)
      | .folio _ _ => s
  match p with
  | .zero => keep s 0
  | .remote a => s.askRemote c n key o a.toNat
  | .va a => fromVa a
  | .folio h off =>
    let k := s.core c
    match k.folioSpot o.ctx h off with
    | none => s.modOp c n fun o => o.fail 1 h (k.lostOff o h)
    | some (.inr va) => fromVa va
    | some (.inl loc) =>
      if k.padBroken (handleSlot h) off 4 then s.brokenOp c n o h fun o => o.fail 1 h (k.lostOff o h)
      else if s.opLocked o c loc 4 then s
      else
        let s := s.touchUid o.warpUid c loc 4
        keep s (s.locRead c loc 4)

/-- Write one word of an operation (12 R379, 03 R95), after its warp's pending quanta on it (04 R152), whose lock bits it waits for; one
to a LOST folio, or for a warp whose claim on the folio was revoked, is dropped (02 R71, R81, 17 R496). -/
def State.engineWrite (s : State) (c n word : Nat) (o : EngineOp) (p : Spot) (bytes v : Nat) : State :=
  let did (s : State) : State := s.modOp c n fun o => { o with done := word :: o.done }
  let toVa (va : Dword) : State :=
    match s.engineTr c n o .engineWrite va bytes with
    | .hold t => t
    | .fail st => s.modOp c n fun o => o.fail st (va.extractLsb' 0 32) (va.extractLsb' 32 32)
    | .pa q =>
      match q.loc with
      | .global pa =>
        match s.lineRequest c (pa / 64) 0 bytes with
        | none => (s.holdLine c (pa / 64)).budgetHold c
        | some s =>
          let s := (s.touchUid o.warpUid c q.loc bytes).cdcDropUid o.warpUid c (pa / 64)
          did (((s.placeFor (ctxPart o.ctx) (dieOf c) pa q.plc q.die).setDirty q.dirty).mwrite pa bytes v)
      | .folio _ _ => s
  match p with
  | .zero => s
  | .remote a =>
    match s.lineEnter c (remoteLine o.pkg a.toNat) 0 1 with
    | none => s
    | some s => did s
  | .va a => toVa a
  | .folio h off =>
    let k := s.core c
    let drop (o : EngineOp) : EngineOp := o.dropWord word h off
    match if k.unclaimed o (handleSlot h) then none else k.folioSpot o.ctx h off with
    | none => s.modOp c n drop
    | some (.inr va) => toVa va
    | some (.inl loc) =>
      if k.padBroken (handleSlot h) off bytes then s.brokenOp c n o h drop
      else if s.opLocked o c loc bytes then s
      else did ((s.touchUid o.warpUid c loc bytes).locWrite c loc bytes v)

/-- A gathering slot whose last word has been written fills (12 R380, 03 R107). -/
def State.fillDone (s : State) (c n : Nat) : State :=
  match FMap.get (s.core c).ops n with
  | none => s
  | some o =>
    match o.slot, o.written && o.lost.isNone with
    | some (rec, slot), true => s.modGath c rec fun g => g.complete slot
    | _, _ => s

/-! Issue and completion. -/

/-- Whether the class counter of the warp is full (04 R153). -/
def Iss.counterFull (i : Iss) (cls : Nat) : Bool := decide (63 ≤ (i.w.counters.ofClass cls).1)

/-- One more operation of a class in flight (04 R153). -/
def Counters.issue (q : Counters) (cls : Nat) : Counters :=
  match cls with
  | 0 => { q with cp := q.cp + 1, cpIssued := q.cpIssued + 1 }
  | 1 => { q with st := q.st + 1, stIssued := q.stIssued + 1 }
  | _ => { q with rm := q.rm + 1, rmIssued := q.rmIssued + 1 }

/-- One operation of a class fewer in flight (04 R153). -/
def Counters.finish (q : Counters) (cls : Nat) : Counters :=
  match cls with
  | 0 => { q with cp := q.cp - 1 }
  | 1 => { q with st := q.st - 1 }
  | _ => { q with rm := q.rm - 1 }

/-- The gathering record an operation writes into. -/
def OpKind.ring : OpKind → Option Nat
  | .copy (.gather r _) _ _ _ _ _ => some r
  | .gather (.gather r _) _ _ _ _ => some r
  | _ => none

/-- Whether an older operation waits to reserve a slot of the record. -/
def Core.slotWaited (k : Core) (rec : Nat) : Bool :=
  k.ops.any fun o => o.2.waitsSlot && o.2.status.isNone && o.2.kind.ring == some rec

/-- Start an operation (12 R377): it takes a place on the core, and a gathering destination reserves a slot where one is
free (12 R380). -/
def State.startOp (s : State) (c : Nat) (o : EngineOp) : State :=
  let k := s.core c
  let n := (FMap.freeKey k.ops (k.ops.length + 1)).getD 0
  let o : EngineOp := match o.kind.ring with
    | none => o
    | some rec => match FMap.get k.gath rec with
      | some g => if g.free != 0 && !k.slotWaited rec then { o with slot := some (rec, g.pi) } else { o with waitsSlot := true }
      | none => o
  let s := s.modCore c fun k => { k with
    ops := FMap.set k.ops n o
    gath := match o.slot with
      | some (rec, _) => FMap.modify k.gath rec Gath.reserve
      | none => k.gath }
  s.modLaunch o.launch fun l => { l with ops := l.ops + 1 }

/-- An operation of the issuing warp. -/
def Iss.newOp (i : Iss) (cls : Nat) (kind : OpKind) : EngineOp :=
  { warp := i.wi, warpUid := i.w.uid, ctx := i.ctx, level0 := i.f.priv == 0, launch := (i.wg.map (·.launch)).getD 0
    cls := cls, seq := (i.w.counters.ofClass cls).2, kind := kind, buf := [], done := [], line := none, asked := 0, lost := none, slot := none
    waitsSlot := false, record := [], fids := [], notes := [], status := none, info0 := 0, info1 := 0 }

/-- Issue an operation: its counter advances and the warp goes on (12 R377, 04 R153). -/
def State.issueOp (s : State) (i : Iss) (o : EngineOp) : State :=
  let s := s.modWarp i.c i.wi fun w => ({ w with counters := w.counters.issue o.cls }).modFrag i.fi Frag.finish
  s.startOp i.c o

/-- Whether an older operation of the same warp and class has not completed, on whichever core it runs (04 R153, R159). -/
def State.olderOp (s : State) (o : EngineOp) : Bool :=
  s.cores.any fun k => k.2.ops.any fun p => p.2.warpUid == o.warpUid && p.2.cls == o.cls && decide (p.2.seq < o.seq)

/-- Report an operation complete (04 R153, 12 R377): its counter falls, a failure waits for the covering wcnt, or goes
to the launch's record where the warp has exited (02 R81). -/
def State.reportOp (s : State) (c n : Nat) (o : EngineOp) : State :=
  let o := o.closed
  let st := o.status.getD 0
  let s := (s.modCore c fun k => { k with ops := FMap.erase k.ops n }).modLaunch o.launch fun l => { l with ops := l.ops - 1 }
  let bad := st != 0 && st != 3
  if s.hasUid o.warpUid then
    s.modUid o.warpUid fun w => { w with
      counters := w.counters.finish o.cls
      fails := if bad then w.fails ++ [{ cls := o.cls, seq := o.seq, status := st, info0 := o.info0, info1 := o.info1 }]
        else w.fails }
  else if bad then s.lostFailure o.launch o.ctx st (if st == 1 then o.info1.setWidth 64 else o.info1 ++ o.info0)
  else s

/-- Complete an operation that has ended, in issue order (04 R153); one that has not changes nothing. -/
def State.completeOp (s : State) (c n : Nat) : State :=
  match FMap.get (s.core c).ops n with
  | none => s
  | some o =>
    if (o.status.isSome || o.written) && !s.olderOp o then s.reportOp c n o else s

end Sys2Proof.Machine
end

