-- ==== Sys2Proof/Machine/Engines.lean ====
section
/-!
DEFINITION. The engine commands of class 6 (12 R377 to R390), the gathering instructions (12 R384 to R387), and the events
of the engines: words read and written, slots reserved, operations completed.
-/
namespace Sys2Proof

/-- DSP (12 R380). -/
def XForm.dsp (f : XForm) : Nat := (f.xfl.extractLsb' 0 2).toNat
/-- SSP (12 R380). -/
def XForm.ssp (f : XForm) : Nat := (f.xfl.extractLsb' 2 2).toNat
/-- The package of a remote end. -/
def XForm.pkg (f : XForm) : Nat := (f.ext.extractLsb' 0 13).toNat

end Sys2Proof

namespace Sys2Proof.Machine

/-- The number of a register operand. -/
def regNum : Operand → Nat
  | .s n => n.toNat
  | .v n => n.toNat
  | _ => 0

/-- A register some places after an s operand. -/
def Iss.sAfter (i : Iss) (o : Operand) (j : Nat) : Word := i.w.readS i.f (regNum o + j)

/-- A pair some places after an s operand. -/
def Iss.pairAfter (i : Iss) (o : Operand) (j : Nat) : Dword := i.sAfter o (j + 1) ++ i.sAfter o j

/-- ENGINE_FAULT with sub-code ARG for a register (12 R378). -/
def Iss.argTrap (i : Iss) (reg : Nat) : TrapReq := i.trapReq Cause.engineFault 5 i.f.mask (BitVec.ofNat 32 reg) 0

/-- ENGINE_FAULT with sub-code NOGATHER (12 R378). -/
def Iss.noGather (i : Iss) (idx : Word) : TrapReq := i.trapReq Cause.engineFault 1 i.f.mask idx 0

/-- The check of a global or remote address (12 R379). -/
def Iss.addrTrap (i : Iss) (va : Dword) (align : Nat) : Option TrapReq :=
  if nonCanonical va then some (i.trapReq Cause.misaligned 1 i.f.mask (va.extractLsb' 0 32) (va.extractLsb' 32 32))
  else if va.toNat % align != 0 then
    some (i.trapReq Cause.misaligned 2 i.f.mask (va.extractLsb' 0 32) (va.extractLsb' 32 32))
  else none

/-- The check of a local end: live, with every byte of its extent in the folio (12 R379). -/
def Iss.localTrap (i : Iss) (h : Word) (off last : Nat) : Option TrapReq :=
  match i.core.liveFolio i.ctx h with
  | none => some (i.trapReq Cause.staleHandle 0 i.f.mask h 0)
  | some (_, f) =>
    if 512 * f.size < last then some (i.trapReq Cause.folioBounds 0 i.f.mask h (BitVec.ofNat 32 off)) else none

/-- An end of a command, checked (12 R379, R380): its kind, its register, the package, its extent. One that passes the end of its
gathering's slot breaks a limit of the register of the offset. (DESIGN CHOICE, notes/assumptions/156.md.) -/
def Iss.endOf (i : Iss) (kind : Nat) (o : Operand) (pkg span : Nat) : TrapReq ⊕ End :=
  match kind with
  | 1 =>
    let h := i.sAfter o 0
    let off := (i.sAfter o 1).toNat
    match i.localTrap h off (off + span) with
    | some t => .inl t
    | none => .inr (.loc h off)
  | 3 =>
    let idx := (i.sAfter o 0).toNat % 16
    let off := (i.sAfter o 1).toNat
    match FMap.get i.core.gath idx with
    | none => .inl (i.noGather (BitVec.ofNat 32 idx))
    | some g => if g.size < off + span then .inl (i.argTrap (regNum o + 1)) else .inr (.gather idx off)
  | k =>
    let va := i.pairAfter o 0
    match i.addrTrap va 4 with
    | some t => .inl t
    | none => .inr (if k == 2 then .remote pkg va.toNat else .global va.toNat)

/-- Whether a route reaches a package (16 R491) and the feature was accepted (16 R483). -/
def State.reaches (s : State) (part pkg : Nat) : Bool :=
  (s.part part).featack.getLsbD 4 &&
    (List.range 16).any fun p => (FMap.getD s.mf.routes pkg 0).getLsbD p && !(((FMap.get s.links (1000 + p)).map (·.failed)).getD false)

/-- An operation with a remote end that nothing reaches ends with status ARG (12 R381). (DEDUCED, notes/assumptions/56.md.) -/
def State.remoteOp (s : State) (o : EngineOp) : EngineOp :=
  let check (pkg va : Nat) : EngineOp :=
    if s.reaches (ctxPart o.ctx) pkg then o
    else o.fail 6 ((BitVec.ofNat 64 va).extractLsb' 0 32) ((BitVec.ofNat 64 va).extractLsb' 32 32)
  match o.kind with
  | .copy (.remote p v) _ _ _ _ _ => check p v
  | .copy _ (.remote p v) _ _ _ _ => check p v
  | .remoteAtomic (.remote p v) _ _ _ _ _ => check p v
  | _ => o

/-- An engine command once it may issue: it waits while its class counter is full (04 R153). -/
def State.command (s : State) (i : Iss) (g : Guard) (ops : List (Operand × Nat)) (cls : Nat)
    (kind : TrapReq ⊕ OpKind) : State :=
  s.scalarDo i g ops fun s =>
    if i.counterFull cls then s
    else
      match kind with
      | .inl t => s.raise i t
      | .inr k => s.issueOp i (s.remoteOp (i.newOp cls k))

/-- The shape of a cpy (12 R380): row bytes, rows, strides, or the register that breaks a limit. -/
def Iss.shapeOf (i : Iss) (f : XForm) : Nat ⊕ (Nat × Nat × Nat × Nat) :=
  let c := regNum f.c
  let v (j : Nat) : Nat := (i.sAfter f.c j).toNat
  let badLen (n : Nat) : Bool := n % 4 != 0 || n == 0 || decide (2 ^ 24 < n)
  if badLen (v 0) then .inl c
  else if !f.xfl.getLsbD 4 then .inr (v 0, 1, 0, 0)
  else if v 1 == 0 || decide (65536 < v 1) then .inl (c + 1)
  else if v 2 % 4 != 0 then .inl (c + 2)
  else if v 3 % 4 != 0 then .inl (c + 3)
  else .inr (v 0, v 1, v 2, v 3)

/-- The copy a cpy asks for, or its trap (12 R379, R380): where both ends fail, that of the source.
(DEDUCED, notes/assumptions/59.md; DESIGN CHOICE, notes/assumptions/155.md.) -/
def Iss.copyOf (i : Iss) (f : XForm) : TrapReq ⊕ OpKind :=
  match i.shapeOf f with
  | .inl reg => .inl (i.argTrap reg)
  | .inr (len, rows, ss, ds) =>
    match i.endOf f.ssp f.b f.pkg ((rows - 1) * ss + len), i.endOf f.dsp f.a f.pkg ((rows - 1) * ds + len) with
    | .inl t, _ => .inl t
    | _, .inl t => .inl t
    | .inr src, .inr dst => .inr (.copy dst src rows len ss ds)

/-- cpy (12 R380, R381): starts a copy. (DEDUCED, notes/assumptions/59.md.) -/
def execCpy (f : XForm) (s : State) : Answer State :=
  .next (s.onIss fun i =>
    s.command i f.guard [(f.a, 2), (f.b, 2), (f.c, if f.xfl.getLsbD 4 then 4 else 1)]
      (if f.dsp == 2 || f.ssp == 2 then 2 else 0) (i.copyOf f))

/-- The remote atomic a cpy asks for, or its trap (12 R382). -/
def Iss.remoteAtomicOf (i : Iss) (f : XForm) : TrapReq ⊕ OpKind :=
  let wide := f.xfl.getLsbD 4
  let width := if wide then 8 else 4
  let old : Option Dword := match f.c with
    | .none => none
    | c => some (i.pairAfter c 0)
  let va := i.pairAfter f.a 0
  match i.addrTrap va width, old.bind fun x => i.addrTrap x width with
  | some t, _ => .inl t
  | _, some t => .inl t
  | none, none =>
    let operand := if wide then (i.pairAfter f.b 0).toNat else (i.sAfter f.b 0).toNat
    let swap := if wide then (i.pairAfter f.b 2).toNat else (i.sAfter f.b 1).toNat
    .inr (.remoteAtomic (.remote f.pkg va.toNat) (f.ext.extractLsb' 13 4).toNat wide operand swap (old.map (·.toNat)))

/-- cpy.ra (12 R382): starts a remote atomic, whose request has an entry of the line class table until it is answered
(03 R120). -/
def execCpyRa (f : XForm) (s : State) : Answer State :=
  .next (s.onIss fun i =>
    let cmd (s : State) : State :=
      s.command i f.guard [(f.a, 2), (f.b, if f.xfl.getLsbD 4 then 4 else 2), (f.c, 2)] 2 (i.remoteAtomicOf f)
    match i.remoteAtomicOf f with
    | .inl _ => cmd s
    | .inr _ =>
      let t := cmd s
      if (t.core i.c).ops.length == i.core.ops.length then t
      else (t.lineEnter i.c (remoteLine f.pkg (i.pairAfter f.a 0).toNat) 2 1).getD s)

/-- The gather a cpyg asks for, or its trap (12 R383): where both ends fail, that of the source.
(DEDUCED, notes/assumptions/57.md; DESIGN CHOICE, notes/assumptions/155.md.) -/
def Iss.gatherOf (i : Iss) (f : XForm) : TrapReq ⊕ OpKind :=
  let len := (i.sAfter f.c 0).toNat
  let stride := (i.sAfter f.c 1).toNat
  let idx := i.src false f.d 0
  let rows : List (Option Nat) := (lanesOf (i.active f.guard)).map fun l =>
    if (idx l).toNat == 0xFFFF_FFFF then none else some (idx l).toNat
  if len % 4 != 0 || len == 0 || decide (65536 < len) then .inl (i.argTrap (regNum f.c))
  else if stride % 4 != 0 then .inl (i.argTrap (regNum f.c + 1))
  else
    let last := rows.foldl (fun m r => match r with
      | some x => Nat.max m (x * stride + len)
      | none => m) 0
    match i.endOf f.ssp f.b 0 last, i.endOf f.dsp f.a 0 (rows.length * len) with
    | .inl t, _ => .inl t
    | _, .inl t => .inl t
    | .inr src, .inr dst => .inr (.gather dst src rows len stride)

/-- cpyg (12 R383): starts a gather of the rows that its active lanes name. -/
def execCpyg (f : XForm) (s : State) : Answer State :=
  .next (s.onIss fun i =>
    if i.spec || i.blocked f.guard [(f.a, 2), (f.b, 2), (f.c, 2), (f.d, 1)] then s
    else if i.active f.guard == 0 then s.modFrag i.c i.wi i.fi Frag.finish
    else s.command i noGuard [] 0 (i.gatherOf f))

/-- stch (12 R388): starts a stitch operation. -/
def execStch (f : XForm) (s : State) : Answer State :=
  .next (s.onIss fun i =>
    let va := i.pairAfter f.a 0
    s.command i f.guard [(f.a, 2)] 1 (match i.addrTrap va 64 with
      | some t => .inl t
      | none => .inr (.stitch va.toNat)))

/-! Gatherings. -/

/-- A new binding of a gathering record (12 R384): the region, or the trap. (DEDUCED, notes/assumptions/57.md.) -/
def Iss.bindGath (i : Iss) (f : XForm) (re : Bool) : TrapReq ⊕ (Nat × Gath) :=
  let geo := (i.s32 f.c 0).toNat
  let size := bitsAt geo 0 16
  let count := bitsAt geo 16 9
  let off := (i.s32 f.b 0).toNat
  let h := i.s32 f.a 0
  if bitsAt geo 25 7 != 0 || size % 64 != 0 || size == 0 || decide (32768 < size) || decide (count < 2) || decide (256 < count) then
    .inl (i.argTrap (regNum f.c))
  else if off % 64 != 0 then .inl (i.argTrap (regNum f.b))
  else
    match i.core.liveFolio i.ctx h with
    | none => .inl (i.trapReq Cause.staleHandle 0 i.f.mask h 0)
    | some (_, fo) =>
      let named := (f.ext.extractLsb' 0 4).toNat
      let pick : Option Nat :=
        if re then
          match FMap.get i.core.gath named with
          | some g => if g.wg == i.w.wg then some named else none
          | none => none
        else FMap.freeKey i.core.gath 16
      match pick with
      | none => .inl (i.noGather (if re then BitVec.ofNat 32 named else 16))
      | some rec =>
        if 512 * fo.size < off + size * count then .inl (i.trapReq Cause.folioBounds 0 i.f.mask h (BitVec.ofNat 32 off))
        else
          .inr (rec, { handle := h, off := off / 64, slotsz := size / 64 - 1, nslot := count - 1, pi := 0, ci := 0
                       res := 0, fill := 0, held := 0, order := [], wg := i.w.wg })

/-- grinit (12 R384): binds the lowest free gathering record; D := its index. -/
def execGrinit (f : XForm) (s : State) : Answer State :=
  .next (s.onIss fun i => s.scalarDo i f.guard [(f.a, 1), (f.b, 1), (f.c, 1)] fun s =>
    match i.bindGath f false with
    | .inl t => s.raise i t
    | .inr (rec, g) =>
      s.complete s i fun k => i.lenient.put32 f.d (BitVec.ofNat 32 rec) { k with gath := FMap.set k.gath rec g })

/-- Whether a fragment waits on a gathering record. -/
def Frag.onRing (f : Frag) (rec : Nat) : Bool :=
  f.state == .waiting && match f.wait with
    | .grget r _ => r == rec
    | .grputRes r _ => r == rec
    | _ => false

/-- The fragments of a core that wait on a gathering record, by warp and fragment. -/
def Core.ringWaiters (k : Core) (rec : Nat) : List (Nat × Nat) :=
  k.warps.flatMap fun w => (w.2.frags.filter fun f => f.2.onRing rec).map fun f => (w.1, f.1)

/-- A trap of a waiting fragment at its instruction. -/
def State.trapWaiter (s : State) (c w fi : Nat) (cause sub : BitVec 8) (i0 i1 : Word) (folio : Option Dword) : State :=
  match (s.warp c w).bind fun x => FMap.get x.frags fi with
  | none => s
  | some f => s.takeTrap c w fi { cause := cause, sub := sub, pc := f.pc, mask := f.mask, info0 := i0, info1 := i1, folio := folio }

/-- What rebinding does to the old binding (12 R384): its operations end CANCELLED, waits on it trap NOGATHER, and the
slots of warps go. -/
def State.unbind (s : State) (c rec : Nat) : State :=
  let waits := (s.core c).ringWaiters rec
  let s := s.modCore c fun k => { k with
    ops := FMap.mapV k.ops fun _ o => if o.inGath rec then o.fail 3 0 0 else o
    warps := FMap.mapV k.warps fun _ w => { w with reserved := w.reserved.filter fun r => r.1 != rec } }
  waits.foldl (fun s p => s.trapWaiter c p.1 p.2 Cause.engineFault 1 (BitVec.ofNat 32 rec) 0 none) s

/-- grinit.re (12 R384): rebinds a gathering record of the workgroup; D := its index. -/
def execGrinitRe (f : XForm) (s : State) : Answer State :=
  .next (s.onIss fun i => s.scalarDo i f.guard [(f.a, 1), (f.b, 1), (f.c, 1)] fun s =>
    match i.bindGath f true with
    | .inl t => s.raise i t
    | .inr (rec, g) =>
      s.complete (s.unbind i.c rec) i fun k => i.lenient.put32 f.d (BitVec.ofNat 32 rec) { k with gath := FMap.set k.gath rec g })

/-- The FOLIO_LOST trap of a wait on a gathering (02 R86, 12 R387). (DEDUCED, notes/assumptions/58.md.) -/
def State.ringLost (s : State) (i : Iss) (g : Gath) : State :=
  let fo := (s.core i.c).folio (handleSlot g.handle)
  s.raise i { (i.trapReq Cause.folioLost 3 i.f.mask g.handle (BitVec.ofNat 32 (64 * g.off))) with folio := some fo.handler }

/-- Whether the folio of a gathering is lost. -/
def Core.ringGone (k : Core) (g : Gath) : Bool := (k.folio (handleSlot g.handle)).state == .lost

/-- Try a grget (12 R385, 03 R107). (DEDUCED, notes/assumptions/58.md.) -/
def State.tryGet (s : State) (i : Iss) (rec : Nat) (d : Operand) : State :=
  match FMap.get (s.core i.c).gath rec with
  | none => s.raise i (i.noGather (BitVec.ofNat 32 rec))
  | some g =>
    let waits := s.keepWaiting i (.grget rec d)
    if g.fill == 0 then waits
    else
      waits.complete (s.modGath i.c rec fun g => { g with fill := g.fill - 1, held := g.held + 1, ci := (g.ci + 1) % g.count }) i
        (i.lenient.put32 d (BitVec.ofNat 32 (g.slotOff g.ci)))

/-- Try a grput.res (12 R386, 03 R107). -/
def State.tryReserve (s : State) (i : Iss) (rec : Nat) (d : Operand) : State :=
  match FMap.get (s.core i.c).gath rec with
  | none => s.raise i (i.noGather (BitVec.ofNat 32 rec))
  | some g =>
    let waits := s.keepWaiting i (.grputRes rec d)
    if g.free == 0 then waits
    else
      waits.complete ((s.modGath i.c rec Gath.reserve).modWarp i.c i.wi fun w =>
        { w with reserved := w.reserved ++ [(rec, g.pi)] }) i (i.lenient.put32 d (BitVec.ofNat 32 (g.slotOff g.pi)))

/-- An instruction on the gathering record that A names, or the NOGATHER trap (12 R387). -/
def State.onRing (s : State) (i : Iss) (f : XForm) (act : Nat → Gath → State → State) : State :=
  s.scalarDo i f.guard [(f.a, 1)] fun s =>
    let idx := i.s32 f.a 0
    match FMap.get i.core.gath idx.toNat with
    | none => s.raise i (i.noGather idx)
    | some g => act idx.toNat g s

/-- grget (12 R385): takes a filled slot; D := its offset in the folio. -/
def execGrget (f : XForm) (s : State) : Answer State :=
  .next (s.onIss fun i => s.onRing i f fun rec _ s => s.tryGet i rec f.d)

/-- grput.res (12 R386): reserves a slot; D := its offset in the folio. -/
def execGrputRes (f : XForm) (s : State) : Answer State :=
  .next (s.onIss fun i => s.onRing i f fun rec _ s => s.tryReserve i rec f.d)

/-- Complete a gathering instruction that sets Z. -/
def State.finishZ (s : State) (i : Iss) (z : Bool) : State :=
  s.modWarp i.c i.wi fun w => ({ w with sflags := setZ w.sflags z }).modFrag i.fi Frag.finish

/-- grput (12 R386, 04 R155): fills the oldest slot the warp reserved and has not filled; Z when there is none. -/
def execGrput (f : XForm) (s : State) : Answer State :=
  .next (s.onIss fun i => s.onRing i f fun rec _ s =>
    match i.w.reserved.find? fun r => r.1 == rec with
    | none => s.finishZ i true
    | some (_, slot) =>
      s.releasing i (some 1) fun s =>
        ((s.modGath i.c rec fun g => g.complete slot).modWarp i.c i.wi fun w =>
          { w with reserved := w.reserved.filter fun r => r != (rec, slot) }).finishZ i false)

/-- grrel (12 R387, 03 R107, 04 R155): frees the oldest held slot; Z when none is held. -/
def execGrrel (f : XForm) (s : State) : Answer State :=
  .next (s.onIss fun i => s.onRing i f fun rec g s =>
    if g.held == 0 then s.finishZ i true
    else s.releasing i (some 1) fun s => (s.modGath i.c rec fun g => { g with held := g.held - 1 }).finishZ i false)

/-! Events of the engines. -/

/-- GATHERING_RESERVE (03 R107): an operation that waits for a slot of the record reserves one, while one is free.
(DESIGN CHOICE, notes/assumptions/132.md.) -/
def execGatheringReserve (core record : Nat) (s : State) : Answer State :=
  .next (s.clocked core (
    let k := s.core core
    match FMap.get k.gath record with
    | none => s
    | some g =>
      let waiting := (k.ops.filter fun o => o.2.waitsSlot && o.2.status.isNone && o.2.kind.ring == some record).map (·.1)
      if g.free == 0 || waiting.isEmpty then s
      else
        let c := s.chooseOf waiting
        match c.1 with
        | none => s
        | some n =>
          (c.2.modGath core record Gath.reserve).modOp core n fun o =>
            { o with slot := some (record, g.pi), waitsSlot := false }))

/-- Read the record of a stitch operation and check it (12 R388, R390). -/
def State.readRecord (s : State) (c n : Nat) (o : EngineOp) (va : Nat) : State :=
  match s.engineTr c n o .engineRead (BitVec.ofNat 64 va) 64 with
  | .hold t => t
  | .fail st => s.modOp c n fun o =>
      o.fail st ((BitVec.ofNat 64 va).extractLsb' 0 32) ((BitVec.ofNat 64 va).extractLsb' 32 32)
  | .pa p =>
    match p.loc with
    | .folio _ _ => s
    | .global pa =>
      match s.lineRequest c (pa / 64) 0 64 with
      | none => (s.holdLine c (pa / 64)).budgetHold c
      | some s =>
        let s := s.touchUid o.warpUid c p.loc 64
        if s.poison.contains (pa / 64) then s.killOp o
        else
          let words := (List.range 8).map fun j => s.mdword (pa + 8 * j)
          let o' : EngineOp := { o with record := words }
          let bad := o'.badRecord || o'.extents.any fun e => (s.core c).badEnd o.ctx e
          (s.placeFor (ctxPart o.ctx) (dieOf c) pa p.plc p.die).modOp c n fun o =>
            if bad then o.fail 6 ((BitVec.ofNat 64 va).extractLsb' 0 32) ((BitVec.ofNat 64 va).extractLsb' 32 32)
            else { o with record := words }

/-- Whether an operation may go on: no failure, no fault to be answered (12 R379). -/
def EngineOp.runs (o : EngineOp) : Bool := o.status.isNone && o.fids.isEmpty

/-- An engine reads one word of an operation's source; a stitch operation's record is read first (12 R379). -/
def State.readWord (s : State) (core op word : Nat) : State :=
  s.clocked core (match FMap.get (s.core core).ops op with
    | none => s
    | some o =>
      if !o.runs || FMap.has o.buf word || o.done.contains word && o.cls != 1 then s
      else
        match o.kind, o.record with
        | .stitch va, [] => s.readRecord core op o va
        | _, _ =>
          match (s.core core).readSpot o word with
          | none => s
          | some p => s.engineRead core op word o p)

/-- An engine writes one word of an operation's destination, where the folio's state puts it (12 R379, 17 R496). -/
def State.writeWord (s : State) (core op word : Nat) : State :=
  s.clocked core (match FMap.get (s.core core).ops op with
    | none => s
    | some o =>
      if !o.runs || o.done.contains word || !(o.words.any fun n => decide (word < n)) then s
      else
        match (s.core core).writeSpot o word, o.valueOf word with
        | some p, some v =>
          let bytes := match o.kind with
            | .stitch _ => o.stitchBytes word
            | _ => 4
          if (s.core core).overlapped o p then
            let x := s.freeWord
            (x.2.engineWrite core op word o p bytes x.1.toNat).fillDone core op
          else (s.engineWrite core op word o p bytes v).fillDone core op
        | _, _ => s)

/-- A piece of a COPY packet's copy, in the place of its die's copy engine (14 R414). (DESIGN CHOICE, notes/assumptions/60.md.) -/
def copyPiece (launch : LaunchKey) (l : Launch) (level0 : Bool) : EngineOp :=
  let word (n : Nat) : Nat := (l.words.getD n 0).toNat
  let off := word 2 % 2 ^ 32 - l.copyLeft
  let n := Nat.min (2 ^ 24) l.copyLeft
  { warp := 24, warpUid := 0, ctx := l.ctx, level0 := level0, launch := launch, cls := 0, seq := 0
    kind := .copy (.global ((word 4 + off) % 2 ^ 64)) (.global ((word 1 + off) % 2 ^ 64)) 1 n 0 0
    buf := [], done := [], line := none, asked := 0, lost := none, slot := none, waitsSlot := false, record := [], fids := [], notes := [], status := none
    info0 := 0, info1 := 0 }

/-- Start the next piece of a COPY packet on a die's copy engine (14 R414). (DESIGN CHOICE, notes/assumptions/60.md.) -/
def State.startCopy (s : State) (c : Nat) (launch : LaunchKey) : State :=
  match FMap.get s.launches launch with
  | none => s
  | some l =>
    let level0 := ((FMap.get s.ctxs l.ctx).map fun x => x.klvl == 0).getD true
    (s.modLaunch launch fun l => { l with copyBusy := true }).startOp c (copyPiece launch l level0)

/-- A piece of a COPY packet has ended (14 R414): the next one starts, or the packet is done; its failure reaches no warp
(14 R420). -/
def State.copyEnded (s : State) (c n : Nat) (o : EngineOp) : State :=
  let o := o.closed
  let s := (s.modCore c fun k => { k with ops := FMap.erase k.ops n }).modLaunch o.launch fun l =>
    { l with ops := l.ops - 1, copyBusy := false }
  match o.status with
  | some st => (s.lostFailure o.launch o.ctx st (o.info1 ++ o.info0)).modLaunch o.launch fun l => { l with copyLeft := 0 }
  | none =>
    let size := match o.kind with
      | .copy _ _ _ len _ _ => len
      | _ => 0
    let s := s.modLaunch o.launch fun l => { l with copyLeft := l.copyLeft - size }
    match FMap.get s.launches o.launch with
    | some l => if l.copyLeft == 0 then s else s.startCopy c o.launch
    | none => s

/-- COPY_COMPLETION (12 R377, 14 R414): a copy operation that has ended is reported, in issue order. -/
def execCopyCompletion (core op : Nat) (s : State) : Answer State :=
  .next (s.clocked core (match FMap.get (s.core core).ops op with
    | none => s
    | some o =>
      if o.cls != 0 then s
      else if o.warp == 24 then (if o.status.isSome || o.written then s.copyEnded core op o else s)
      else s.completeOp core op))

/-- STITCH_COMPLETION (12 R390): a stitch operation that has ended is reported, in issue order. -/
def execStitchCompletion (core op : Nat) (s : State) : Answer State :=
  .next (s.clocked core (match FMap.get (s.core core).ops op with
    | none => s
    | some o => if o.cls == 1 then s.completeOp core op else s))

/-- The words of a reply, by number. -/
def replyWords (data : List Byte) : FMap Word :=
  (List.range (data.length / 4)).map fun j => (j, BitVec.ofNat 32 (leOf ((data.drop (4 * j)).take 4)))

/-- The words an operation still needs from the other package (12 R381, R382). -/
def EngineOp.needsReply (o : EngineOp) : Bool :=
  match o.kind with
  | .copy _ (.remote _ _) _ _ _ _ => !o.written && o.buf.isEmpty
  | .remoteAtomic _ _ _ _ _ old => old.isSome && o.buf.isEmpty && !o.written
  | _ => false

/-- REMOTE_COMPLETION (12 R377, R381, R382): the other package's answer: its words, to be written here, or the operation's
end, reported in issue order. (DEDUCED, notes/assumptions/56.md.) -/
def execRemoteCompletion (core op : Nat) (reply : RemoteReply) (s : State) : Answer State :=
  .next (s.clocked core (match FMap.get (s.core core).ops op with
    | none => s
    | some o =>
      if o.cls != 2 then s
      else if o.status.isSome then s.completeOp core op
      else if reply.status != 0 then
        let va := if reply.status == 6 then o.remoteBase else ((s.core core).remoteVa o reply.word).getD o.remoteBase
        (s.modOp core op fun o => o.fail reply.status.toNat (va.extractLsb' 0 32) (va.extractLsb' 32 32)).completeOp core op
      else if o.needsReply then s.modOp core op fun o => { o with buf := replyWords reply.data }
      else s.completeOp core op))

end Sys2Proof.Machine
end

