-- ==== Sys2Proof/Machine/Walks.lean ====
section
/-!
DEFINITION. Page walks to their end, fault records and fault queues, interrupts (01 R25 to R31, R38 to R52; 16 R478, R479),
and the translated accesses of the device's own units.
-/
namespace Sys2Proof.Machine

/-! Interrupts. -/

/-- The run state and reset generation of a function (16 R479). -/
def Mf.fn (m : Mf) (fn : Nat) : Nat × BitVec 7 := FMap.getD m.fstate fn (0, 0)

/-- Send an interrupt of a function (0 the management function, p + 1 partition function p) by its remap handle, with the function's
reset generation (16 R481). (DESIGN CHOICE, notes/assumptions/61.md.) -/
def State.raiseIrq (s : State) (fn : Nat) (handle : BitVec 16) : State :=
  let p : Packet :=
    { opc := 0x07, plen := 1, ctx := 0, part := BitVec.ofNat 4 (fn - 1), src := walkerNode 0, dst := hostNode 0, tag := 0, addr := 0
      dpkg := 0, scope := 0, ord := 0, use := 0, aop := 0, width := 0, status := 0, mask := 0
      data := bytesOf 32 (handle.toNat + 2 ^ 16 * fn + 2 ^ 24 * (s.mf.fn fn).2.toNat) }
  { s with net := s.net ++ [p] }

/-- The interrupts whose handle the spec does not number: fault queue q, HALTED of a partition, an error of one. -/
def irqFaultQueue (q : Nat) : BitVec 16 := Config.irqHandle q
/-- HALTED of a partition (13 R406). -/
def irqHalted (part : Nat) : BitVec 16 := Config.irqHandle (32 + part)
/-- A partition error, as its partition function is told (16 R490). (DEDUCED, notes/assumptions/103.md.) -/
def irqPartition (part : Nat) : BitVec 16 := Config.irqHandle (64 + part)
/-- A partition error, as the management function is told (16 R490). (DEDUCED, notes/assumptions/103.md.) -/
def irqPartitionMf (part : Nat) : BitVec 16 := Config.irqHandle (96 + part)

/-! Fault queues: 0 to 15 those of the partitions, 16 the hypervisor's (01 R42). -/

/-- A fault queue. -/
def State.queue (s : State) (q : Nat) : FaultQueue := if q < 16 then (s.part q).fq else s.mf.fq

/-- Change a fault queue. -/
def State.modQueue (s : State) (q : Nat) (f : FaultQueue → FaultQueue) : State :=
  if q < 16 then s.modPart q fun p => { p with fq := f p.fq } else { s with mf := { s.mf with fq := f s.mf.fq } }

/-- How many records a queue holds. -/
def FaultQueue.held (q : FaultQueue) : Nat := (q.prod.toNat + 2 ^ 17 - q.cons.toNat) % 2 ^ (q.log + 1)

/-- Whether a queue is full (01 R43). -/
def FaultQueue.full (q : FaultQueue) : Bool := q.held == 2 ^ q.log

/-- The key of the repeat count of a page of a context (01 R41). -/
def repeatKey (ctx : CtxKey) (va : Dword) : Nat := ctx * 2 ^ 52 + va.toNat / 4096

/-- A page fault with the walk that met it, and when that was (01 R41). -/
structure FaultInfo extends PageFault where
  walk : Walk
  time : Nat

/-- Whether a page fault is replayable; one of a malformed entry never is (01 R29, R38). -/
def State.replayable (s : State) (ctx : CtxKey) (f : PageFault) : Bool :=
  f.kind != 6 && match f.range with
    | some (_, bits) => bits.getLsbD 6
    | none =>
      if f.stage == 1 then ((FMap.get s.ctxs ctx).map (·.frply)).getD false
      else (s.part (ctxPart ctx)).frply

/-- The words of a fault record without NLANE and PHASE (01 R41). -/
def State.recordWords (s : State) (f : FaultInfo) (kind : Nat) (fid : BitVec 16) (fatal : Bool) : List Dword :=
  let w := f.walk
  let pasid := ((FMap.get s.ctxs w.ctx).map (·.pasid)).getD 0
  let range := match f.range with
    | some (i, _) => 2 ^ 29 + 2 ^ 23 * i
    | none => 0
  [w.va, BitVec.ofNat 64 (if f.stage == 2 then f.ipa else 0),
   BitVec.ofNat 64 (2 ^ 56 * kind + 2 ^ 52 * f.stage + 2 ^ 48 * ctxPart w.ctx + 2 ^ 28 * pasid.toNat +
     2 ^ 16 * ctxId w.ctx + fid.toNat),
   BitVec.ofNat 64 (2 ^ 48 * FMap.getD s.repeats (repeatKey w.ctx w.va) 0 + (if fatal then 2 ^ 30 else 0) + range +
     2 ^ 20 * f.level + 2 ^ 15 * w.wslot + 2 ^ 7 * (s.logicalCore w.core % 256) + f.acc.code),
   BitVec.ofNat 64 f.time, 0, 0, 0]

/-- The lanes attached to a fault (01 R41). -/
def lanesAttached (l : List Waiter) : Nat :=
  sumNat (l.map fun w => match w.who with
    | .frag _ _ _ m => countLanes m
    | _ => 0)

/-- Count a re-fault of a page (01 R41). -/
def State.countRepeat (s : State) (w : Walk) : State :=
  let k := repeatKey w.ctx w.va
  { s with repeats := FMap.set s.repeats k (Nat.min 255 (FMap.getD s.repeats k 0 + 1)) }

/-- The queue a fault of a stage goes to (01 R42, R46). -/
def faultQueueOf (ctx : CtxKey) (stage : Nat) : Nat := if stage == 1 then ctxPart ctx else 16

/-- A fatal fault: its record waits to be written, or is discarded where the queue is not enabled; the page has re-faulted
either way (01 R38, R41, R43). -/
def State.fatalRecord (s : State) (f : FaultInfo) (kind : Nat) : State :=
  let q := faultQueueOf f.walk.ctx f.stage
  if !(s.queue q).ena then (s.modQueue q fun x => { x with fdrop := satAdd 0xFFFF x.fdrop 1 }).countRepeat f.walk
  else
    let words := s.recordWords f kind 0 true
    let n := lanesAttached f.walk.waiters
    let words := words.set 3 (words.getD 3 0 + BitVec.ofNat 64 (2 ^ 32 * Nat.min 0xFFFF n))
    let r : Record := { ctx := f.walk.ctx, queue := q, fatal := true, entry := none, words := words, told := false }
    ({ s with records := s.records ++ [r] }).countRepeat f.walk

/-- A replayable fault: it takes an entry of the die's pending table, and its record waits to be written (01 R45, R52);
none while the table is full. (DEDUCED, notes/assumptions/119.md.) -/
def State.pendRecord (s : State) (die : Nat) (f : FaultInfo) (kind : Nat) : Option (BitVec 16 × State) :=
  match FMap.freeKey (s.die die).pending Config.pendSlots with
  | none => none
  | some e =>
    let gen := FMap.getD (s.die die).pendGen e 0
    let fid := fidOf die e gen
    let entry : PendEntry := { gen := gen, walk := f.walk, stage := f.stage, kind := kind, level := f.level
                               time := f.time, written := false }
    let r : Record := { ctx := f.walk.ctx, queue := faultQueueOf f.walk.ctx f.stage, fatal := false, entry := some (die, e)
                        words := s.recordWords f kind fid false, told := false }
    some (fid, ({ s with records := s.records ++ [r] }).countRepeat f.walk |>.modDie die fun d =>
      { d with pending := FMap.set d.pending e entry })

/-- Free a pending-table entry: its generation advances (01 R45). (DEDUCED, notes/assumptions/119.md.) -/
def Die.freePending (d : Die) (e : Nat) : Die :=
  match FMap.get d.pending e with
  | none => d
  | some p => { d with pending := FMap.erase d.pending e, pendGen := FMap.set d.pendGen e (p.gen + 1) }

/-! Walks. -/

/-- A first-stage leaf with the A and D updates that an access makes: each is written through the second stage, which may
fault; none is made of a bit already set (01 R31). -/
def State.updated (s : State) (part : Nat) (acc : Acc) (l : Leaf) : WalkEnd :=
  if bitAt l.e 8 && (!acc.writes || bitAt l.e 9) then .leaf { l with marks := none }
  else
    match s.stage2 part .adUpdate l.ipa with
    | .leaf r => .leaf { l with
        accessed := l.accessed ++ r.accessed ++ [l.pte], dirtied := if bitAt l.e 8 then [] else r.dirtied
        reads := l.reads ++ r.reads, marks := some r.dirtied }
    | w => w.since l.toTrail

/-- The first-stage walk of an address, with its permission check (01 R28 to R31, R38). -/
def State.walk1 (s : State) (ctx : CtxKey) (acc : Acc) (level0 : Bool) (va : Dword) : WalkEnd :=
  match FMap.get s.ctxs ctx with
  | none => .trap Cause.accessViolation 3 Trail.none
  | some c =>
    match s.walkFrom false (fun ipa => s.stage2 (ctxPart ctx) .tableRead ipa) va.toNat 4 c.root1 Trail.none with
    | .leaf l =>
      match s.contEntry l with
      | .leaf l =>
        let k := denyKind (BitVec.ofNat 5 (l.e / 4)) acc level0
        if k != 0 then .fault k l.level l.toTrail else s.updated (ctxPart ctx) acc l
      | w => w
    | w => w

/-- The second-stage walk of an IPA, with its permission check. -/
def State.walk2 (s : State) (part : Nat) (acc : Acc) (ipa : Nat) : WalkEnd :=
  match s.walkFrom true physRead ipa 4 (s.part part).root2 Trail.none with
  | .leaf l =>
    match s.contEntry l with
    | .leaf l =>
      let k := denyKind (BitVec.ofNat 5 (l.e / 4)) acc false
      if k != 0 then .fault k l.level l.toTrail else .leaf { l with accessed := l.accessed ++ [l.pte], marks := some [] }
    | w => w
  | w => w

/-- What a unit of the device finds when it translates an address at once. -/
inductive DevTr where
  | pa (pa : Nat) (use : Use)
  | page (f : PageFault)
  | trap (cause sub : BitVec 8) (t : Trail)
  /-- a table read met a poisoned line (03 R99) -/
  | poison (line : Nat) (t : Trail)
  deriving DecidableEq, Repr

/-- The reads that a translation made although it found no address. -/
def State.tried (s : State) (part die : Nat) : DevTr → State
  | .pa _ _ => s
  | .page f => s.tread part die f.trail
  | .trap _ _ t => s.tread part die t
  | .poison _ t => s.tread part die t

/-- An access that nothing has been done for yet, with the placement of its first stage; an access at an IPA, which has none to
inherit, starts as interleaved (01 R33). (DESIGN CHOICE, notes/assumptions/144.md.) -/
def Use.start (plc die : Nat) : Use := { trail := Trail.none, dirty := [], plc := plc, die := die, walked := none }

/-- The second stage of an access at once, after what its first stage did. (DEDUCED, notes/assumptions/63.md.) -/
def State.devIpa (s : State) (part : Nat) (acc : Acc) (ipa : Nat) (u : Use) : DevTr :=
  let final (pa plc die : Nat) (u : Use) : DevTr :=
    if paHole pa then .trap Cause.accessViolation 3 u.trail
    else .pa pa (if plc == 3 then { u with plc := s.plcOf part u.plc } else { u with plc := s.plcOf part plc, die := die })
  if decide (2 ^ 52 ≤ ipa) then .trap Cause.accessViolation 3 u.trail
  else if !(s.part part).s2en then final ipa 3 0 u
  else
    match rangeStep true (s.part part).ranges2 acc false ipa with
    | .trap c b => .trap c b u.trail
    | .mapped out plc die => final out plc die u
    | .paged r =>
      match s.walk2 part acc ipa with
      | .leaf l =>
        final (4096 * bitsAt l.e 12 40 + ipa % 2 ^ (12 + 9 * l.level)) (bitsAt l.e 10 2) (bitsAt l.e 52 2)
          { u with trail := u.trail.after l.toTrail, dirty := if acc.writes then u.dirty ++ [l.pte] else u.dirty }
      | .fault k l t =>
        .page { stage := 2, kind := k, level := l, ipa := ipa, range := r, acc := acc, inTable := false, trail := u.trail.after t }
      | .stage2 a k l i r t =>
        .page { stage := 2, kind := k, level := l, ipa := i, range := r, acc := a, inTable := false, trail := u.trail.after t }
      | .trap c b t => .trap c b (u.trail.after t)
      | .poison n t => .poison n (u.trail.after t)

/-- Translate a virtual address of a context at once, as a unit of the device does (01 R25). (DEDUCED, notes/assumptions/63.md.) -/
def State.devVa (s : State) (ctx : CtxKey) (acc : Acc) (level0 : Bool) (va : Dword) : DevTr :=
  if nonCanonical va then .trap Cause.misaligned 1 Trail.none
  else if level0 && va.getLsbD 56 then .trap Cause.accessViolation 2 Trail.none
  else
    match FMap.get s.ctxs ctx with
    | none => .trap Cause.accessViolation 3 Trail.none
    | some c =>
      match rangeStep false c.ranges acc level0 va.toNat with
      | .trap ca b => .trap ca b Trail.none
      | .mapped out plc die => s.devIpa (ctxPart ctx) acc out (Use.start plc die)
      | .paged r =>
        match s.walk1 ctx acc level0 va with
        | .leaf l =>
          s.devIpa (ctxPart ctx) acc (4096 * bitsAt l.e 12 40 + va.toNat % 2 ^ (12 + 9 * l.level))
            { trail := l.toTrail, plc := bitsAt l.e 10 2, die := bitsAt l.e 52 2, walked := some (repeatKey ctx va)
              dirty := l.dirtied ++ if acc.writes && !bitAt l.e 9 then l.marks.getD [] ++ [l.pte] else [] }
        | .fault k l t => .page { stage := 1, kind := k, level := l, ipa := 0, range := r, acc := acc, inTable := false, trail := t }
        | .stage2 a k l ipa r t => .page { stage := 2, kind := k, level := l, ipa := ipa, range := r, acc := a, inTable := true, trail := t }
        | .trap ca b t => .trap ca b t
        | .poison n t => .poison n t

/-! Faults of the device's own units. -/

/-- The stage and the page that a fault is coalesced by (01 R51): those of the translation that met it, so that a fault of a
table read or update counts for the virtual page it was walked for. (DESIGN CHOICE, notes/assumptions/128.md.) -/
def PageFault.place (f : PageFault) (va : Dword) : Nat × Nat :=
  if f.stage == 1 || f.inTable then (1, va.toNat / 4096) else (2, f.ipa / 4096)

/-- What a page fault of a unit leads to. -/
inductive UnitWait where
  /-- the unit waits for the walk or for the answer -/
  | held (s : State)
  /-- the miss queue is full: the unit tries again (01 R50) -/
  | full
  /-- a fault not to be waited for, with its record (01 R38) -/
  | fatal (kind : Nat) (s : State)

/-- A page fault of a unit (01 R38, R51, R52): it attaches to the page's entry of the pending table, or to a walk of the page;
otherwise a replayable one takes a walk, which ends in the entry and the record, and another one is fatal at once.
(DEDUCED, notes/assumptions/63.md.) -/
def State.unitFault (s : State) (die : Nat) (ctx : CtxKey) (va : Dword) (acc : Acc) (who : Who) (f : PageFault) : UnitWait :=
  let s := s.tread (ctxPart ctx) die f.trail
  let at' := f.place va
  let w := walkOf ctx at'.1 at'.2 va f.ipa acc (at'.1 == 1 && ((FMap.get s.ctxs ctx).map fun c => c.klvl == 0).getD true)
    (64 * die) 31 f.range
  match s.pendFor die ctx at'.1 at'.2 with
  | some (e, _) => .held (s.attach die e { toAsk := w.toAsk, who := who })
  | none =>
    let walked := (s.die die).walks.any (fun p => p.2.same w) || (s.die die).missq.any fun x => x.same w
    if walked || s.replayable ctx f then
      match (s.die die).join w who with
      | some d => .held (s.modDie die fun _ => d)
      | none => .full
    else .fatal f.kind (s.fatalRecord { f with walk := { w with waiters := [{ toAsk := w.toAsk, who := who }] }, time := s.refTime } f.kind)

end Sys2Proof.Machine
end

