-- ==== Sys2Proof/Machine/Records.lean ====
section
/-!
DEFINITION. Accesses of the device's own units, completion records (14 R418 to R420), acceptance and ends of launches
(14 R411, R412, R415), jobs (14 R422) and cancelling (14 R421).
-/
namespace Sys2Proof.Machine

/-! Reads and writes of the device's units. -/

/-- Write bytes by one write: a line it covers whole is no longer poisoned (03 R99). -/
def State.writeBlock (s : State) (pa : Nat) (l : List Byte) : State :=
  let t := s.mwriteBytes pa l
  { t with poison := t.poison.filter fun x => !(decide (pa ≤ 64 * x) && decide (64 * x + 64 ≤ pa + l.length)) }

/-- Whether a context's warps run at level 0 (14 R431, 01 R13). -/
def State.userCtx (s : State) (ctx : CtxKey) : Bool := ((FMap.get s.ctxs ctx).map fun c => c.klvl == 0).getD true

/-- How a write of a unit of the device ends for now, with the state. -/
inductive WriteEnd where
  /-- it has been made, or waits for its page -/
  | taken (s : State)
  | failed (s : State)

/-- The state that a write leaves. -/
def WriteEnd.state : WriteEnd → State
  | .taken s => s
  | .failed s => s

/-- Where a write of a unit goes. -/
def State.unitWriteTr (s : State) (w : UnitWrite) : DevTr :=
  match w.ctx with
  | some c => s.devVa c .store (s.userCtx c) w.addr
  | none => s.devIpa w.part .store w.addr.toNat (Use.start 0 0)

/-- Make a write of a unit, by number (01 R38): a page fault of it is replayable, and the write waits for its page, or has a record
and no effect; a table line that is poisoned condemns the context (03 R99). A write at an IPA faults for context 0, at no virtual
address. (DESIGN CHOICE, notes/assumptions/21.md.) -/
def State.tryUnitWrite (s : State) (n : Nat) (w : UnitWrite) : WriteEnd :=
  let die := s.unitDie w.part
  let gone (s : State) : State := { s with unitWrites := FMap.erase s.unitWrites n }
  let kept (s : State) : State := { s with unitWrites := FMap.set s.unitWrites n w }
  match s.unitWriteTr w with
  | .pa pa u => .taken (gone ((s.usePte w.part die pa u).writeBlock pa w.bytes))
  | .page f =>
    match s.unitFault die (w.ctx.getD (ctxKey w.part 0)) (if w.ctx.isSome then w.addr else 0) .store (.write n) f with
    | .held t => .taken (kept t)
    | .full => .taken (kept s)
    | .fatal _ t => .failed (gone t)
  | .poison line t =>
    let s := gone (s.tried w.part die (.poison line t))
    .failed { s with doomed := w.ctx.toList ++ s.doomed }
  | d => .failed (gone (s.tried w.part die d))

/-- A write of a unit under a number of its own. -/
def State.unitStore (s : State) (w : UnitWrite) : WriteEnd :=
  s.tryUnitWrite ((FMap.freeKey s.unitWrites (s.unitWrites.length + 1)).getD 0) w

/-- Write bytes at a virtual address of a context. -/
def State.devStore (s : State) (ctx : CtxKey) (va : Dword) (l : List Byte) : WriteEnd :=
  s.unitStore { ctx := some ctx, part := ctxPart ctx, addr := va, bytes := l }

/-- Write bytes at an IPA of a partition. -/
def State.ipaStore (s : State) (part ipa : Nat) (l : List Byte) : WriteEnd :=
  s.unitStore { ctx := none, part := part, addr := BitVec.ofNat 64 ipa, bytes := l }

/-- Whether a write waits for a walk or a reply. -/
def State.writeWaits (s : State) (n : Nat) : Bool :=
  let mine (l : List Waiter) : Bool := l.any fun x => x.who = .write n
  s.dies.any fun d => (d.2.walks.any fun w => mine w.2.waiters) || (d.2.missq.any fun w => mine w.waiters) ||
    d.2.pending.any fun p => mine p.2.walk.waiters

/-- Writes of units that wait for nothing any more are made again (01 R38, R40). -/
def State.retryWrites (s : State) : State :=
  s.unitWrites.foldl (fun s w => if s.writeWaits w.1 then s else (s.tryUnitWrite w.1 w.2).state) s

/-! The packet's fields (14 R411). -/

/-- A field of a packet's word. -/
def Launch.field (l : Launch) (w lo n : Nat) : Nat := bitsAt (l.words.getD w 0).toNat lo n
/-- KIND. -/
def Launch.kind (l : Launch) : Nat := l.field 0 60 4
/-- BARRIER. -/
def Launch.barrier (l : Launch) : Bool := l.field 0 59 1 == 1
/-- DIMW. -/
def Launch.dimw (l : Launch) : Bool := l.field 0 58 1 == 1
/-- OBJ. -/
def Launch.obj (l : Launch) : Dword := l.words.getD 1 0
/-- REC, as an address. -/
def Launch.recVa (l : Launch) : Dword := BitVec.ofNat 64 (64 * l.field 5 6 58)

/-- Whether a packet's reserved or unused fields, its ranges or its alignments are broken (14 R411, R412).
(DEDUCED, notes/assumptions/69.md.) -/
def badPacket (words : List Dword) : Bool :=
  let w (n : Nat) : Nat := (words.getD n 0).toNat
  let zero (l : List Nat) : Bool := l.all fun n => w n == 0
  let kind := w 0 / 2 ^ 60
  let dimw := bitAt (w 0) 58
  bitsAt (w 0) 16 42 != 0 || w 5 % 64 != 0 || decide (4 < kind) || (kind != 0 && (dimw || !zero [3, 6, 7])) ||
  match kind with
  | 0 => w 1 % 64 != 0 || (if dimw then w 6 % 4 != 0 else w 6 != 0)
  | 1 => w 1 % 4 != 0 || w 4 % 4 != 0 || decide (2 ^ 32 ≤ w 2) || w 2 % 4 != 0
  | 2 => decide (256 ≤ w 1) || !zero [2, 4]
  | 3 => w 1 % 32 != 0 || bitsAt (w 2) 13 3 != 0 || decide (2 ^ 24 ≤ w 2) || bitsAt (w 2) 0 13 == 0 ||
      decide (4096 < bitsAt (w 2) 0 13) || !zero [4]
  | _ => !zero [1, 2, 4]

/-! Completion records. -/

/-- Status codes of a record (14 R418). -/
def Status.ok : Nat := 1
/-- Status code. -/
def Status.error : Nat := 2
/-- Status code. -/
def Status.cancelled : Nat := 3
/-- Status code. -/
def Status.halted : Nat := 4
/-- Status code. -/
def Status.badDesc : Nat := 5
/-- Status code. -/
def Status.badPkt : Nat := 6
/-- Status code. -/
def Status.qFull : Nat := 7
/-- Status code. -/
def Status.noFit : Nat := 8

/-- The 64 bytes of a completion record (14 R418). -/
def recordBytes (id error status count : Nat) (faddr : Dword) (tstart tend fctx : Nat) : List Byte :=
  bytesOf 8 (2 ^ 32 * (id % 2 ^ 32) + 2 ^ 8 * (error % 256) + status % 256) ++ bytesOf 8 count ++ bytesOf 8 faddr.toNat ++
    bytesOf 8 tstart ++ bytesOf 8 tend ++ bytesOf 8 (fctx % 4096) ++ bytesOf 16 0

/-- Nodes completed in a run, skipped ones excluded (14 R418). (DEDUCED, notes/assumptions/78.md.) -/
def Run.completed (r : Run) : Nat := (r.nodes.filter fun n => n.2.phase == 2).length

/-- COUNT of a launch's record: workgroups exited, or, of a run, nodes completed (14 R418). -/
def State.launchCount (s : State) (key : LaunchKey) (l : Launch) : Nat :=
  match FMap.get s.runs key with
  | some r => r.completed
  | none => if l.kind == 0 then l.exited else 0

/-- The parts of an error: code, address and context. -/
def errorParts (e : Option (Nat × Dword × Nat)) : Nat × Dword × Nat := e.getD (0, 0, 0)

/-- The record of a launch with a status and count. -/
def State.launchRecord (s : State) (key : LaunchKey) (l : Launch) (status count : Nat) : List Byte :=
  let e := errorParts l.error
  recordBytes key e.1 status count e.2.1 l.start s.refTime e.2.2

/-- Write a launch's record, if it has one (14 R418). (DEDUCED, notes/assumptions/70.md.) -/
def State.writeRecord (s : State) (key : LaunchKey) (l : Launch) (status count : Nat) : WriteEnd :=
  if l.recVa == 0 then .failed s else s.devStore l.ctx l.recVa (s.launchRecord key l status count)

/-- Count a packet that failed with no record in QSTAT.DROP (14 R415). (DEDUCED, notes/assumptions/70.md.) -/
def State.dropPacket (s : State) (part queue : Nat) : State :=
  s.modPart part fun p =>
    let q := FMap.getD p.queues queue Queue.reset
    { p with queues := FMap.set p.queues queue { q with drop := satAdd 0xFFFF q.drop 1 } }

/-- A packet refused by its queue, its checks or its descriptor, or past its WDOG limit, or a run that ends in an error: with REC = 0 its failure goes to the
fault log, where every other failure has gone when it happened (14 R412, R420). (DEDUCED, notes/assumptions/71.md.) -/
def State.logPacket (s : State) (key : LaunchKey) (l : Launch) (status : Nat) : State :=
  let e := errorParts l.error
  if l.recVa == 0 && (decide (Status.badDesc ≤ status) || e.1 == 0x10 || l.kind == 2) && FMap.has s.ctxs l.ctx then
    s.faultLog (launchPart key) key e.1 0 0 (ctxId l.ctx) e.2.1 0
  else s

/-! Jobs (14 R422), at 65,536 × partition + identifier. -/

/-- The key of a job. -/
def jobKey (part id : Nat) : Nat := 65536 * part + id

/-- A job as its first member finds it. -/
def Job.fresh (now : Nat) : Job :=
  { members := 0, ended := 0, errored := false, cancelled := false, error := none, closed := none, start := now
    done := false, lifted := false }

/-- The job of an identifier that is open, or a new one. (DESIGN CHOICE, notes/assumptions/72.md.) -/
def State.openJob (s : State) (part id : Nat) : Job :=
  match FMap.get s.jobs (jobKey part id) with
  | some j => if j.done then Job.fresh s.refTime else j
  | none => Job.fresh s.refTime

/-- A job gains a member. (DESIGN CHOICE, notes/assumptions/72.md.) -/
def State.joinJob (s : State) (part id : Nat) : State :=
  if id == 0 then s
  else
    let j := s.openJob part id
    { s with jobs := FMap.set s.jobs (jobKey part id) { j with members := j.members + 1 } }

/-- A member of a job has ended. -/
def State.leaveJob (s : State) (part id status : Nat) (error : Option (Nat × Dword × Nat)) : State :=
  if id == 0 then s
  else
    { s with jobs := FMap.modify s.jobs (jobKey part id) fun j =>
      { j with
        ended := j.ended + 1
        errored := j.errored || !(status == Status.ok || status == Status.cancelled)
        error := match j.error with
          | some e => some e
          | none => error } }

/-- Whether a job has been cancelled and a JOBEND for it has not completed (14 R421). -/
def State.jobCancelled (s : State) (part id : Nat) : Bool :=
  id != 0 && ((FMap.get s.jobs (jobKey part id)).map fun j => j.cancelled && !j.lifted).getD false

/-- Whether a packet that names a job now is a member of it: no packet is that comes after the job's JOBEND and before its
record, or after the record while the job is still cancelled (14 R421, R422). (DESIGN CHOICE, notes/assumptions/72.md.) -/
def State.jobOpen (s : State) (part id : Nat) : Bool :=
  id != 0 && match FMap.get s.jobs (jobKey part id) with
    | none => true
    | some j => if j.done then !s.jobCancelled part id else j.closed.isNone

/-- A JOBEND packet of a launch has completed (14 R421). -/
def State.liftJob (s : State) (key : LaunchKey) (l : Launch) : State :=
  { s with jobs := FMap.modify s.jobs (jobKey (launchPart key) l.job) fun j =>
    if j.closed == some (key % 2 ^ 32, l.ctx) then { j with lifted := true } else j }

/-! Ends of launches. -/

/-- The status of a launch at its end (14 R420, R421). -/
def Launch.endStatus (l : Launch) : Nat :=
  if l.status != 0 then l.status else if l.error.isSome then Status.error else if l.cancelled then Status.cancelled else Status.ok

/-- A launch leaves its queue. -/
def State.unqueue (s : State) (key : LaunchKey) (l : Launch) : State :=
  s.modPart (launchPart key) fun p =>
    { p with queues := FMap.modify p.queues l.queue fun q => { q with packets := q.packets.filter fun x => x.id != key % 2 ^ 32 } }

/-- The end of a launch: its record by one write, its job's count, and QSTAT.DROP (14 R412, R415, R418 to R422). A node's
launch counts in no job of its own: its GRAPH packet does. -/
def State.endLaunch (s : State) (key : LaunchKey) (count : Nat) : State :=
  match FMap.get s.launches key with
  | none => s
  | some l =>
    let st := l.endStatus
    let s := s.unqueue key l
    let s := match s.writeRecord key l st count with
      | .taken s => s
      | .failed s => if st == Status.ok || st == Status.cancelled then s
        else (s.dropPacket (launchPart key) l.queue).logPacket key l st
    let s := s.modLaunch key fun x => { x with state := .ended, status := st, copyLeft := 0 }
    if l.node.isSome then s
    else if l.kind == 4 then s.liftJob key l else s.leaveJob (launchPart key) l.job st l.error

/-- End a launch with a status of its own and an error (14 R413, R419). -/
def State.refuseLaunch (s : State) (key : LaunchKey) (status error : Nat) (faddr : Dword) : State :=
  (s.modLaunch key fun l => { l with
    status := status, error := if error == 0 then l.error else some (error, faddr, ctxId l.ctx) }).endLaunch key 0

/-! Acceptance (14 R412, R415). -/

/-- A queue of a partition. -/
def Part.queue (p : Part) (q : Nat) : Queue := FMap.getD p.queues q Queue.reset

/-- The launch of an accepted packet. -/
def freshLaunch (ctx : CtxKey) (words : List Dword) (queue prio now job : Nat) (node : Option (Nat × Nat)) : Launch :=
  { ctx := ctx, words := words, queue := queue, prio := prio, state := .queued, desc := [], nx := 0, ny := 0, nz := 0
    next := 0, exited := 0, live := 0, ops := 0, error := none, status := 0, start := now, cancelled := false
    node := node, copyLeft := 0, copyBusy := false, watched := false, job := job, lastDie := none }

/-- The identifier after one (14 R412). -/
def nextLaunchId (id : Nat) : Nat := if id == 0xFFFF_FFFF then 1 else id + 1

/-- Give a packet its launch identifier (14 R412): the key and the state. -/
def State.newLaunch (s : State) (part : Nat) (ctx : CtxKey) (words : List Dword) (queue job : Nat) (node : Option (Nat × Nat)) :
    LaunchKey × State :=
  let p := s.part part
  let key := launchKey part p.nextLaunch
  let l := freshLaunch ctx words queue (p.queue queue).prio s.refTime job node
  (key, { (s.modPart part fun p => { p with nextLaunch := nextLaunchId p.nextLaunch }) with
    launches := FMap.set s.launches key l })

/-- Accept a packet (14 R411, R412, R415, R421, R422): its identifier, and the state in which it waits in its queue or has
been refused. A JOBEND closes its job, if it is open. (DEDUCED, notes/assumptions/69.md.) -/
def State.accept (s : State) (part queue : Nat) (ctx : CtxKey) (words : List Dword) : Nat × State :=
  let job := bitsAt (words.getD 0 0).toNat 0 16
  let kind := bitsAt (words.getD 0 0).toNat 60 4
  let opens := s.jobOpen part job
  let r := s.newLaunch part ctx words queue (if opens || kind == 4 then job else 0) none
  let key := r.1
  let s := r.2
  let q := (s.part part).queue queue
  let joined := if kind == 4 || !opens then s else s.joinJob part job
  let refuse (st : Nat) : State := joined.refuseLaunch key st 0 0
  let s' :=
    if !q.ena || decide (16 ≤ q.packets.length) then refuse Status.qFull
    else if badPacket words || !FMap.has s.ctxs ctx then refuse Status.badPkt
    else if kind != 4 && s.jobCancelled part job then refuse Status.cancelled
    else
      let s := joined.modPart part fun p =>
        { p with queues := FMap.set p.queues queue { q with packets := q.packets ++ [{ id := key % 2 ^ 32, ctx := ctx, words := words }] } }
      if kind == 4 && opens then
        let j := s.openJob part job
        { s with jobs := FMap.set s.jobs (jobKey part job) { j with closed := some (key % 2 ^ 32, ctx) } }
      else s
  (key % 2 ^ 32, s')

/-! Cancelling (14 R421). -/

/-- Cancel a launch: its packet leaves its queue, its warps stop, its engine operations complete CANCELLED, its undispatched
and saved workgroups are dropped. One that had already failed keeps its error. -/
def State.cancelLaunch (s : State) (key : LaunchKey) : State :=
  match FMap.get s.launches key with
  | none => s
  | some l =>
    if l.state == .ended then s
    else
      let s := s.modLaunch key fun l => { l with cancelled := true }
      let s := s.unqueue key l
      if l.state == .queued || l.state == .held then s.modLaunch key fun l => { l with state := .running, next := l.nx * l.ny * l.nz }
      else
        let s := (FMap.keys s.cores).foldl (fun s c =>
          (s.stopWarps c fun g => g.launch == key).cancelOps c fun o => o.launch == key) s
        (s.dropSaved fun v => v.wg.launch == key).modLaunch key fun l =>
          { l with next := l.nx * l.ny * l.nz, live := 0, copyLeft := 0, copyBusy := false }

/-- Whether a node has not started. -/
def NodeState.fresh : NodeState := { arrivals := 0, completed := false, phase := 0, failed := none }

/-- Cancel a graph run: its running nodes are cancelled, those not started are skipped (14 R421).
(DEDUCED, notes/assumptions/80.md.) -/
def State.cancelRun (s : State) (key : LaunchKey) : State :=
  match FMap.get s.runs key with
  | none => s.cancelLaunch key
  | some r =>
    if r.cancelled then s
    else
      let mine := (s.launches.filter fun l => (l.2.node.map fun n => n.1 == key).getD false && l.2.state != .ended).map (·.1)
      let s := mine.foldl State.cancelLaunch s
      let s := s.modLaunch key fun l => { l with cancelled := true }
      { s with runs := FMap.modify s.runs key fun r => { r with
        cancelled := true
        nodes := FMap.mapV r.nodes fun _ n => if n.phase == 1 || n.phase == 2 then n else { n with phase := 3 } } }

/-- Cancel a job: every member packet and run (14 R421). (DEDUCED, notes/assumptions/80.md.) -/
def State.cancelJob (s : State) (part id : Nat) : State :=
  let s := { s with jobs := FMap.modify s.jobs (jobKey part id) fun j => { j with cancelled := true } }
  let mine := (s.launches.filter fun l => launchPart l.1 == part && l.2.field 0 0 16 == id && l.2.node.isNone && l.2.kind != 4 &&
    l.2.state != .ended).map (·.1)
  mine.foldl State.cancelRun s

/-- Whether a launch has nothing left to do (14 R420). -/
def Launch.finished (l : Launch) : Bool :=
  l.state == .running && decide (l.nx * l.ny * l.nz ≤ l.next) && l.live == 0 && l.ops == 0 && l.copyLeft == 0 && !l.copyBusy

/-- Complete at once every launch of a context that has nothing left to do, before the context's descriptor goes. -/
def State.endAll (s : State) (ctx : CtxKey) : State :=
  (FMap.keys s.launches).foldl (fun s k => match FMap.get s.launches k with
    | some l => if l.ctx == ctx && l.state != .ended then s.endLaunch k (s.launchCount k l) else s
    | none => s) s

end Sys2Proof.Machine
end

