-- ==== Sys2Proof/Machine/System.lean ====
section
/-!
DEFINITION. The system instructions of class 7 that act on the warp, the caches and the translations (13 R394 to R402,
R405, R406): special registers, tret, cinv and cflush, tlbinv, blst and halt.
-/
namespace Sys2Proof.Machine

/-! Special registers (13 R395 to R398). -/

/-- CAPLVL (02 R56). -/
def Cap.lvl (c : Cap) : Word := BitVec.ofNat 32 (2 ^ 8 * c.alloc + c.lit)

/-- CAPNEXT at an instant (02 R56). (DEDUCED, notes/assumptions/65.md.) -/
def Cap.next (c : Cap) (now : Nat) : Word :=
  let remain := match c.closeAt with
    | some t => if c.pend && !c.emg && !c.grow then Nat.min 0xFFFF ((t - now) / 100) else 0
    | none => 0
  BitVec.ofNat 32 (2 ^ 31 * c.pend.toNat + 2 ^ 30 * c.emg.toNat + 2 ^ 29 * c.grow.toNat +
    2 ^ 16 * (if c.pend then c.target else c.lit) + remain)

/-- CAPEV (02 R56). -/
def Cap.ev (c : Cap) : Word := c.seq ++ BitVec.ofNat 16 c.last

/-- TRAPCTL (13 R398). -/
def TrapRegs.ctl (t : TrapRegs) : Word := BitVec.ofNat 32 (2 ^ 8 * t.elvl + 2 * t.exitl.toNat + t.step.toNat)

/-- MGOV, with the wait that runs (12 R371). -/
def State.readMgov (s : State) (c : Nat) : Word :=
  let m := (s.core c).matrix
  match m.waitSince with
  | some (_, t) => m.mgov + BitVec.ofNat 32 ((s.cluster (clusterOf c)).rawcyc - t)
  | none => m.mgov

/-- The 64-bit registers: TRAPPC, and the pairs of an index named LO (13 R396, R397). -/
def State.special64 (s : State) (i : Iss) (n : Nat) : Dword :=
  let k := s.cluster (clusterOf i.c)
  match n with
  | 0x0D => ((i.wg.map (·.args))).getD 0
  | 0x18 => BitVec.ofNat 64 (k.cyc / 4096)
  | 0x1A => BitVec.ofNat 64 k.rawcyc
  | 0x1C => BitVec.ofNat 64 s.refTime
  | _ => i.w.trap.pc.setWidth 64

/-- The 32-bit special registers (13 R396). -/
def State.special32 (s : State) (i : Iss) (n : Nat) : Word :=
  let g (f : Wg → Nat) : Word := BitVec.ofNat 32 ((i.wg.map f).getD 0)
  let k := s.cluster (clusterOf i.c)
  let lo (x : Nat) : Word := (s.special64 i x).extractLsb' 0 32
  let hi (x : Nat) : Word := (s.special64 i x).extractLsb' 32 32
  match n with
  | 0x00 => BitVec.ofNat 32 i.w.index
  | 0x01 => g (·.x)
  | 0x02 => g (·.y)
  | 0x03 => g (·.z)
  | 0x04 => g (·.nx)
  | 0x05 => g (·.ny)
  | 0x06 => g (·.nz)
  | 0x07 => BitVec.ofNat 32 (s.logicalCore i.c)
  | 0x08 => BitVec.ofNat 32 (s.logicalCore i.c / 8)
  | 0x09 => BitVec.ofNat 32 (dieOf i.c)
  | 0x0A => BitVec.ofNat 32 (ctxPart i.ctx)
  | 0x0B => BitVec.ofNat 32 (ctxId i.ctx)
  | 0x0C => g fun x => x.launch % 2 ^ 32
  | 0x0D => lo 0x0D
  | 0x0E => hi 0x0D
  | 0x0F => maskWord i.w.live 0
  | 0x10 => maskWord i.w.live 1
  | 0x11 => maskWord i.w.live 2
  | 0x18 => lo 0x18
  | 0x19 => hi 0x18
  | 0x1A => lo 0x1A
  | 0x1B => hi 0x1A
  | 0x1C => lo 0x1C
  | 0x1D => hi 0x1C
  | 0x20 => i.w.sflags
  | 0x21 => i.w.fflags
  | 0x29 => (i.w.trap.sub ++ i.w.trap.cause).setWidth 32
  | 0x2A => maskWord i.w.trap.mask 0
  | 0x2B => maskWord i.w.trap.mask 1
  | 0x2C => maskWord i.w.trap.mask 2
  | 0x2D => i.w.trap.info0
  | 0x2E => i.w.trap.info1
  | 0x2F => BitVec.ofNat 32 i.w.trap.frag
  | 0x30 => i.w.trap.ctl
  | 0x38 => i.w.mprog
  | 0x39 => s.readMgov i.c
  | 0x3A => (i.core.matrix.gated ++ i.core.matrix.wake).setWidth 32
  | 0x40 => i.core.cap.lvl
  | 0x41 => i.core.cap.next s.refTime
  | 0x42 => i.core.cap.ev
  | 0x48 => BitVec.ofNat 32 k.step
  | _ => BitVec.ofNat 32 k.freq

/-- The index of a special register in a rds or wrs (13 R395). -/
def specialOf (f : RForm) : Nat := (f.ext.extractLsb' 0 8).toNat

/-- rds (13 R395): D := a special register, of 32 or 64 bits. -/
def execRds (f : RForm) (s : State) : Answer State :=
  .next (s.onCore fun i => i.scalar f.guard [] fun k =>
    match f.d with
    | .none => .ok k
    | d => if f.ty == .n64 then i.put64 d (s.special64 i (specialOf f)) k else i.put32 d (s.special32 i (specialOf f)) k)

/-- Write a special register: writes to fields marked RO are ignored (13 R395, R396, R398; 12 R357).
(DEDUCED, notes/assumptions/62.md.) -/
def Warp.writeSpecial (w : Warp) (n : Nat) (v : Dword) : Warp :=
  let x := v.extractLsb' 0 32
  match n with
  | 0x20 => { w with sflags := x &&& 0x3F }
  | 0x21 => { w with fflags := x &&& 0x1F }
  | 0x28 => if w.trap.mode then { w with trap := { w.trap with pc := v.extractLsb' 0 54 } } else w
  | 0x30 => if w.trap.mode then { w with trap := { w.trap with exitl := x.getLsbD 1, step := x.getLsbD 0 } } else w
  | 0x38 =>
    let row := if x.getLsbD 5 then w.mprog.extractLsb' 0 6 else x.extractLsb' 0 6
    { w with mprog := (x &&& 0xFF00_0000) ||| row.setWidth 32 }
  | _ => w

/-- wrs (13 R395): a special register := A. (DEDUCED, notes/assumptions/62.md.) -/
def execWrs (f : RForm) (s : State) : Answer State :=
  .next (s.onCore fun i =>
    let wide := f.ty == .n64
    i.scalar f.guard [(f.a, regsOf wide)] fun k =>
      .ok (i.onWarp k fun w => w.writeSpecial (specialOf f) (i.scalarSrc wide f.a 0)))

/-! Returning from a trap (05 R186, 13 R399). -/

/-- Leave trap mode at TRAPPC, the lanes of TRAPMASK leaving first where EXITL asks for it (13 R399). Where every pending
lane of the interrupted instruction leaves so, the rest has performed it and goes on after it.
(DEDUCED, notes/assumptions/66.md.) -/
def State.returnTrap (s : State) (i : Iss) : State :=
  let t := i.w.trap
  let past := t.exitl && t.pend != 0 && subMask t.pend t.mask && t.pc == t.entryPc
  let pc := if past then nextSlot t.pc else t.pc
  let go (s : State) : State :=
    let s := s.leaveTrap i.c i.wi i.fi pc
    if t.exitl then s.exitLanes i.c i.wi (t.mask &&& i.w.live) else s
  if t.pc == t.entryPc then go s
  else
    -- a TRAPPC that wrs changed is checked as a transfer, and its fetch with it: a failure is a double trap
    match s.judge i t.elvl t.pc with
    | (.judged true, u) => go u
    | (.judged false, _) => s.doubleTrap i.c i.wi Cause.illegalTarget i.f.pc
    | (.unreadable cause, _) => s.doubleTrap i.c i.wi cause t.pc
    | (.faulted e p, _) => s.fetchPark i (lineVa t.pc) e p
    | (.walking, u) => u

/-- tret (05 R186, 13 R399): leaves trap mode once the fragment holds every lane of the handler.
(DEDUCED, notes/assumptions/66.md.) -/
def execTret (_f : RForm) (s : State) : Answer State :=
  .next (s.onIss fun i =>
    if i.spec then s
    else if !i.w.trap.mode then s.raise i (i.trapReq Cause.illegalConvergence 3 i.f.mask 0 0)
    else
      let others := i.w.frags.filter fun p => p.1 != i.fi && p.2.trm
      if !i.f.trm then s.doubleTrap i.c i.wi Cause.illegalConvergence i.f.pc
      else if others.isEmpty then s.returnTrap i
      else if others.all fun p => p.2.state == .parked then s.keepWaiting i .tret
      else s.doubleTrap i.c i.wi Cause.illegalConvergence i.f.pc)

/-! Cache maintenance (13 R401). -/

/-- The lines of a lane's extent, from the line that holds an address. -/
def lineAddrs (f : MForm) (va : Dword) : List Dword :=
  (List.range (2 ^ f.width.toNat)).map fun j => (va &&& ~~~(0x3F : Dword)) + BitVec.ofNat 64 (64 * j)

/-- The global address whose lines a lane of cinv names; none where a check fails (10 R305, 01 R12 to R21). -/
def Iss.lineBase (i : Iss) (f : MForm) (a b : Dword) (lane : Nat) : Option Dword :=
  let ea := f.ea a b
  let ofPrivate (o : Int) : Option Dword :=
    if decide (o < 0) || decide (((i.wg.map (·.privsz)).getD 0 : Int) ≤ o) then none else some (i.privateVa lane o.toNat)
  match f.space.toNat with
  | 0 => some ea
  | 1 =>
    if ea.extractLsb' 48 16 == 0xFFFE#16 then
      let off := (ea.extractLsb' 0 24).toNat
      match i.folioFor true ((ea.extractLsb' 24 12).setWidth 16 ++ (ea.extractLsb' 36 12).setWidth 16) with
      | some (_, fo) => if fo.state == .backed && decide (off < 512 * fo.size) then some (fo.backing + BitVec.ofNat 64 off) else none
      | none => none
    else if ea.extractLsb' 48 16 == 0xFFFD#16 then ofPrivate (ea.extractLsb' 0 48).toNat
    else some ea
  | _ => ofPrivate ((a.toNat % 2 ^ 32 : Nat) + f.offset b)

/-- The physical line of an address for an access; none where a check or a translation fails. (DEDUCED, notes/assumptions/64.md.) -/
def State.lineAt (s : State) (i : Iss) (acc : Acc) (va : Dword) : Option Nat :=
  match s.devVa i.ctx acc (i.f.priv == 0) va with
  | .pa pa _ => some (pa / 64)
  | _ => none

/-- Discard a line of the selected caches of a core (13 R401). -/
def State.discardLine (s : State) (i : Iss) (aop : Nat) (va : Dword) : State :=
  let s := if aop == 1 then s else match s.lineAt i .load va with
    | some n => s.cdcDrop i.c n
    | none => s
  if aop == 0 then s else match s.lineAt i .fetch va with
    | some n => s.modCore i.c fun k => { k with icache := FMap.erase k.icache n, badLines := FMap.erase k.badLines n }
    | none => s

/-- cinv (13 R401): discards the copies of lines in the core's selected caches; a failing lane acts on none.
(DEDUCED, notes/assumptions/64.md.) -/
def execCinv (f : MForm) (s : State) : Answer State :=
  .next (s.onIss fun i =>
    if i.spec || i.blocked f.guard [(f.a, 2), (f.b, 1)] then s
    else
      let m := i.active f.guard
      let a := i.src f.pairBase f.a 0
      let b := i.src false f.b 0
      let s := s.setCore i.c (i.lastReads f.lr [(f.a, regsOf f.pairBase), (f.b, 1)] m i.begin)
      (lanesOf m).foldl (fun s l => match i.lineBase f (a l) (b l) l with
        | some va => (lineAddrs f va).foldl (fun s x => s.discardLine i f.aop.toNat x) s
        | none => s) s)

/-- The checks of a lane of cflush: those of its address, and the translation of each line (13 R401, 10 R307). -/
def State.probeFlush (s : State) (i : Iss) (f : MForm) (a b : Dword) (lane : Nat) : LaneOut :=
  let ea := f.ea a b
  let first : LaneOut := match f.space.toNat with
    | 0 => s.probeGlobal i .load ea 1 1
    | 1 => s.probeGeneric i .load ea 1 1 lane false
    | _ => s.probePrivate i .load ((a.toNat % 2 ^ 32 : Nat) + f.offset b) ea 1 1 lane false
  match i.lineBase f a b lane with
  | none => first
  | some va => (lineAddrs f va).foldl (fun r x => r.join (s.probeVa i .load ea x 64 false)) first

/-- Flush a line: its home slice writes a newer copy back, to HBM or to the host, a host line is given up, and the core's
data-cache copy goes; no value in memory changes (13 R401). -/
def State.flushLine (s : State) (core pa : Nat) : State :=
  let line := pa / 64
  ((s.cdcDrop core line).writeBackLine (s.homeSlice pa) line).snoopLine line

/-- cflush (13 R401): translates, parks and traps as ld does; the quanta of the warp on the lines are applied, then each line is
flushed. -/
def execCflush (f : MForm) (s : State) : Answer State :=
  .next (s.onIss fun i =>
    if i.spec || i.blocked f.guard [(f.a, 2), (f.b, 1)] then s
    else
      let m := i.active f.guard
      let a := i.src f.pairBase f.a 0
      let b := i.src false f.b 0
      s.access i .load ((lanesOf m).map fun l => (l, s.probeFlush i f (a l) (b l) l)) none none fun m go s =>
        ((allPieces go).foldl (fun s p => match p.loc with
            | .global pa => s.flushLine i.c pa
            | .folio _ _ => s) (s.touch i (allPieces go) fun _ => false),
          fun k => .ok (i.lastReads f.lr [(f.a, regsOf f.pairBase), (f.b, 1)] m k)))

/-! Invalidating translations (13 R402, 16 R477). -/

/-- Whether a cached translation covers a page at its own page size. -/
def Tlb.covers (t : Tlb) (page : Nat) : Bool := t.page / 512 ^ t.level == page / 512 ^ t.level

/-- The entries of a range table at a physical address (01 R27). -/
def State.rangesAt (s : State) (pa n : Nat) : List RangeEntry :=
  (List.range n).map fun j =>
    { w0 := s.mdword (pa + 32 * j), w1 := s.mdword (pa + 32 * j + 8), w2 := s.mdword (pa + 32 * j + 16)
      w3 := s.mdword (pa + 32 * j + 24) }

/-- The range copies of a context as memory holds the table now; none match where the table cannot be read. -/
def State.readRanges (s : State) (part rng1 : Nat) : List RangeEntry :=
  match s.devIpa part .tableRead rng1 (Use.start 0 0) with
  | .pa pa _ => s.rangesAt pa 64
  | _ => []

/-- What reading the range table of a context does: its A bits and placements (01 R31, R35). -/
def State.usedRanges (s : State) (part rng1 : Nat) : State :=
  match s.devIpa part .tableRead rng1 (Use.start 0 0) with
  | .pa pa u => s.usePte part (s.unitDie part) pa u
  | d => s.tried part (s.unitDie part) d

/-- Reload the range copies of a context (01 R27, 13 R402). -/
def State.reloadRanges (s : State) (ctx : CtxKey) : State :=
  match FMap.get s.ctxs ctx with
  | none => s
  | some c =>
    let l := s.readRanges (ctxPart ctx) c.rng1
    (s.usedRanges (ctxPart ctx) c.rng1).modCtx ctx fun c => { c with ranges := l }

/-- Discard the first-stage translations of a context that cover a page. -/
def State.dropPage1 (s : State) (ctx : CtxKey) (va : Dword) : State :=
  { s with tlb1 := s.tlb1.filter fun t => !(t.owner == ctx && t.covers (va.toNat / 4096)) }

/-- Discard every first-stage translation and range copy of a context. -/
def State.dropCtx1 (s : State) (ctx : CtxKey) : State :=
  ({ s with tlb1 := s.tlb1.filter fun t => t.owner != ctx }).reloadRanges ctx

/-- Whether no access of a context's warps that has been translated still waits to be performed (06 R221, 13 R402).
(DEDUCED, notes/assumptions/68.md.) -/
def State.ctxQuiet (s : State) (p : CtxKey → Bool) : Bool :=
  s.cores.all fun c =>
    let mine (w : Warp) : Bool := ((FMap.get c.2.wgs w.wg).map fun g => p g.ctx).getD false
    let waits (q : Quantum) : Bool := match q.loc with
      | .global _ => true
      | .folio _ _ => false
    c.2.warps.all (fun w => !mine w.2 || !(w.2.quanta.any waits)) &&
      c.2.storeQ.all fun q => q.2.all fun e => !((FMap.get c.2.warps e.warp).map mine).getD false

/-- The context a tlbinv names, in the issuing partition (13 R402). -/
def Iss.tlbCtx (i : Iss) (f : RForm) : CtxKey := ctxKey (ctxPart i.ctx) ((i.s32 f.b 0).toNat % 4096)

/-- A tlbinv: the entries go at once, and it completes when no access that used them waits (13 R402, R506).
(DEDUCED, notes/assumptions/68.md.) -/
def State.invalidating (s : State) (i : Iss) (ctx : CtxKey) (drop : State → State) : State :=
  if i.spec then s
  else if !FMap.has s.ctxs ctx then s.modFrag i.c i.wi i.fi Frag.finish
  else
    let t := drop s
    if t.ctxQuiet fun x => x == ctx then t.modFrag i.c i.wi i.fi Frag.finish else t

/-- tlbinv.addr (13 R402): the first-stage translations of a context for a page. -/
def execTlbinvAddr (f : RForm) (s : State) : Answer State :=
  .next (s.onIss fun i => s.invalidating i (i.tlbCtx f) fun s => s.dropPage1 (i.tlbCtx f) (i.s64 f.a 0))

/-- tlbinv.ctx (13 R402): every first-stage translation and range copy of a context. (DEDUCED, notes/assumptions/67.md.) -/
def execTlbinvCtx (f : RForm) (s : State) : Answer State :=
  .next (s.onIss fun i => s.invalidating i (i.tlbCtx f) fun s => s.dropCtx1 (i.tlbCtx f))

/-- tlbinv.rng (13 R402): the range copies of a context, reloaded from memory. (DEDUCED, notes/assumptions/67.md.) -/
def execTlbinvRng (f : RForm) (s : State) : Answer State :=
  .next (s.onIss fun i => s.invalidating i (i.tlbCtx f) fun s => s.reloadRanges (i.tlbCtx f))

/-! Ballast and halt. -/

/-- blst (13 R405): ballast for a number of plane-cycles on the core's array. -/
def execBlst (f : RForm) (s : State) : Answer State :=
  .next (s.onIss fun i =>
    if i.spec then s
    else
      let n := (i.s32 f.a 0).toNat % 65536
      (s.modCore i.c fun k => { k with matrix := { k.matrix with ballast := k.matrix.ballast + n } }).modFrag i.c i.wi i.fi
        Frag.finish)

/-- Write status HALTED to the records of the context's running and queued units (13 R406). -/
def State.writeHalted (s : State) (ctx : CtxKey) : State :=
  let part := ctxPart ctx
  let mine := s.launches.filter fun l => l.2.ctx == ctx && l.2.state != .ended
  let jobs := (mine.map fun l => l.2.job).eraseDups.filter fun j => j != 0
  let s := jobs.foldl (fun s j =>
    match FMap.get s.jobs (jobKey part j) with
    | none => s
    | some job =>
      let e := errorParts job.error
      (s.ipaStore part ((s.part part).jobbase.toNat + 64 * j)
        (recordBytes j e.1 Status.halted job.ended e.2.1 job.start s.refTime e.2.2)).state) s
  mine.foldl (fun s l => if l.2.job == 0 then (s.writeRecord l.1 l.2 Status.halted (s.launchCount l.1 l.2)).state else s) s

/-- halt (13 R406): every warp of the context stops, its units' records say HALTED, and the driver is told. -/
def execHalt (_f : RForm) (s : State) : Answer State :=
  .next (s.onIss fun i =>
    if i.spec then s
    else
      let s := s.modFrag i.c i.wi i.fi Frag.finish
      let s := s.modCtx i.ctx fun c => { c with halted := true }
      (s.writeHalted i.ctx).raiseIrq (ctxPart i.ctx + 1) (irqHalted (ctxPart i.ctx)))

end Sys2Proof.Machine
end

