-- ==== Sys2Proof/Machine/Queues.lean ====
section
/-!
DEFINITION. Queues and dispatch: lnch and cncl (12 R391, R392), the start of packets (14 R413 to R417), admission and
creation of workgroups (14 R428 to R431), and the ends of launches and jobs (14 R420, R422).
-/
namespace Sys2Proof.Machine

/-! lnch and cncl. -/

/-- The result of an instruction in a state in which its warp may have been stopped. -/
def State.completeIf (s0 s : State) (i : Iss) (e : Core → Eff) : State :=
  match s.warp i.c i.wi with
  | some w => if w.uid == i.w.uid then s0.complete s i e else s
  | none => s

/-- The 64-bit words of a packet made of s registers (12 R391). -/
def Iss.packetWords (i : Iss) (o : Operand) : List Dword := (List.range 8).map fun j => i.pairAfter o (2 * j)

/-- lnch (12 R391): enqueues a packet made of sixteen s registers; D := its launch identifier, or 0 where the queue is
full. -/
def execLnch (f : XForm) (s : State) : Answer State :=
  .next (s.onIss fun i => s.scalarDo i f.guard [(f.a, 16), (f.b, 1)] fun s =>
    let q := i.s32 f.b 0
    let part := ctxPart i.ctx
    let answer (v : Word) (z : Bool) (k : Core) : Eff := i.lenient.put32 f.d v (i.onWarp k fun w => { w with sflags := setZ w.sflags z })
    if q.extractLsb' 6 26 != 0 then s.raise i (i.argTrap (regNum f.b))
    else if 16 ≤ ((s.part part).queue q.toNat).packets.length then
      s.complete s i (answer 0 true)
    else s.releasing i (some 3) fun t =>
      let r := t.accept part q.toNat i.ctx (i.packetWords f.a)
      s.complete r.2 i (answer (BitVec.ofNat 32 r.1) false))

/-- A cncl whose outcome and state are known (12 R392). -/
def State.cncl (s : State) (f : XForm) (act : Nat → Nat → State → Nat × State) : State :=
  s.onIss fun i => s.scalarDo i f.guard [(f.a, 1)] fun s =>
    let r := act (ctxPart i.ctx) (i.s32 f.a 0).toNat s
    s.completeIf r.2 i fun k => i.lenient.put32 f.d (BitVec.ofNat 32 r.1) k

/-- cncl.launch (12 R392, 14 R421). -/
def execCnclLaunch (f : XForm) (s : State) : Answer State :=
  .next (s.cncl f fun part id s => match FMap.get s.launches (launchKey part id) with
    | none => (2, s)
    | some l => if l.state == .ended then (1, s) else (0, s.cancelRun (launchKey part id)))

/-- cncl.graph (12 R392, 14 R421): the run that the GRAPH packet of an identifier started. -/
def execCnclGraph (f : XForm) (s : State) : Answer State :=
  .next (s.cncl f fun part id s => match FMap.get s.launches (launchKey part id) with
    | none => (2, s)
    | some l => if l.kind != 2 then (2, s) else if l.state == .ended then (1, s) else (0, s.cancelRun (launchKey part id)))

/-- cncl.job (12 R392, 14 R421). -/
def execCnclJob (f : XForm) (s : State) : Answer State :=
  .next (s.cncl f fun part id s => match FMap.get s.jobs (jobKey part id) with
    | none => (2, s)
    | some j => if decide (65536 ≤ id) then (2, s) else if j.done then (1, s) else (0, s.cancelJob part id))

/-! What a partition has. -/

/-- The cores of a partition, by logical number, with their physical numbers. -/
def Part.cores (p : Part) : List (Nat × Nat) :=
  p.pmap.flatMap fun e =>
    if e.2.getLsbD 7 then (List.range 8).map fun j => (8 * e.1 + j, 8 * pmapCluster e.2 + j) else []

/-! Which queue is served (14 R416, R417). -/

/-- The launches of a queue that have started and not ended. -/
def State.startedOf (s : State) (part queue : Nat) : List (LaunchKey × Launch) :=
  s.launches.filter fun l => launchPart l.1 == part && l.2.queue == queue && l.2.node.isNone &&
    (l.2.state == .running || l.2.state == .held)

/-- Whether a graph slot has a run in progress. -/
def State.slotBusy (s : State) (part slot : Nat) : Bool :=
  s.runs.any fun r => launchPart r.1 == part && r.2.slot == slot && ((FMap.get s.launches r.1).map fun l => l.state != .ended).getD false

/-- The packet that a queue has ready to start, by its launch (14 R416). (DESIGN CHOICE, notes/assumptions/73.md.) -/
def State.readyPacket (s : State) (part queue : Nat) : Option (LaunchKey × Launch) :=
  let p := s.part part
  let q := p.queue queue
  match q.packets.head? with
  | none => none
  | some h =>
    let key := launchKey part h.id
    match FMap.get s.launches key with
    | none => none
    | some l =>
      let before := (s.startedOf part queue).filter fun x => x.1 != key
      let waits :=
        (before.any fun x => x.2.kind == 0 && (x.2.state == .held || decide (x.2.next < x.2.nx * x.2.ny * x.2.nz))) ||
        (l.barrier && !before.isEmpty) || (l.kind == 2 && s.slotBusy part (l.field 1 0 8)) ||
        (l.kind == 3 && s.slotBusy part (l.field 2 16 8)) || ((FMap.get s.ctxs l.ctx).map (·.halted)).getD true
      if q.ena && p.ena && !p.down && !p.dies.isEmpty && l.state == .queued && !waits then some (key, l) else none

/-- The queue that a die's selector serves next (14 R417). (DESIGN CHOICE, notes/assumptions/73.md.) -/
def State.selected (s : State) (part die : Nat) : Option Nat :=
  let p := s.part part
  let ready := (FMap.keys p.queues).filter fun q => (s.readyPacket part q).isSome
  match ready.find? fun q => decide (16 ≤ FMap.getD (p.queue q).passed die 0) with
  | some q => some q
  | none =>
    let top := ready.foldl (fun m q => Nat.max m (p.queue q).prio) 0
    let mine := ready.filter fun q => (p.queue q).prio == top
    let last := FMap.getD p.served (8 * die + top) 63
    match mine.find? fun q => decide (last < q) with
    | some q => some q
    | none => mine.head?

/-- The dies of a partition whose selectors serve a queue next. -/
def State.servers (s : State) (part queue : Nat) : List Nat :=
  (s.part part).dies.filter fun d => s.selected part d == some queue

/-- A die's selector takes the ready packet of the queue it serves (14 R417): it starts now.
(DESIGN CHOICE, notes/assumptions/73.md.) -/
def State.takePacket (s : State) (part queue die : Nat) (key : LaunchKey) : State :=
  let ready := (FMap.keys (s.part part).queues).filter fun q => q != queue && (s.readyPacket part q).isSome
  let prio := ((s.part part).queue queue).prio
  let s := s.modPart part fun p => { p with
    served := FMap.set p.served (8 * die + prio) queue
    queues := FMap.mapV p.queues fun n q =>
      if n == queue then { q with packets := q.packets.drop 1, passed := [] }
      else if ready.contains n then { q with passed := FMap.set q.passed die (FMap.getD q.passed die 0 + 1) } else q }
  s.modLaunch key fun l => { l with state := .running, prio := prio, start := s.refTime }

/-- The start of a packet of a kind on a die whose selector serves its queue next; the state before it is left whole.
(DESIGN CHOICE, notes/assumptions/73.md, 60.md) -/
def State.startOf (s : State) (part queue kind : Nat) (act : LaunchKey → Launch → Nat → State → State) : State :=
  match s.readyPacket part queue with
  | none => s
  | some (key, l) =>
    let r := s.chooseOf (s.servers part queue)
    match r.1 with
    | some die => if l.kind == kind then act key l die (r.2.takePacket part queue die key) else s
    | none => s

/-- A packet is held for a reply: it stays at the head of its queue; one that is a node's has none (14 R413, R415). -/
def State.holdPacket (s : State) (key : LaunchKey) : State :=
  match FMap.get s.launches key with
  | none => s
  | some l =>
    let s := s.modLaunch key fun l => { l with state := .held }
    if l.node.isSome then s
    else s.modPart (launchPart key) fun p => { p with
      queues := FMap.modify p.queues l.queue fun q => { q with
        packets := { id := key % 2 ^ 32, ctx := l.ctx, words := l.words } :: q.packets } }

/-! Reads of the graph walker (14 R413, R425). -/

/-- What a read of the graph walker gives. -/
inductive WalkerRead where
  | ok (words : List Nat) (s : State)
  /-- held for a reply -/
  | held (s : State)
  /-- the walker's miss queue is full: nothing has happened, and the read is made again (01 R50) -/
  | full
  /-- failed, with the ERROR code of 14 R419 -/
  | bad (code : Nat) (s : State)
  /-- the line was poisoned: the context is killed (03 R99) -/
  | dead (s : State)

/-- A page fault of the graph walker (01 R38, R51, R52). -/
def UnitWait.walker : UnitWait → WalkerRead
  | .held s => .held s
  | .full => .full
  | .fatal kind s => .bad (0x40 + kind) s

/-- A poisoned line that the graph walker reads: the context is killed (03 R99). -/
def State.walkerKill (s : State) (ctx : CtxKey) (launch line : Nat) : State :=
  s.killContext ctx launch 0x7F 3 0 (BitVec.ofNat 64 (64 * line)) 0

/-- Read a block that lies in one page at a virtual address of a context, as words of some bytes (14 R413).
(DESIGN CHOICE, notes/assumptions/74.md.) -/
def State.walkerRead (s : State) (ctx : CtxKey) (va : Dword) (count size : Nat) (who : Who) (launch : Nat) :
    WalkerRead :=
  let die := s.unitDie (ctxPart ctx)
  match s.devVa ctx .tableRead (s.userCtx ctx) va with
  | .pa pa u =>
    if s.poison.contains (pa / 64) then .dead (s.walkerKill ctx launch (pa / 64))
    else .ok ((List.range count).map fun j => s.mread (pa + size * j) size) (s.usePte (ctxPart ctx) die pa u)
  | .trap _ _ t => .bad 0x20 (s.tread (ctxPart ctx) die t)
  | .poison line t => .dead ((s.tread (ctxPart ctx) die t).walkerKill ctx launch line)
  | .page f => (s.unitFault die ctx va .tableRead who f).walker

/-- Read some words of 32 bits, each with its own translation, the first one first; a failure names its address. -/
def State.walkerWords (s : State) (ctx : CtxKey) (who : Who) (launch : Nat) : List Dword → List Nat → WalkerRead × Dword
  | [], acc => (.ok acc s, 0)
  | va :: rest, acc =>
    match s.walkerRead ctx va 1 4 who launch with
    | .ok l s => s.walkerWords ctx who launch rest (acc ++ l)
    | r => (r, va)

/-! Kernels (07 R256, R257; 14 R413). -/

/-- A field of a kernel descriptor. -/
def descField (d : List Dword) (w lo n : Nat) : Nat := bitsAt (d.getD w 0).toNat lo n

/-- The folio specifications of a descriptor. -/
def descAll (d : List Dword) : List Nat := (List.range 4).map fun j => (d.getD (4 + j) 0).toNat

/-- The valid folio specifications of a descriptor. -/
def descSpecs (d : List Dword) : List Nat := (descAll d).filter fun x => bitAt x 63

/-- Whether a list repeats a value. -/
def hasRepeat : List Nat → Bool
  | [] => false
  | x :: l => l.contains x || hasRepeat l

/-- Whether a kernel descriptor breaks 07 R256 or R257. -/
def badDescriptor (d : List Dword) : Bool :=
  let specs := descSpecs d
  let units (x : Nat) : Nat := bitsAt x 45 12 + 1
  let r7 := specs.filter fun x => bitsAt x 60 3 == 7
  descField d 0 54 10 != 0 || descField d 1 54 10 != 0 || descField d 2 0 21 != 0 || descField d 3 0 64 != 0 ||
    decide (128 < descField d 2 56 8) || decide (64 < descField d 2 49 7) || decide (512 < descField d 2 34 10) ||
    decide (4096 < descField d 2 21 13) || (descAll d).any (fun x => bitsAt x 0 21 != 0) ||
    r7.any (fun x => decide (512 < units x)) || decide (descField d 2 34 10 < sumNat (r7.map units)) ||
    hasRepeat (specs.map fun x => bitsAt x 57 3)

/-- Warps of a workgroup, LIVE, TILES, SEWN and COOP of a descriptor. -/
def Launch.nwarps (l : Launch) : Nat := descField l.desc 2 44 4 + 1
/-- LIVE. -/
def Launch.livePeak (l : Launch) : Nat := descField l.desc 2 49 7
/-- TILES. -/
def Launch.tiles (l : Launch) : Nat := descField l.desc 2 56 8
/-- SEWN. -/
def Launch.sewn (l : Launch) : Nat := descField l.desc 2 34 10
/-- COOP. -/
def Launch.coop (l : Launch) : Bool := descField l.desc 2 48 1 == 1
/-- Workgroups of the launch. -/
def Launch.total (l : Launch) : Nat := l.nx * l.ny * l.nz

/-- How many workgroups an empty core can hold (14 R430). -/
def Launch.perCore (l : Launch) : Nat :=
  let cap (have' need : Nat) : Nat := if need == 0 then have' else have' / need
  Nat.min (Nat.min (cap Config.warpSlots l.nwarps) (cap Config.archRegs (l.nwarps * (l.livePeak + 8))))
    (Nat.min (cap Config.coreTiles l.tiles) (cap Config.sewnUnits l.sewn))

/-- Set the dimensions of a launch and judge a cooperative one (14 R413, R430). -/
def State.setDims (s : State) (key : LaunchKey) (x y z : Nat) : State :=
  let s := s.modLaunch key fun l => { l with nx := x, ny := y, nz := z }
  match FMap.get s.launches key with
  | none => s
  | some l =>
    if l.coop && decide ((s.part (launchPart key)).cores.length * l.perCore < l.total) then
      s.refuseLaunch key Status.noFit 0 0
    else s

/-- Start a KERNEL packet (14 R413): the descriptor, then the dimensions. A read held for a reply holds the packet; one that
the walker cannot take yet leaves the state that is to be gone back to. -/
def State.startKernel (s0 s : State) (key : LaunchKey) (l : Launch) : State :=
  let hold (s : State) : State := s.holdPacket key
  match s.walkerRead l.ctx l.obj 8 8 (.packet key) key with
  | .dead s => s
  | .full => s0
  | .held s => hold s
  | .bad code s => s.refuseLaunch key Status.badDesc code l.obj
  | .ok words s =>
    let d := words.map fun x => BitVec.ofNat 64 x
    if badDescriptor d then s.refuseLaunch key Status.badDesc 0x21 l.obj
    else
      let s := s.modLaunch key fun l => { l with desc := d }
      if !l.dimw then s.setDims key (l.field 2 0 32) (l.field 2 32 16) (l.field 2 48 16)
      else
        let va : Dword := l.words.getD 6 0
        match s.walkerWords l.ctx (.packet key) key [va, va + 4, va + 8] [] with
        | (.dead s, _) => s
        | (.full, _) => s0
        | (.held s, _) => hold s
        | (.bad code s, at') => s.refuseLaunch key Status.badPkt code at'
        | (.ok w s, _) =>
          if decide (65535 < w.getD 1 0) || decide (65535 < w.getD 2 0) then s.refuseLaunch key Status.badPkt 0 0
          else s.setDims key (w.getD 0 0) (w.getD 1 0) (w.getD 2 0)

/-- Start a COPY packet (14 R414) on the copy engine of the die that took it. -/
def State.startCopyPacket (s : State) (key : LaunchKey) (l : Launch) (die : Nat) : State :=
  let s := s.modLaunch key fun l => { l with copyLeft := l.field 2 0 32 }
  if l.field 2 0 32 == 0 then s else s.startCopy (dieEngine die) key

/-- KERNEL_PACKET (14 R413): a KERNEL packet starts. -/
def execKernelPacket (part queue : Nat) (s : State) : Answer State :=
  .next (s.startOf part queue 0 fun key l _ t => s.startKernel t key l)

/-- COPY_PACKET (14 R414): a COPY packet starts. -/
def execCopyPacket (part queue : Nat) (s : State) : Answer State :=
  .next (s.startOf part queue 1 fun key l die s => s.startCopyPacket key l die)

/-- GRAPH_PACKET (14 R424): a run of the packet's slot starts. -/
def execGraphPacket (part queue : Nat) (s : State) : Answer State :=
  .next (s.startOf part queue 2 fun key l _ s =>
    let r : Run := { slot := l.field 1 0 8, ctx := l.ctx, job := l.job, nodes := [], errored := false, cancelled := false }
    { s with runs := FMap.set s.runs key r })

/-- JOBEND_PACKET (14 R422): the packet, which closed its job when it was accepted, completes. -/
def execJobendPacket (part queue : Nat) (s : State) : Answer State :=
  .next (s.startOf part queue 4 fun key _ _ s => s.endLaunch key 0)

/-! Admission and creation of workgroups (14 R428 to R431). -/

/-- The free warp slots of a core. (DESIGN CHOICE, notes/assumptions/76.md.) -/
def Core.freeWarps (k : Core) : List Nat := (List.range Config.warpSlots).filter fun w => !FMap.has k.warps w

/-- Physical registers reserved on a core (05 R177): those of its warps, and those of exited warps whose writes are outstanding
(05 R178); a shadow belongs to no reservation. -/
def Core.reservedRegs (k : Core) : Nat :=
  sumNat (k.warps.map fun w => ((FMap.get k.wgs w.2.wg).map fun g => g.live + 8).getD 0) +
    (k.drain.eraseDups.filter fun x => decide (x.2 < 128)).length

/-- Accumulator tiles in use on a core. -/
def Core.usedTiles (k : Core) : Nat := sumNat (k.wgs.map fun g => g.2.tiles)

/-- Whether a core can admit a workgroup of some warps, live peak, tiles and sewn units; a ballast series holds one warp slot
(14 R428, 15 R459). -/
def Core.admits (k : Core) (nwarps live tiles sewn : Nat) : Bool :=
  decide (nwarps + (if k.matrix.service.isSome then 1 else 0) ≤ k.freeWarps.length) && decide (k.reservedRegs + nwarps * (live + 8) ≤ Config.archRegs) &&
    decide (k.usedTiles + tiles ≤ Config.coreTiles) && (sewn == 0 || (k.obtain 7 sewn).isSome)

/-- Whether a physical core's cluster is being moved away (16 R467). -/
def State.leaving (s : State) (part core : Nat) : Bool :=
  match (s.part part).moving with
  | some (n, _) => s.logicalCore core / 8 == n
  | none => false

/-- Whether a physical core takes work of its partition now: its clock runs and its cluster is not being moved away. -/
def State.coreOpen (s : State) (part core : Nat) : Bool := !(s.cluster (clusterOf core)).stopped && !s.leaving part core

/-- Of some cores, the one with the most free warp slots that admits a workgroup, the lowest logical number on a tie
(14 R428). -/
def State.bestCore (s : State) (part : Nat) (need : Core → Bool) (l : List (Nat × Nat)) : Option Nat :=
  let ok := l.filter fun c => s.coreOpen part c.2 && need (s.core c.2)
  match ok with
  | [] => none
  | c :: r =>
    some (r.foldl (fun a b => if (s.core a.2).freeWarps.length < (s.core b.2).freeWarps.length then b else a) c).2

/-- The affinity key of the next workgroup; none where the launch has no affinity (14 R429, 16 R483). -/
def State.nextKey (s : State) (part : Nat) (l : Launch) : Option Word :=
  if l.field 7 32 16 == 0 || !(s.part part).featack.getLsbD 5 then none
  else some (BitVec.ofNat 32 (l.field 7 0 32 + l.next % l.field 7 32 16))

/-- The core that takes the next workgroup of a launch (14 R428, R429). -/
def State.chooseCore (s : State) (part : Nat) (l : Launch) : Option Nat :=
  let p := s.part part
  let need (k : Core) : Bool := k.admits l.nwarps l.livePeak l.tiles l.sewn
  let home := (s.nextKey part l).bind fun key => (p.affinity.find? fun a => a.1 == l.ctx && a.2.1 == key).map (·.2.2)
  let near := home.bind fun h =>
    match s.bestCore part need (p.cores.filter fun c => c.2 == h) with
    | some c => some c
    | none => match s.bestCore part need (p.cores.filter fun c => clusterOf c.2 == clusterOf h) with
      | some c => some c
      | none => s.bestCore part need (p.cores.filter fun c => c.2 / 16 == h / 16)
  match near with
  | some c => some c
  | none =>
    let after := match l.lastDie with
      | some d => p.dies.filter (fun x => decide (d < x)) ++ p.dies.filter fun x => decide (x ≤ d)
      | none => p.dies
    after.findSome? fun d => s.bestCore part need (p.cores.filter fun c => dieOf c.2 == d)

/-- A warp as it is created (14 R431). (DEDUCED, notes/assumptions/16.md.) -/
def freshWarp (l : Launch) (g : Wg) (uid slot index klvl : Nat) : Warp :=
  let entry : SlotAddr := g.entry
  { uid := uid, wg := slot, index := index, privIndex := g.linear * g.nwarps + index, live := ~~~(0 : Mask)
    frags := [(0, { state := .ready, lvl := 0, rpl := false, held := false, trm := false, pc := entry, rcd := none
                    wait := .none, ptrap := 0, mask := ~~~(0 : Mask), pend := 0, priv := klvl, fids := [], notes := []
                    step := false, stepped := false, age := 0, deferred := false, sides := [], entry := some entry
                    behind := none, quires := none, half := [] })]
    recs := []
    s := [(0, (l.words.getD 3 0).extractLsb' 0 32), (1, (l.words.getD 3 0).extractLsb' 32 32), (2, BitVec.ofNat 32 g.x),
          (3, BitVec.ofNat 32 g.y), (4, BitVec.ofNat 32 g.z), (5, BitVec.ofNat 32 index)]
    sTrap := [], v := [], vTrap := [], k := [], f := [], sflags := 0, fflags := 0, mprog := 0
    trap := TrapRegs.reset, deferred := []
    counters := { cp := 0, st := 0, rm := 0, cpIssued := 0, stIssued := 0, rmIssued := 0 }
    fails := [], quanta := [], lostQuanta := [], comps := [], reserved := [], revoked := [], spec := []
    lastMask := [], kpend := [], vpend := [], queued := 0, klvl := klvl, watchdog := false, lockOut := none, saving := false }

/-- The workgroup of a launch's next index (14 R428, R431). -/
def Launch.freshWg (l : Launch) (key : LaunchKey) (sewn : Option Sewn) : Wg :=
  { launch := key, ctx := l.ctx, linear := l.next, x := l.next % l.nx, y := l.next / l.nx % l.ny, z := l.next / (l.nx * l.ny)
    nx := l.nx, ny := l.ny, nz := l.nz, nwarps := l.nwarps, g := [], bars := [], tiles := l.tiles, tile := []
    live := l.livePeak, entry := (l.desc.getD 0 0).setWidth 54, handler := (l.desc.getD 1 0).setWidth 54
    privsz := 16 * descField l.desc 2 21 13, pbase := l.words.getD 4 0, args := l.words.getD 3 0, prio := l.prio
    sewn := sewn, exited := [], preempt := none, frozen := none, forced := false, saveIpa := none, image := none }

/-- Perform one folio specification for a new workgroup (07 R257): its f register in every warp. -/
def State.specFolio (s : State) (c slot : Nat) (g : Wg) (x : Nat) : State :=
  let rank := bitsAt x 60 3
  let units := bitsAt x 45 12 + 1
  let hoff : BitVec 24 := BitVec.ofNat 24 (bitsAt x 21 24)
  let handler : Dword := if hoff == 0 then 0 else (g.entry + hoff.signExtend 54).setWidth 64
  let tell (s : State) (h : Word) : State := s.modCore c fun k => { k with
    warps := FMap.mapV k.warps fun _ w =>
      if w.wg == slot then { w with f := FMap.set w.f (bitsAt x 57 3) h, sflags := if h == 0 then setNocap w.sflags true else w.sflags }
      else w }
  match s.chooseOf (s.core c).freeSlots with
  | (none, s) => tell s 0
  | (some n, s) =>
    match (s.core c).capacityFor (some slot) rank units with
    | none => tell s 0
    | some (u, inside, k) =>
      let k := k.zeroUnits u units
      let f : Folio := { Folio.fresh with
        gen := (k.folio n).gen, state := .bound, rank := rank, own := some slot, size := units, start := u
        handler := handler, ctx := g.ctx, inSewn := inside }
      tell (s.setCore c { k with folios := FMap.set k.folios n f }) (handleOf n (k.folio n).gen)

/-- Whether a context holds a workgroup on its partition. -/
def State.holdsWork (s : State) (ctx : CtxKey) : Bool := s.cores.any fun c => c.2.wgs.any fun g => g.2.ctx == ctx

/-- A context's time slice begins when it holds nothing (14 R435). -/
def State.beginSlice (s : State) (ctx : CtxKey) : State :=
  if s.holdsWork ctx then s
  else
    s.modCtx ctx fun c => { c with sliceAt := some s.refTime }

/-- Create the next workgroup of a launch on a core that admits it (14 R428, R431). (DESIGN CHOICE, notes/assumptions/76.md.) -/
def State.bringIn (s : State) (key : LaunchKey) (l : Launch) (c : Nat) : State :=
  let s := (s.beginSlice l.ctx).acquire c 3
  let k := s.core c
  let slot := (FMap.freeKey k.wgs Config.warpSlots).getD 0
  let k := match if l.sewn == 0 then none else k.obtain 7 l.sewn with
    | some (u, k) => { k with wgs := FMap.set k.wgs slot (l.freshWg key (some { start := u, len := l.sewn })) }
    | none => { k with wgs := FMap.set k.wgs slot (l.freshWg key none) }
  match FMap.get k.wgs slot with
  | none => s
  | some g =>
    let klvl := ((FMap.get s.ctxs l.ctx).map (·.klvl)).getD 0
    let slots := k.freeWarps.take l.nwarps
    let k := ((List.range l.nwarps).zip slots).foldl (fun (k : Core) p =>
      k.setWarp p.2 (freshWarp l g (s.uids + p.1) slot p.1 klvl)) k
    let s := { s.setCore c k with uids := s.uids + l.nwarps }
    let s := (descSpecs l.desc).foldl (fun s x => s.specFolio c slot g x) s
    s.modLaunch key fun x => { x with next := x.next + 1, live := x.live + 1, lastDie := some (dieOf c) }

/-- Whether a launch's workgroups may be dispatched now: it runs, its context is neither halted nor waiting for a slice, and
no saved workgroup of the context waits ahead (13 R406, 14 R435). -/
def State.mayDispatch (s : State) (part : Nat) (l : Launch) : Bool :=
  l.state == .running && decide (l.next < l.total) && !l.cancelled && (s.part part).ena && !(s.part part).down &&
    (((FMap.get s.ctxs l.ctx).map fun c => !c.halted && c.waitsAt.isNone).getD false) &&
    !(s.saved.any fun v => v.wg.ctx == l.ctx && v.pre)

/-- Admit every workgroup of a cooperative launch, or none (14 R430). -/
def State.admitAll (s : State) (part : Nat) (key : LaunchKey) : Nat → Option State
  | 0 => some s
  | n + 1 =>
    match FMap.get s.launches key with
    | none => none
    | some l => match s.chooseCore part l with
      | none => none
      | some c => (s.bringIn key l c).admitAll part key n

/-- WORKGROUP_DISPATCH (14 R428 to R430, 20 R499): the next workgroup of a launch, or the whole of a cooperative one, is
admitted on a core of a die. -/
def execWorkgroupDispatch (part launch die : Nat) (s : State) : Answer State :=
  let key := launchKey part launch
  .next (match FMap.get s.launches key with
    | none => s
    | some l =>
      if !s.mayDispatch part l then s
      else
        match s.chooseCore part l with
        | none => s
        | some c =>
          if dieOf c != die then s
          else if l.coop then
            (if l.next == 0 then (s.admitAll part key l.total).getD s else s)
          else s.bringIn key l c)

/-! Ends. -/

/-- The nodes of a run's slot. -/
def State.runNodes (s : State) (key : LaunchKey) (r : Run) : List Node := FMap.getD (s.part (launchPart key)).graphs r.slot []

/-- A node's state in a run. -/
def Run.node (r : Run) (n : Nat) : NodeState := FMap.getD r.nodes n NodeState.fresh

/-- KIND of a node (14 R423). -/
def Node.kind (n : Node) : Nat := bitsAt n.w0.toNat 60 4
/-- BFIRST and BLAST of a WHILE node. -/
def Node.body (n : Node) : Nat × Nat := (bitsAt n.w3.toNat 0 12, bitsAt n.w3.toNat 16 12)

/-- The innermost of the WHILE nodes whose body holds a node: bodies nest, so it has the fewest nodes; of two with the same
body, the later one (14 R426). (DEDUCED, notes/assumptions/77.md.) -/
def enclosing (nodes : List Node) (n : Nat) : Option Nat :=
  (List.range nodes.length).foldl (fun best j => match nodes[j]? with
    | none => best
    | some x =>
      if x.kind == 3 && decide (x.body.1 ≤ n) && decide (n ≤ x.body.2) then
        match best.bind fun b => nodes[b]? with
        | some y => if x.body.2 - x.body.1 ≤ y.body.2 - y.body.1 then some j else best
        | none => some j
      else best) none

/-- Whether every node of a level has completed or been skipped: those outside every body, or those directly in one.
(DEDUCED, notes/assumptions/77.md.) -/
def Run.levelDone (r : Run) (nodes : List Node) (level : Option Nat) : Bool :=
  (List.range nodes.length).all fun n => enclosing nodes n != level || (r.node n).phase == 2 || (r.node n).phase == 3

/-- Whether a run is complete (14 R424): a cancelled one when no node runs. (DEDUCED, notes/assumptions/78.md.) -/
def State.runDone (s : State) (key : LaunchKey) (r : Run) : Bool :=
  if r.cancelled then r.nodes.all fun n => n.2.phase != 1 else r.levelDone (s.runNodes key r) none

/-- LAUNCH_COMPLETION (14 R420, R424): the record of a launch whose work has all ended is written. -/
def execLaunchCompletion (part launch : Nat) (s : State) : Answer State :=
  let key := launchKey part launch
  .next (match FMap.get s.launches key with
    | none => s
    | some l =>
      if l.state == .ended then s
      else
        match FMap.get s.runs key with
        | some r => if s.runDone key r then s.endLaunch key (s.launchCount key l) else s
        | none => if l.finished then s.endLaunch key (s.launchCount key l) else s)

/-- JOB_COMPLETION (14 R422): the record of a closed job whose members have all completed is written. -/
def execJobCompletion (part job : Nat) (s : State) : Answer State :=
  .next (match FMap.get s.jobs (jobKey part job) with
    | none => s
    | some j =>
      if j.done || j.closed.isNone || decide (j.ended < j.members) then s
      else
        let st := if j.errored then Status.error else if j.cancelled then Status.cancelled else Status.ok
        let e := errorParts j.error
        let bytes := recordBytes job e.1 st j.ended e.2.1 j.start s.refTime e.2.2
        let s := (s.ipaStore part ((s.part part).jobbase.toNat + 64 * job) bytes).state
        { s with jobs := FMap.modify s.jobs (jobKey part job) fun j => { j with done := true } })

end Sys2Proof.Machine
end

