-- ==== Sys2Proof/Machine/Graphs.lean ====
section
/-!
DEFINITION. The graph walker (14 R423 to R427): the definition of a slot, the start and end of nodes, the passes of WHILE
bodies, and what an error of a node does.
-/
namespace Sys2Proof.Machine

/-! Node tables (14 R423, R426). -/

/-- POLICY of a node. -/
def Node.policy (n : Node) : Nat := bitsAt n.w0.toNat 58 2
/-- NPRED of a node. -/
def Node.npred (n : Node) : Nat := bitsAt n.w0.toNat 32 12
/-- The valid successor entries of a node: number and index. -/
def Node.succ (n : Node) : List (Nat × Nat) :=
  (List.range 4).filterMap fun k => if bitAt n.w2.toNat (16 * k + 15) then some (k, bitsAt n.w2.toNat (16 * k) 12) else none

/-- Whether a field of a node breaks the table of 14 R423. -/
def Node.malformed (n : Node) : Bool :=
  let arg := n.w3.toNat
  let addr := n.w1.toNat
  decide (5 < n.kind) || n.policy == 3 || bitsAt n.w0.toNat 44 14 != 0 || bitsAt n.w0.toNat 0 32 != 0 ||
    ((List.range 4).any fun k => bitsAt n.w2.toNat (16 * k + 12) 3 != 0) ||
    match n.kind with
    | 0 | 1 => addr % 64 != 0 || arg != 0
    | 2 => addr % 4 != 0 || arg != 0
    | 3 => addr % 4 != 0 || bitsAt arg 12 4 != 0 || bitsAt arg 28 36 != 0
    | 4 => addr != 0 || arg != 0
    | _ => addr % 4 != 0 || bitsAt arg 48 16 != 0

/-- The successor indices of a node of a table. -/
def succsOf (nodes : List Node) (n : Nat) : List Nat := ((nodes[n]?.map Node.succ).getD []).map (·.2)

/-- Nodes left after removing, some rounds long, those that no node left names. -/
def peel (nodes : List Node) : Nat → List Nat → List Nat
  | 0, l => l
  | k + 1, l => peel nodes k (l.filter fun i => l.any fun j => (succsOf nodes j).contains i)

/-- Whether a node lies in a range of indices. -/
def inBody (b : Nat × Nat) (n : Nat) : Bool := decide (b.1 ≤ n) && decide (n ≤ b.2)

/-- The WHILE nodes of a table with their bodies. -/
def bodies (nodes : List Node) : List (Nat × (Nat × Nat)) :=
  (List.range nodes.length).filterMap fun i => match nodes[i]? with
    | some n => if n.kind == 3 then some (i, n.body) else none
    | none => none

/-- Whether a WHILE body breaks 14 R426. -/
def badBody (nodes : List Node) (i : Nat) (b : Nat × Nat) : Bool :=
  decide (b.2 < b.1) || decide (b.1 ≤ i) || decide (nodes.length ≤ b.2) ||
    (List.range nodes.length).any fun j => (succsOf nodes j).any fun x => inBody b j != inBody b x

/-- Whether two bodies overlap without nesting. -/
def crossing (a b : Nat × Nat) : Bool :=
  !(decide (a.2 < b.1) || decide (b.2 < a.1) || (decide (a.1 ≤ b.1) && decide (b.2 ≤ a.2)) ||
    (decide (b.1 ≤ a.1) && decide (a.2 ≤ b.2)))

/-- Whether a node table is malformed (14 R423, R426). -/
def badNodes (nodes : List Node) : Bool :=
  let count := nodes.length
  let named (i : Nat) : Nat := sumNat ((List.range count).map fun j => ((succsOf nodes j).filter fun x => x == i).length)
  nodes.any Node.malformed || ((List.range count).any fun j => (succsOf nodes j).any fun x => decide (count ≤ x)) ||
    ((List.range count).any fun i => ((nodes[i]?.map Node.npred).getD 0) != named i) ||
    !(peel nodes count (List.range count)).isEmpty || ((bodies nodes).any fun w => badBody nodes w.1 w.2) ||
    ((bodies nodes).any fun a => (bodies nodes).any fun b => crossing a.2 b.2)

/-- Read a node table, node by node; a failure names its address. (DEDUCED, notes/assumptions/75.md.) -/
def State.readNodes (s : State) (ctx : CtxKey) (key : LaunchKey) (va : Dword) : Nat → List Node → WalkerRead × List Node × Dword
  | 0, acc => (.ok [] s, acc, 0)
  | k + 1, acc =>
    match s.walkerRead ctx va 4 8 (.packet key) key with
    | .ok w s =>
      let d (j : Nat) : Dword := BitVec.ofNat 64 (w.getD j 0)
      s.readNodes ctx key (va + 32) k (acc ++ [{ w0 := d 0, w1 := d 1, w2 := d 2, w3 := d 3 }])
    | r => (r, acc, va)

/-- DEFINE_PACKET (14 R423): the node table is checked and copied into the slot. (DEDUCED, notes/assumptions/75.md.) -/
def execDefinePacket (part queue : Nat) (s0 : State) : Answer State :=
  .next (s0.startOf part queue 3 fun key l _ s =>
    match s.readNodes l.ctx key l.obj (l.field 2 0 13) [] with
    | (.dead s, _, _) => s
    | (.full, _, _) => s0
    | (.held s, _, _) => s.holdPacket key
    | (.bad code s, _, va) => s.refuseLaunch key Status.badPkt code va
    | (.ok _ s, nodes, _) =>
      if badNodes nodes then s.refuseLaunch key Status.badPkt 0 0
      else (s.modPart part fun p => { p with graphs := FMap.set p.graphs (l.field 2 16 8) nodes }).endLaunch key 0)

/-! Runs (14 R424). -/

/-- Change the state of a node of a run. -/
def State.modNode (s : State) (key : LaunchKey) (n : Nat) (f : NodeState → NodeState) : State :=
  { s with runs := FMap.modify s.runs key fun r => { r with nodes := FMap.set r.nodes n (f (r.node n)) } }

/-- Deliver what ended nodes send, true for completed; a node that gets only skipped is skipped and sends it on (14 R424). -/
def deliver (nodes : List Node) : Nat → List (Nat × Bool) → FMap NodeState → FMap NodeState
  | 0, _, m => m
  | _, [], m => m
  | k + 1, (n, c) :: rest, m =>
    let x := FMap.getD m n NodeState.fresh
    let y : NodeState := { x with arrivals := x.arrivals + 1, completed := x.completed || c }
    match nodes[n]? with
    | none => deliver nodes k rest m
    | some d =>
      if y.phase == 0 && y.arrivals == d.npred && !y.completed then
        deliver nodes k (rest ++ d.succ.map fun e => (e.2, false)) (FMap.set m n { y with phase := 3 })
      else deliver nodes k rest (FMap.set m n y)

/-- A node ends and sends completed or skipped along each valid successor entry (14 R424). In a cancelled run it is no
completed node. -/
def State.endNode (s : State) (key : LaunchKey) (n : Nat) (sends : Nat → Bool) : State :=
  match FMap.get s.runs key with
  | none => s
  | some r =>
    let nodes := s.runNodes key r
    let out := ((nodes[n]?.map Node.succ).getD []).map fun e => (e.2, sends e.1)
    let st := FMap.set r.nodes n { r.node n with phase := if r.cancelled then 3 else 2, failed := none }
    { s with runs := FMap.set s.runs key { r with nodes := deliver nodes (4 * nodes.length + 4) out st } }

/-- Whether a node of a run in progress is ready to start (14 R424, R426). -/
def State.nodeReady (s : State) (key : LaunchKey) (r : Run) (nodes : List Node) (n : Nat) : Bool :=
  let x := r.node n
  let open' := match enclosing nodes n with
    | none => true
    | some j => (r.node j).phase == 4
  x.phase == 0 && !r.cancelled && open' && !(((FMap.get s.ctxs r.ctx).map (·.halted)).getD true) &&
    ((FMap.get s.launches key).map fun l => l.state == .running).getD false &&
    match nodes[n]? with
    | none => false
    | some d => d.npred == 0 || (x.arrivals == d.npred && x.completed)

/-- What a node does when it starts: the run, the node and the state it starts in. -/
def State.startNode (s : State) (part run n : Nat) (kind : Nat → Bool) (act : LaunchKey → Run → Node → State → State) : State :=
  let key := launchKey part run
  match FMap.get s.runs key with
  | none => s
  | some r =>
    match (s.runNodes key r)[n]? with
    | none => s
    | some d => if kind d.kind && s.nodeReady key r (s.runNodes key r) n then act key r d s else s

/-! Errors of nodes (14 R427). -/

/-- Note an error of a node in its run: the GRAPH packet's record will say ERROR. (DEDUCED, notes/assumptions/79.md.) -/
def State.runError (s : State) (key : LaunchKey) (error : Option (Nat × Dword × Nat)) : State :=
  { s with
    runs := FMap.modify s.runs key fun r => { r with errored := true }
    launches := FMap.modify s.launches key fun l => { l with
      status := Status.error
      error := match l.error with
        | some e => some e
        | none => error } }

/-- The POLICY of a node with an error (14 R427); under continue it ends as if it had completed.
(DEDUCED, notes/assumptions/79.md.) -/
def State.nodeError (s : State) (key : LaunchKey) (d : Node) (n : Nat) (error : Option (Nat × Dword × Nat)) (go : State → State) :
    State :=
  match d.policy with
  | 0 => go (s.runError key error)
  | 1 => ((s.modNode key n fun x => { x with phase := 3 }).runError key error).cancelRun key
  | _ =>
    let s := s.modNode key n fun x => { x with phase := 3 }
    match FMap.get s.runs key with
    | none => s
    | some r => if r.job == 0 then s.cancelRun key else s.cancelJob (launchPart key) r.job

/-! Nodes with launches (14 R425). -/

/-- The launch of a node, while it has one. (DEDUCED, notes/assumptions/81.md.) -/
def State.nodeLaunch (s : State) (key : LaunchKey) (n : Nat) : Option (LaunchKey × Launch) :=
  s.launches.find? fun l => l.2.node == some (key, n)

/-- Start the packet a node has read; a copy runs on one of the partition's dies. (DESIGN CHOICE, notes/assumptions/60.md.) -/
def State.startNodePacket (s0 s : State) (key : LaunchKey) (l : Launch) : State :=
  let s := s.modLaunch key fun l => { l with state := .running }
  if l.kind == 0 then s0.startKernel s key l
  else
    let r := s.chooseOf (s.part (launchPart key)).dies
    r.2.startCopyPacket key l (r.1.getD 0)

/-- Read a node's packet and start it (14 R425). (DEDUCED, notes/assumptions/81.md.) -/
def State.runNodeLaunch (s0 s : State) (key : LaunchKey) (l : Launch) (d : Node) : State :=
  if !l.words.isEmpty then s0.startNodePacket s key l
  else
    match s.walkerRead l.ctx d.w1 8 8 (.packet key) key with
    | .dead s => s
    | .full => s0
    | .held s => s.holdPacket key
    | .bad code s => s.refuseLaunch key Status.badPkt code d.w1
    | .ok words s =>
      let words := words.map fun x => BitVec.ofNat 64 x
      let s := s.modLaunch key fun l => { l with words := words }
      if badPacket words || bitsAt (words.getD 0 0).toNat 60 4 != d.kind then s.refuseLaunch key Status.badPkt 0 0
      else s0.startNodePacket s key { l with words := words }

/-- NODE_KERNEL_START (14 R425): a ready KERNEL or COPY node reads its packet and starts it; one that was held for a reply
goes on. -/
def execNodeKernelStart (part run node : Nat) (s : State) : Answer State :=
  let key := launchKey part run
  let again := match s.nodeLaunch key node with
    | some (k, l) => if l.state == LaunchState.queued then some (k, l) else none
    | none => none
  .next (match again with
    | some (k, l) =>
      match (FMap.get s.runs key).bind fun r => (s.runNodes key r)[node]? with
      | some d => s.runNodeLaunch s k l d
      | none => s
    | none => s.startNode part run node (fun k => decide (k < 2)) fun key r d t =>
      let q : Nat := match FMap.get t.launches key with
        | some (g : Launch) => g.queue
        | none => 0
      let x := (t.modNode key node fun x => { x with phase := 1 }).newLaunch part r.ctx [] q r.job (some (key, node))
      match FMap.get x.2.launches x.1 with
      | some l => s.runNodeLaunch x.2 x.1 l d
      | none => x.2)

/-- A node whose launch has ended ends; an error of the launch meets its POLICY (14 R427). -/
def State.closeNode (s : State) (lkey : LaunchKey) (l : Launch) (key : LaunchKey) (n : Nat) : State :=
  let s := s.modLaunch lkey fun l => { l with node := none }
  match FMap.get s.runs key with
  | none => s
  | some r =>
    let finish (s : State) : State := s.endNode key n fun _ => true
    match (s.runNodes key r)[n]? with
    | none => finish s
    | some d =>
      if l.status == Status.error || l.status == Status.badDesc || l.status == Status.badPkt then
        s.nodeError key d n l.error finish
      else finish s

/-- End every node whose launch has ended. -/
def State.closeNodes (s : State) : State :=
  s.launches.foldl (fun s x => match x.2.node with
    | some (key, n) => if x.2.state == .ended then s.closeNode x.1 x.2 key n else s
    | none => s) s

/-! Nodes that read or write a word (14 R425, R426). -/

/-- Read the word of a COND or WHILE node. A read held for a reply leaves the node in a phase; one that failed meets the
node's POLICY, and under continue its word is free. -/
def State.nodeWord (s0 s : State) (key : LaunchKey) (r : Run) (d : Node) (n held : Nat) (act : Word → State → State) : State :=
  let fail (code : Nat) (s : State) : State :=
    s.nodeError key d n (some (code, d.w1, ctxId r.ctx)) fun s =>
      let x := s.freeWord
      act x.1 (x.2.modNode key n fun x => { x with failed := none })
  match (r.node n).failed with
  | some kind => fail (0x40 + kind) s
  | none =>
    match s.walkerRead r.ctx d.w1 1 4 (.node key n) key with
    | .dead s => s
    | .full => s0
    | .held s => s.modNode key n fun x => { x with phase := held }
    | .bad code s => fail code s
    | .ok w s => act (BitVec.ofNat 32 (w.getD 0 0)) s

/-- NODE_COND (14 R425). -/
def execNodeCond (part run node : Nat) (s : State) : Answer State :=
  .next (s.startNode part run node (fun k => k == 2) fun key r d t =>
    s.nodeWord t key r d node 5 fun w s => s.endNode key node fun e => decide (e < 2) == (w != 0))

/-- Begin a pass of a WHILE body, with fresh arrival counts, or end the node (14 R425, R426). -/
def State.whilePass (s : State) (key : LaunchKey) (d : Node) (n : Nat) (w : Word) : State :=
  if w == 0 then s.endNode key n fun _ => true
  else
    let s := s.modNode key n fun x => { x with phase := 4 }
    { s with runs := FMap.modify s.runs key fun r => { r with nodes := FMap.keep r.nodes fun j _ => !inBody d.body j } }

/-- NODE_WHILE (14 R425, R426): the first read of a WHILE node. -/
def execNodeWhile (part run node : Nat) (s : State) : Answer State :=
  .next (s.startNode part run node (fun k => k == 3) fun key r d t =>
    s.nodeWord t key r d node 5 fun w s => s.whilePass key d node w)

/-- WHILE_PASS_END (14 R426): a pass has ended, and the word is read again. -/
def execWhilePassEnd (part run node : Nat) (s : State) : Answer State :=
  let key := launchKey part run
  .next (match FMap.get s.runs key with
    | none => s
    | some r =>
      let nodes := s.runNodes key r
      match nodes[node]? with
      | none => s
      | some d =>
        if d.kind == 3 && (r.node node).phase == 4 && !r.cancelled && r.levelDone nodes (some node) then
          s.nodeWord s key r d node 6 fun w s => s.whilePass key d node w
        else s)

/-- NODE_JOIN (14 R425). -/
def execNodeJoin (part run node : Nat) (s : State) : Answer State :=
  .next (s.startNode part run node (fun k => k == 4) fun key _ _ s => s.endNode key node fun _ => true)

/-- Store a word at a virtual address of a context. -/
def State.walkerStore (s : State) (ctx : CtxKey) (va : Dword) (v : Nat) (who : Who) (launch : Nat) : WalkerRead :=
  let die := s.unitDie (ctxPart ctx)
  match s.devVa ctx .store (s.userCtx ctx) va with
  | .pa pa u => .ok [] ((s.usePte (ctxPart ctx) die pa u).writeBlock pa (bytesOf 4 v))
  | .trap _ _ t => .bad 0x20 (s.tread (ctxPart ctx) die t)
  | .poison line t => .dead ((s.tread (ctxPart ctx) die t).walkerKill ctx launch line)
  | .page f => (s.unitFault die ctx va .store who f).walker

/-- NODE_SIGNAL (14 R425): stores VALUE, or raises its interrupt vector. -/
def execNodeSignal (part run node : Nat) (s0 : State) : Answer State :=
  .next (s0.startNode part run node (fun k => k == 5) fun key r d s =>
    let finish (s : State) : State := s.endNode key node fun _ => true
    let fail (code : Nat) (s : State) : State := s.nodeError key d node (some (code, d.w1, ctxId r.ctx)) finish
    if d.w1 == 0 then finish (s.raiseIrq (part + 1) (d.w3.extractLsb' 32 16))
    else
      match (r.node node).failed with
      | some kind => fail (0x40 + kind) s
      | none =>
        match s.walkerStore r.ctx d.w1 (d.w3.extractLsb' 0 32).toNat (.node key node) key with
        | .dead s => s
        | .full => s0
        | .held s => s.modNode key node fun x => { x with phase := 5 }
        | .bad code s => fail code s
        | .ok _ s => finish s)

end Sys2Proof.Machine
end

