-- ==== Sys2Proof/Machine/Faults.lean ====
section
/-!
DEFINITION. Faults and waits as events: the end of a walk (01 R50 to R52), fault records and replies (01 R40 to R46), and
the events that end or interrupt the wait of a fragment (02 R73, 03 R102, R104, 04 R147, 05 R199, R201, R505, 11 R343,
14 R436).
-/
namespace Sys2Proof.Machine

/-! Units that wait for a walk or a reply. -/

/-- A packet that was held for a reply at its queue's head is ready again; one that is a node's starts again.
(DEDUCED, notes/assumptions/83.md.) -/
def State.requeue (s : State) (key : LaunchKey) : State :=
  s.modLaunch key fun l => if l.state == .held then { l with state := .queued } else l

/-- Whether an address lies in the descriptor that a launch reads before it starts (07 R256, 14 R413). -/
def Launch.atDescriptor (l : Launch) (va : Dword) : Bool :=
  l.kind == 0 && !l.words.isEmpty && decide (l.obj.toNat ≤ va.toNat) && decide (va.toNat < l.obj.toNat + 64)

/-- A unit of the device that waited for a page goes on, to try again or, with the fault kind, as its failure asks: the
address a failure names is the unit's own (01 R40, 14 R413, R419, 13 R409); a request from another package that failed is answered
FAULT (16 R492). -/
def State.unitAnswered (s : State) (failed : Option Nat) (w : Waiter) : State :=
  match w.who with
  | .frag _ _ _ _ | .engine _ _ | .once => s
  | .write n => if failed.isSome then { s with unitWrites := FMap.erase s.unitWrites n } else s
  | .remote p =>
    if failed.isSome && s.net.contains p then ({ s with net := s.net.erase p }).refuse p p.dst 2 else s
  | .packet key =>
    match failed with
    | none => s.requeue key
    | some kind =>
      match FMap.get s.launches key with
      | none => s
      | some l =>
        if l.state != .held then s
        else s.refuseLaunch key (if l.atDescriptor w.va then Status.badDesc else Status.badPkt) (0x40 + kind) w.va
  | .node run n =>
    match FMap.get s.runs run with
    | none => s
    | some r =>
      let x := r.node n
      if x.phase == 5 || x.phase == 6 then
        { s with runs := FMap.modify s.runs run fun r => { r with
          nodes := FMap.set r.nodes n { x with phase := if x.phase == 5 then 0 else 4, failed := failed } } }
      else s
  | .save c g => s.modCore c fun k => k.modWg g fun x => { x with frozen := none }

/-- Every unit that waited for a walk goes on. -/
def State.unitsAnswered (s : State) (failed : Option Nat) (l : List Waiter) : State := l.foldl (fun s w => s.unitAnswered failed w) s

/-- Whether a save that is frozen waits: a fault of it that is fatal kills its partition (13 R409). -/
def State.savesFrozen (s : State) (l : List Waiter) : Bool :=
  l.any fun w => match w.who with
    | .save c g => ((FMap.get (s.core c).wgs g).map fun x => x.frozen.isSome).getD false
    | _ => false

/-- Bring a partition down (16 R490): every context of it is killed, its clusters stop, its error interrupts are raised, and
nothing of it starts until it is reset. (DEDUCED, notes/assumptions/93.md, 103.md) -/
def State.killPartition (s : State) (part : Nat) : State :=
  let mine := (FMap.keys s.ctxs).filter fun c => ctxPart c == part
  let s := mine.foldl (fun s c => s.killContext c 0 0x7F 3 0 0 0) s
  let s := (s.part part).clusters.foldl (fun s c => s.modCluster c fun k => { k with stopped := true }) s
  ((s.modPart part fun p => { p with down := true }).raiseIrq (part + 1) (irqPartition part)).raiseIrq 0 (irqPartitionMf part)

/-! The end of a walk. -/

/-- Whether a waiter of a walk is a speculative fragment (01 R47). -/
def State.waiterSpec (s : State) (w : Waiter) : Bool :=
  match w.who with
  | .frag c w f _ => (((s.warp c w).bind fun x => FMap.get x.frags f).map Frag.isSpec).getD false
  | _ => false

/-- A walk asks as its first waiter that is not speculative does (01 R41, R47). -/
def State.lead (s : State) (w : Walk) : Walk :=
  match w.waiters.find? fun x => !s.waiterSpec x with
  | some x => { w with toAsk := x.toAsk }
  | none => w

/-- The walk leaves its slot, and the oldest miss of the queue takes it (01 R50). -/
def Die.endWalk (d : Die) (slot : Nat) : Die :=
  match d.missq with
  | [] => { d with walks := FMap.erase d.walks slot }
  | w :: rest => { d with walks := FMap.set d.walks slot w, missq := rest }

/-- A fragment with a note of a failed walk; one that is HELD has its trap recorded, to be taken when its turn comes (05 R188). -/
def Frag.noted (f : Frag) (n : FatalNote) : Frag :=
  { f with notes := n :: f.notes, ptrap := if n.fid.isNone && f.held && !f.trm && f.state != .waiting then n.cause else f.ptrap }

/-- Tell a waiter of a walk that ended in a fault that is not to be waited for; a speculative fragment stops until its level
is 0 (01 R47, 06 R220). -/
def State.noteWaiter (s : State) (ctx : CtxKey) (n : FatalNote) (w : Waiter) : State :=
  let onCtx (c x : Nat) : Bool := ((s.wgOf c x).map fun g => g.ctx == ctx).getD false
  match w.who with
  | .frag c x f _ =>
    if !onCtx c x then s
    else s.modFrag c x f fun q => if q.isSpec then { q with deferred := true } else q.noted n
  | .engine c o => s.modOp c o fun q => { q with notes := n :: q.notes }
  | _ => s

/-- The note of a walk's fault for a waiter: a fault of the page itself is one of every access to it, that of a permission one of
the access which the walk was made for (01 R38, R51). -/
def Walk.noteOf (w : Walk) (kind : Nat) (cause sub : BitVec 8) (fid : Option (BitVec 16)) (x : Waiter) : FatalNote :=
  { stage := w.stage, page := w.page, cause := cause, sub := sub, fid := fid
    acc := if kind == 1 || kind == 6 || kind == 7 then x.acc else w.acc }

/-- Tell every waiter of a walk. -/
def State.noteWaiters (s : State) (w : Walk) (kind : Nat) (cause sub : BitVec 8) : State :=
  w.waiters.foldl (fun s x => s.noteWaiter w.ctx (w.noteOf kind cause sub none x) x) s

/-- Speculative waiters of a replayable fault stop, engine operations and frozen saves are held by its fault ID, and the other
fragments, which park when they issue again, keep its answer in mind (01 R39, R40, R47, R51, R52). -/
def State.holdWaiters (s : State) (w : Walk) (kind : Nat) (fid : BitVec 16) : State :=
  w.waiters.foldl (fun s x => match x.who with
    | .frag _ _ _ _ => s.noteWaiter w.ctx (w.noteOf kind Cause.pageFatal 0 (some fid) x) x
    | .engine c o => s.modOp c o fun q => { q with fids := fid :: q.fids }
    | .save c g => s.modCore c fun k => k.modWg g fun x => if x.frozen.isSome then { x with frozen := some fid } else x
    | _ => s) s

/-- Attach waiters to a pending-table entry (01 R51). -/
def State.attachWaiters (s : State) (die e : Nat) (l : List Waiter) : State := l.foldl (fun s w => s.attach die e w) s

/-- A page fault that is not to be waited for: its record, its trap to every waiter, and the end of what units waited for
(01 R38, 13 R409). -/
def State.walkFatal (s : State) (f : FaultInfo) (all : List Waiter) : State :=
  let frozen := s.savesFrozen f.walk.waiters
  let s := ((s.fatalRecord f f.kind).noteWaiters { f.walk with waiters := all } f.kind Cause.pageFatal 0).unitsAnswered (some f.kind)
    f.walk.waiters
  if frozen then s.killPartition (ctxPart f.walk.ctx) else s

/-- A walk that ends in a page fault: it joins the page's entry in the pending table, or moves to an entry of its own, or it traps
at once with a record; waiters that are all speculative leave no trace. While the table is full it keeps its slot and the fault it
found, with the instant of that, and later walks no more (01 R38, R47, R51, R52; DESIGN CHOICE, notes/assumptions/145.md). The
write of a save waits for its answer whatever its test says (13 R409). -/
def State.walkFault (s : State) (die slot : Nat) (f : FaultInfo) : State :=
  let w := f.walk
  let real := w.waiters.filter fun x => !s.waiterSpec x
  let f := { f with walk := { w with waiters := real } }
  let ends (s : State) : State := s.modDie die fun d => d.endWalk slot
  if real.isEmpty then ends (s.holdWaiters w f.kind 0)
  else
    match s.pendFor die w.ctx w.stage w.page with
    | some (e, p) => ends ((s.attachWaiters die e real).holdWaiters w f.kind (fidOf die e p.gen))
    | none =>
      if s.replayable w.ctx f.toPageFault || (f.kind != 6 && s.savesFrozen real) then
        match s.pendRecord die f f.kind with
        | none => s.modDie die fun d => { d with
            walks := FMap.modify d.walks slot fun x => { x with found := some (f.toPageFault, f.time) } }
        | some (fid, t) => ends (t.holdWaiters w f.kind fid)
      else ends (s.walkFatal f w.waiters)

/-- A walk that ends in a translation: it is kept, its A bits are set, the regions its table reads met are placed, the units
that waited go on, and the page's repeat count goes (01 R31, R32, R35, R41). -/
def State.walkLeaf (s : State) (die slot : Nat) (w : Walk) (l : Leaf) : State :=
  let s := ((s.tread (ctxPart w.ctx) die l.toTrail).setDirty l.dirtied).modDie die fun d => d.endWalk slot
  let s := { s with repeats := FMap.erase s.repeats (repeatKey w.ctx w.va), freeCount := s.freeCount + 1 }
  let s := if w.stage == 1 then { s with tlb1 := putTlb s.tlb1 (leafTlb w.ctx w.page l) }
    else { s with tlb2 := putTlb s.tlb2 (leafTlb (ctxPart w.ctx) w.page l) }
  s.unitsAnswered none w.waiters

/-- WALK_COMPLETE (01 R50 to R52): a walk of a die's walker ends; one that read a poisoned table line kills its context
(03 R99). -/
def execWalkComplete (die walk : Nat) (s : State) : Answer State :=
  .next (match FMap.get (s.die die).walks walk with
    | none => s
    | some w =>
      let w := s.lead w
      match w.found with
      | some (f, time) => s.walkFault die walk { f with walk := w, time := time }
      | none =>
        let fault (t : Trail) (f : PageFault) : State :=
          (s.tread (ctxPart w.ctx) die t).walkFault die walk { f with walk := w, time := s.refTime }
        match if w.stage == 1 then s.walk1 w.ctx w.acc w.level0 w.va else s.walk2 (ctxPart w.ctx) w.acc w.ipa with
        | .leaf l => s.walkLeaf die walk w l
        | .fault kind level t => fault t { stage := w.stage, kind := kind, level := level, ipa := w.ipa, range := w.range
                                           acc := w.acc, inTable := false, trail := t }
        | .stage2 acc kind level ipa range t => fault t { stage := 2, kind := kind, level := level, ipa := ipa, range := range
                                                          acc := acc, inTable := true, trail := t }
        | .trap cause sub t =>
          (((s.tread (ctxPart w.ctx) die t).noteWaiters w 1 cause sub).unitsAnswered none w.waiters).modDie die fun d => d.endWalk walk
        | .poison line t => (s.tread (ctxPart w.ctx) die t).killContext w.ctx 0 0x7F 3 0 (BitVec.ofNat 64 (64 * line)) 0)

/-! Fault records and replies (01 R40 to R46). -/

/-- Microseconds a record has waited for space are counted while the ring stays full (01 R42, R43). -/
def FaultQueue.watch (q : FaultQueue) (waiting : Bool) (now : Nat) : FaultQueue :=
  let waits := waiting && q.ena && q.full
  match q.stallSince with
  | none => if waits then { q with stallSince := some now } else q
  | some t =>
    let us := (now - t) / 1000
    { q with stallSince := if waits then some (t + 1000 * us) else none, fullstall := satAdd 0xFFFF q.fullstall us }

/-- Where record i of a queue is written: at an IPA of a partition, or at a physical address (01 R42). -/
def State.recordPa (s : State) (queue : Nat) (q : FaultQueue) : DevTr :=
  let at' := q.base.toNat + 64 * (q.prod.toNat % 2 ^ q.log)
  if queue < 16 then s.devIpa queue .store at' (Use.start 0 0) else .pa at' (Use.start 0 0)

/-- The words of a record as they are written: NLANE counts the lanes attached now, PHASE tells the pass (01 R41). -/
def State.finalWords (s : State) (r : Record) (q : FaultQueue) : List Dword :=
  let attached := match r.entry with
    | none => 0
    | some (d, e) => ((FMap.get (s.die d).pending e).map fun p => lanesAttached p.walk.waiters).getD 0
  let w3 := r.words.getD 3 0 + BitVec.ofNat 64 (2 ^ 32 * Nat.min 0xFFFF attached)
  (r.words.set 3 w3).set 7 (if q.prod.toNat.testBit q.log then 0 else 2 ^ 63)

/-- A record is written at a physical address, and the ring counts it (01 R41 to R44). -/
def State.putRecord (s : State) (queue pa : Nat) (r : Record) : State :=
  let q := s.queue queue
  let s := s.writeBlock pa ((s.finalWords r q).flatMap fun w => bytesOf 8 w.toNat)
  let ring := q.held == 0 && q.armed
  let s := s.modQueue queue fun x => { x with
    prod := BitVec.ofNat 17 ((x.prod.toNat + 1) % 2 ^ (x.log + 1)), armed := x.armed && !ring }
  let s := match r.entry with
    | none => s
    | some (d, e) => s.modDie d fun x => { x with pending := FMap.modify x.pending e fun p => { p with written := true } }
  let s := { s with records := s.records.erase r }
  if ring then s.raiseIrq (if queue < 16 then queue + 1 else 0) (irqFaultQueue queue) else s

/-- A page fault of the write of a record: the record waits, and a fault that is not to be waited for is recorded once for it
(01 R38, R43). (DESIGN CHOICE, notes/assumptions/21.md.) -/
def State.recordFault (s : State) (queue : Nat) (r : Record) (f : PageFault) : State :=
  match s.unitFault (s.unitDie queue) (ctxKey queue 0) 0 .store .once f with
  | .held s => s
  | .full => s
  | .fatal _ t =>
    if r.told then s else { t with records := t.records.map fun x => if x = r then { x with told := true } else x }

/-- FAULT_RECORD_WRITE (01 R41 to R44): the oldest record of a queue is written, if it has space. -/
def execFaultRecordWrite (queue : Nat) (s : State) : Answer State :=
  let q := s.queue queue
  match s.records.find? fun r => r.queue == queue with
  | none => .next s
  | some r =>
    if !q.ena || q.full then .next s
    else
      match s.recordPa queue q with
      | .pa pa u =>
        if paHole pa then .fault (.deviceHole pa)
        else .next ((if queue < 16 then s.usePte queue (s.unitDie queue) pa u else s).putRecord queue pa r)
      | .page f => .next (s.recordFault queue r f)
      | d => .next (s.tried queue (s.unitDie queue) d)

/-- The queue a pending-table entry belongs to (01 R46). -/
def PendEntry.queue (p : PendEntry) : Nat := faultQueueOf p.walk.ctx p.stage

/-- The notes of a fault ID, once it is answered: they count from now on, or are dropped (01 R40). -/
def noteAnswered (fid : BitVec 16) (fatal : Bool) (l : List FatalNote) : List FatalNote :=
  if fatal then l.map fun n => if n.fid == some fid then { n with fid := none } else n else l.filter fun n => n.fid != some fid

/-- A reply for a fragment that was attached through its walk and has not met the fault again (01 R40, R51, 05 R188). -/
def Frag.told (f : Frag) (fid : BitVec 16) (fatal : Bool) : Frag :=
  let mine := f.notes.any fun n => n.fid == some fid
  { f with
    notes := noteAnswered fid fatal f.notes
    ptrap := if mine && fatal && f.held && !f.trm && f.state != .waiting then Cause.pageFatal else f.ptrap }

/-- A reply for a waiter that is an engine operation, or a fragment that is not parked on the entry (01 R40). -/
def State.waiterAnswered (s : State) (p : PendEntry) (fid : BitVec 16) (fatal : Bool) (w : Waiter) : State :=
  match w.who with
  | .engine c o =>
    let n := p.walk.noteOf p.kind Cause.pageFatal 0 none w
    s.modOp c o fun q => { q with
      fids := q.fids.filter fun x => x != fid, notes := if fatal then n :: q.notes else q.notes }
  | .frag c x f _ => s.modFrag c x f fun q => q.told fid fatal
  | _ => s

/-- Apply a reply (01 R40, R45): a stale or unknown fault ID is counted in BADREP. (DEDUCED, notes/assumptions/83.md.) -/
def State.reply (s : State) (queue : Nat) (fid : BitVec 16) (fatal : Bool) : State :=
  let die := (fid.extractLsb' 14 2).toNat
  let e := (fid.extractLsb' 0 10).toNat
  match FMap.get (s.die die).pending e with
  | none => s.modQueue queue fun q => { q with badrep := satAdd 0xFFFF q.badrep 1 }
  | some p =>
    if p.gen != fid.extractLsb' 10 4 || p.queue != queue then
      s.modQueue queue fun q => { q with badrep := satAdd 0xFFFF q.badrep 1 }
    else
      let s := { (s.modDie die fun d => d.freePending e) with
        records := s.records.filter fun r => r.entry != some (die, e) }
      if fatal && s.savesFrozen p.walk.waiters then s.killPartition (ctxPart p.walk.ctx)
      else
        let s := p.walk.waiters.foldl (fun s w => s.waiterAnswered p fid fatal w) (s.answerAll fid fatal)
        s.unitsAnswered (if fatal then some p.kind else none) p.walk.waiters

/-- FQREPLY_RETRY (01 R40). -/
def execFqreplyRetry (queue : Nat) (fid : BitVec 16) (s : State) : Answer State := .next (s.reply queue fid false)

/-- FQREPLY_FATAL (01 R40). -/
def execFqreplyFatal (queue : Nat) (fid : BitVec 16) (s : State) : Answer State := .next (s.reply queue fid true)

/-- FQCONS_WRITE (01 R44): the driver has consumed records; CONS equal to PROD lets the next record interrupt. -/
def execFqconsWrite (queue : Nat) (value : BitVec 17) (s : State) : Answer State :=
  .next (s.modQueue queue fun q =>
    let q := { q with cons := value }
    { q with armed := q.armed || q.held == 0 })

/-! Timers of warps and cores. -/

/-- QUANTUM_TIMEOUT (04 R147): the quanta of a warp that are 10 µs old are applied. -/
def execQuantumTimeout (core warp : Nat) (s : State) : Answer State :=
  .next (s.clocked core (s.applyQuanta core warp fun q =>
    decide (q.since + 10000 ≤ s.refTime) && ((s.core core).lockedQuantum warp q).isNone))

/-- A fragment of a warp. -/
def State.frag (s : State) (c w f : Nat) : Option Frag := (s.warp c w).bind fun x => FMap.get x.frags f

/-- Whether the waits of a warp's fragments may end now: its clock runs and its context and workgroup do. -/
def State.mayWake (s : State) (c w : Nat) : Bool :=
  !(s.cluster (clusterOf c)).frozen && match s.wgOf c w with
    | none => false
    | some g => g.frozen.isNone && !(((FMap.get s.ctxs g.ctx).map (·.halted)).getD false)

/-- The bank whose lock bits a waiting fragment is in retry for. -/
def Frag.lockBank (f : Frag) : Option Nat :=
  match f.state, f.wait with
  | .waiting, .lock bank => some bank
  | _, _ => none

/-- The warp whose turn it is among those that wait on a bank's lock bits: round-robin by warp slot (03 R102). -/
def State.lockNext (s : State) (c bank : Nat) : Option Nat :=
  let l := (s.core c).warps.filter fun w => s.mayWake c w.1 && w.2.frags.any fun f => f.2.lockBank == some bank
  match FMap.get (s.core c).lockTurn bank with
  | none => l.head?.map (·.1)
  | some last => match l.find? fun w => decide (last < w.1) with
    | some w => some w.1
    | none => l.head?.map (·.1)

/-- LOCK_RETRY (03 R102): a waiting access is tried again, when its warp slot's turn has come. (DEDUCED, notes/assumptions/33.md.) -/
def execLockRetry (core warp fragment : Nat) (s : State) : Answer State :=
  .next (match (s.frag core warp fragment).bind Frag.lockBank with
    | none => s
    | some bank =>
      if s.lockNext core bank == some warp then
        (s.modCore core fun k => { k with lockTurn := FMap.set k.lockTurn bank warp }).modFrag core warp fragment
          fun f => { f with state := .ready, wait := .none }
      else s)

/-- LOCK_TIMEOUT (03 R104): a lock bit held for more than 65,536 core clocks; its owner takes the trap under 05 R505. -/
def execLockTimeout (core bank index : Nat) (s : State) : Answer State :=
  let key := 64 * bank + index
  .next (match FMap.get (s.core core).locks key with
    | none => s
    | some l =>
      let held := (s.cluster (clusterOf core)).rawcyc - l.since
      if held ≤ 65536 then s
      else s.modWarp core l.warp fun w => { w with lockOut := some (key, l.lane, Nat.min 0xFFFF_FFFF held) })

/-- WDOG of a launch in milliseconds. -/
def Launch.wdog (l : Launch) : Nat := l.field 7 48 16

/-- WATCHDOG (14 R436): each warp of a launch that has passed its limit takes WATCHDOG, and the launch records it. -/
def execWatchdog (part launch : Nat) (s : State) : Answer State :=
  let key := launchKey part launch
  .next (match FMap.get s.launches key with
    | none => s
    | some l =>
      if l.kind != 0 || l.wdog == 0 || l.state != .running || l.watched || decide (s.refTime < l.start + 1000000 * l.wdog) then s
      else
        let s := s.modLaunch key fun l => { l.note 0x10 0 (ctxId l.ctx) with watched := true }
        let mark (w : Warp) : Warp := { w with watchdog := true }
        { s with
          cores := FMap.mapV s.cores fun _ k => { k with warps := FMap.mapV k.warps fun _ w =>
            if ((FMap.get k.wgs w.wg).map fun g => g.launch == key).getD false then mark w else w }
          saved := s.saved.map fun v => if v.wg.launch == key then { v with warps := v.warps.map fun w => (w.1, mark w.2) } else v })

/-- Whether a fragment stalls at a divergent bra for want of an entry or a record, its transfers being such as are made: the slots are
marked, or their lines cannot be fetched now (05 R167, R201, 07 R229). -/
def State.stalled (s : State) (c w f : Nat) : Bool :=
  match s.prepare { core := c, warp := w, frag := f, late := false } with
  | .run (.bra b) t => match t.iss with
    | none => false
    | some i =>
      let taken := i.f.mask &&& i.guardMask b.guard
      b.guard.e && !i.blocked b.guard [] && taken != 0 && taken != i.f.mask && (t.judge i i.f.priv (i.rel b.tgt)).1.goes &&
        (t.judge i i.f.priv (i.rel b.rcv)).1.goes && (i.split i.w (i.rel b.tgt) (i.rel b.rcv) false taken).isNone
  | _ => false

/-- SPLITFULL_DETECTION (05 R201): no fragment of a warp can free an entry; its lowest stalled fragment traps. A READY fragment
that is HELD cannot issue, and counts as none that could free one; TRAPINFO1 becomes a free value as the trap is entered.
(DEDUCED, notes/assumptions/84.md; DESIGN CHOICE, notes/assumptions/142.md.) -/
def execSplitfullDetection (core warp : Nat) (s : State) : Answer State :=
  .next (match s.warp core warp with
    | none => s
    | some w =>
      let able := w.frags.filter fun p => !(p.2.held && p.2.state == .ready)
      let stuck := able.filter fun p => p.2.state == .ready && s.stalled core warp p.1
      let all := able.all fun p => (p.2.state == .waiting && p.2.wait == .record) || stuck.any fun q => q.1 == p.1
      match stuck.head? with
      | none => s
      | some (fi, f) =>
        if !all || !w.kpend.isEmpty || !w.spec.isEmpty then s
        else s.takeTrap core warp fi
          { cause := Cause.illegalConvergence, sub := 6, pc := f.pc, mask := f.mask, info0 := BitVec.ofNat 32 w.frags.length
            info1 := 0, folio := none })

/-- ISSUE_AGE_EXPIRY (05 R199): a fragment that has been READY for 64 of its slot's cycles is chosen next, the oldest wait
first. -/
def execIssueAgeExpiry (core slot : Nat) (s : State) : Answer State :=
  .next (
    let old : List (Nat × Nat × Nat) := (s.core core).warps.flatMap fun w =>
      if w.1 % 4 != slot then []
      else (w.2.frags.filter fun f => s.mayIssue core w.1 f.1 && decide (64 ≤ f.2.age)).map fun f => (w.1, f.1, f.2.age)
    match old with
    | [] => s
    | x :: r =>
      let b := r.foldl (fun a y => if a.2.2 < y.2.2 then y else a) x
      s.modCore core fun k => { k with urgent := FMap.set k.urgent slot (b.1, b.2.1) })

/-- A fragment as if it issued its instruction. -/
def State.issAt (s : State) (c w f : Nat) : Option Iss := ({ s with cur := { core := c, warp := w, frag := f, late := false } }).iss

/-- The timeout and the destination of a frwait (02 R73). -/
def Wait.limit : Wait → Option (Nat × Operand)
  | .folioState _ d (some t) => some (t, d)
  | .folioWord _ _ _ d (some t) => some (t, d)
  | .capacity _ d (some t) => some (t, d)
  | _ => Option.none

/-- A frwait of a fragment whose time has run out ends with 0xFFFF_FFFF, while its clock runs (02 R73, 21 R504). -/
def State.expireWait (s : State) (core warp fragment : Nat) : State :=
  match s.issAt core warp fragment with
  | none => s
  | some i =>
    if i.f.state != .waiting || !s.mayWake core warp then s
    else
      match i.f.wait.limit with
      | none => s
      | some (t, d) => if s.refTime < t then s else s.endWith i d 0xFFFF_FFFF i.f.wait

/-- A sleep of a fragment whose time has run out ends, while its clock runs (11 R343, 21 R504). -/
def State.expireSleep (s : State) (core warp fragment : Nat) : State :=
  match s.frag core warp fragment with
  | none => s
  | some f =>
    if f.state != .waiting || !s.mayWake core warp then s
    else
      match f.wait with
      | .sleep t => if s.refTime < t then s else s.modFrag core warp fragment Frag.endWait
      | _ => s

/-- WAIT_TIMEOUT (02 R73, 21 R504). -/
def execWaitTimeout (core warp fragment : Nat) (s : State) : Answer State := .next (s.expireWait core warp fragment)

/-- SLEEP_EXPIRY (11 R343, 21 R504). -/
def execSleepExpiry (core warp fragment : Nat) (s : State) : Answer State := .next (s.expireSleep core warp fragment)

/-- ILLEGAL_OPCODE (07 R247, R249): a slot whose opcode is unassigned traps. -/
def execIllegalOpcode (opcode : BitVec 10) (s : State) : Answer State :=
  .next (s.onIss fun i => s.decodeTrap i i.f.pc Cause.illegalOpcode opcode.toNat)

end Sys2Proof.Machine
end

