-- ==== Sys2Proof/Machine/Image.lean ====
section
/-!
DEFINITION. The image of a saved workgroup (13 R407): its bytes, and the workgroup that bytes stand for. The rule fixes the
order and the sizes of the parts; the split table, the records, the gatherings and the folio entries have layouts of their own
(05 R165, R166, 03 R106, 02 R57); the places in the headers are the model's. (DESIGN CHOICE, notes/assumptions/89.md.)
-/
namespace Sys2Proof.Machine

/-! Codes. -/

/-- The WAIT code of a wait (05 R165). -/
def Wait.code : Wait → Nat
  | .none => 0
  | .record => 1
  | .bar _ | .barAgain _ | .barw _ => 2
  | .collective | .tret => 3
  | .wcnt _ _ => 4
  | .folioState _ _ _ | .folioWord _ _ _ _ _ | .capacity _ _ _ | .grget _ _ | .grputRes _ _ => 5
  | .sleep _ => 6
  | .lock _ => 7

/-- The instant at which a wait ends by itself. -/
def Wait.deadline : Wait → Option Nat
  | .folioState _ _ t | .folioWord _ _ _ _ t | .capacity _ _ t => t
  | .sleep t => some t
  | _ => Option.none

/-- A wait with another instant. -/
def Wait.mapLimit (g : Nat → Nat) : Wait → Wait
  | .folioState h d l => .folioState h d (l.map g)
  | .folioWord h o v d l => .folioWord h o v d (l.map g)
  | .capacity b d l => .capacity b d (l.map g)
  | .sleep t => .sleep (g t)
  | w => w

/-- The code of a fragment's state (05 R165). -/
def FragState.code : FragState → Nat
  | .ready => 0
  | .speculative => 1
  | .parked => 2
  | .waiting => 3

/-- The code of a handler. -/
def Handler.code : Handler → Nat
  | .folio => 0
  | .kernel => 1
  | .supervisor => 2

/-- The handler of a code. -/
def Handler.ofCode : Nat → Handler
  | 0 => .folio
  | 1 => .kernel
  | _ => .supervisor

/-! The bytes of an image. -/

/-- The two words of a mask: lanes 0 to 63, and 64 to 95. -/
def maskBytes (m : Mask) : List Byte := bytesOf 16 m.toNat

/-- The state that a save stores: a fragment with lanes still to perform its instruction is PARKED (05 R165, 01 R48). -/
def Frag.savedState (f : Frag) : FragState := if f.state == .ready && f.pend != 0 then .parked else f.state

/-- A split-table entry as a save stores it (05 R165). -/
def fragBytes (f : Option Frag) : List Byte :=
  match f with
  | none => bytesOf 8 0 ++ bytesOf 8 (15 * 2 ^ 60) ++ bytesOf 32 0
  | some f =>
    bytesOf 8 (2 ^ 63 + 2 ^ 60 * f.savedState.code + 2 ^ 58 * f.lvl + 2 ^ 57 * f.rpl.toNat + 2 ^ 56 * f.held.toNat +
        2 ^ 55 * f.trm.toNat + f.pc.toNat) ++
      bytesOf 8 (2 ^ 60 * f.rcd.getD 15 + (if f.state == .waiting then 2 ^ 56 * f.wait.code else 0) + f.ptrap.toNat) ++
      maskBytes f.mask ++ maskBytes (if f.savedState == .parked then f.pend else 0)

/-- A reconvergence record as a save stores it (05 R166). -/
def recBytes (r : Option Rec) : List Byte :=
  match r with
  | none => bytesOf 8 (15 * 2 ^ 54) ++ bytesOf 32 0
  | some r => bytesOf 8 (2 ^ 63 + 2 ^ 54 * r.outer.getD 15 + r.addr.toNat) ++ maskBytes r.expect ++ maskBytes r.arrive

/-- A gathering record as a save stores it (03 R106). -/
def gathBytes (g : Option Gath) : List Byte :=
  match g with
  | none => bytesOf 16 0
  | some g =>
    bytesOf 8 (2 ^ 32 * g.handle.toNat + 2 ^ 17 * g.off + 2 ^ 8 * g.slotsz + g.nslot) ++
      bytesOf 8 (2 ^ 63 + 2 ^ 44 * g.pi + 2 ^ 36 * g.ci + 2 ^ 27 * g.res + 2 ^ 18 * g.fill + 2 ^ 9 * g.held)

/-- A barrier in 256 bytes (11 R339): for each warp its arrival mask, then in the first two rows of 16 bytes the phase and the
ARR bits. -/
def barBytes' (b : Barrier) : List Byte :=
  (List.range 16).flatMap fun w =>
    bytesOf 12 (FMap.getD b.mask w 0).toNat ++
      bytesOf 4 (if w == 0 then b.phase.toNat else if w == 1 then sumNat (b.arr.eraseDups.map fun x => 2 ^ x) else 0)

/-- The v names of a warp that are allocated, as bits; the trap bank's v56 to v63 are bits 64 to 71. -/
def Warp.vMap (w : Warp) : Nat := sumNat ((FMap.keys w.v).map fun n => 2 ^ n) + sumNat ((FMap.keys w.vTrap).map fun n => 2 ^ (n + 8))

/-- The header of a warp's part, 112 bytes (13 R407). -/
def Warp.header (w : Warp) (now : Nat) : List Byte :=
  let t := w.trap
  let level := (w.frags.findSome? fun f => if f.2.trm then some f.2.priv else none).getD w.klvl
  bytesOf 4 w.sflags.toNat ++ bytesOf 4 w.fflags.toNat ++ bytesOf 4 w.mprog.toNat ++
    bytesOf 4 (2 ^ 8 * t.sub.toNat + t.cause.toNat) ++
    bytesOf 8 (2 ^ 63 * t.mode.toNat + 2 ^ 62 * t.exitl.toNat + 2 ^ 61 * t.step.toNat + 2 ^ 59 * t.handler.code +
      2 ^ 57 * (t.elvl % 4) + t.pc.toNat) ++
    bytesOf 12 t.mask.toNat ++ bytesOf 4 t.frag ++ bytesOf 4 t.info0.toNat ++ bytesOf 4 t.info1.toNat ++
    bytesOf 12 t.pend.toNat ++ bytesOf 4 level ++
    bytesOf 4 w.counters.cp ++ bytesOf 4 w.counters.st ++ bytesOf 4 w.counters.rm ++ bytesOf 4 w.index ++
    (List.range 8).flatMap fun j => bytesOf 4 ((((FMap.get w.frags j).bind fun f => f.wait.deadline).map fun t => t - now).getD 0)

/-- An allocated v register as a save stores it: data, dead mask, padding (13 R407). -/
def VReg.bytes (r : VReg) : List Byte :=
  ((List.range 96).flatMap fun l => bytesOf 4 (r.val.at l).toNat) ++ bytesOf 12 r.dead.toNat ++ bytesOf 52 0

/-- A warp's part of an image (13 R407); s61 to s63 hold no value of their own, and their bytes are free
(notes/assumptions/4.md). -/
def Warp.bytes (w : Warp) (now : Nat) : List Byte :=
  w.header now ++ ((List.range 8).flatMap fun j => fragBytes (FMap.get w.frags j)) ++
    ((List.range 8).flatMap fun j => recBytes (FMap.get w.recs j)) ++
    ((List.range 61).flatMap fun j => bytesOf 4 (FMap.getD w.s j 0).toNat) ++
    ((List.range 12).map fun j => Config.freeImageByte (16 * w.uid + j)) ++
    ((List.range 8).flatMap fun j => bytesOf 4 (FMap.getD w.sTrap (48 + j) 0).toNat) ++
    ((List.range 16).flatMap fun j => bytesOf 12 (FMap.getD w.k j 0).toNat) ++
    ((List.range 8).flatMap fun j => bytesOf 4 (FMap.getD w.f j 0).toNat) ++ bytesOf 16 w.vMap ++
    (FMap.values w.v).flatMap VReg.bytes ++ (FMap.values w.vTrap).flatMap VReg.bytes

/-- The header of an image, 64 bytes (13 R407): the descriptor's address, the launch identifier, the counts of warps, TILES and
folios, then the workgroup's linear index, the warps that have exited and the number of the save. -/
def Saved.header (v : Saved) (desc : Dword) : List Byte :=
  bytesOf 8 desc.toNat ++ bytesOf 4 (v.wg.launch % 2 ^ 32) ++ bytesOf 4 v.warps.length ++ bytesOf 4 v.wg.tiles ++
    bytesOf 4 v.folios.length ++ bytesOf 8 v.wg.linear ++ bytesOf 8 (sumNat (v.wg.exited.eraseDups.map fun x => 2 ^ x)) ++
    bytesOf 8 v.seed ++ bytesOf 16 0

/-- The parts of an image that come before the sewn data (13 R407). (DESIGN CHOICE, notes/assumptions/89.md.) -/
def Saved.front (v : Saved) (desc : Dword) : List Byte :=
  v.header desc ++ ((List.range 16).flatMap fun j => bytesOf 4 (FMap.getD v.wg.g j 0).toNat) ++
    ((List.range 16).flatMap fun j => barBytes' (FMap.getD v.wg.bars j { phase := 0, arr := [], mask := [] })) ++
    ((List.range 16).flatMap fun j => gathBytes ((v.gath.find? fun g => g.1 == j).map (·.2))) ++
    (v.folios.flatMap fun f => (List.range 4).flatMap fun n => bytesOf 8 (f.2.1.word n).toNat) ++
    bytesOf (32 * (v.folios.length % 2)) 0

/-- The bytes of an image (13 R407). (DESIGN CHOICE, notes/assumptions/89.md.) -/
def Saved.bytes (v : Saved) (desc : Dword) (now : Nat) : List Byte :=
  v.front desc ++ (v.folios.flatMap fun f => f.2.2) ++
    ((List.range (1024 * v.wg.tiles)).flatMap fun j => bytesOf 4 (FMap.getD v.wg.tile j 0).toNat) ++
    v.warps.flatMap fun w => w.2.bytes now

/-! Reading an image. -/

/-- The number in some bytes of an image. -/
def imgNat (m : List Byte) (off n : Nat) : Nat := leOf ((m.drop off).take n)

/-- The words of some bytes, listing those that are not zero. -/
def wordMap (w first n size : Nat) (m : List Byte) (off : Nat) : FMap (BitVec w) :=
  (List.range n).filterMap fun j =>
    let x := imgNat m (off + size * j) size
    if x == 0 then none else some (first + j, BitVec.ofNat w x)

/-- The counts in the header of an image: warps, TILES and folios. -/
structure ImageCounts where
  warps : Nat
  tiles : Nat
  folios : Nat

/-- The counts of an image. -/
def imageCounts (m : List Byte) : ImageCounts :=
  { warps := imgNat m 12 4, tiles := imgNat m 16 4, folios := imgNat m 20 4 }

/-- Whether a workgroup can have the counts of an image. -/
def ImageCounts.possible (c : ImageCounts) : Bool :=
  decide (0 < c.warps) && decide (c.warps ≤ 16) && decide (c.tiles ≤ Config.coreTiles) && decide (c.folios ≤ Config.folioSlots)

/-- Where the sewn data of an image starts. -/
def ImageCounts.sewnAt (c : ImageCounts) : Nat := 4480 + (32 * c.folios + 63) / 64 * 64

/-- The bytes of sewn data of folio j of an image: its size, at rank 7 with capacity (02 R57). -/
def sewnBytes (m : List Byte) (j : Nat) : Nat :=
  let w0 := imgNat m (4480 + 32 * j) 8
  if bitsAt w0 42 3 == 7 && [1, 2, 4].contains (bitsAt w0 45 3) then 512 * (bitsAt w0 12 12 + 1) else 0

/-- Where the tiles of an image start. -/
def tilesAt (m : List Byte) : Nat := (imageCounts m).sewnAt + sumNat ((List.range (imageCounts m).folios).map (sewnBytes m))

/-- The registers that a warp's map names. -/
def vNames (m : List Byte) (at' : Nat) : List Nat := (List.range 72).filter fun n => bitAt (imgNat m (at' + 1328) 16) n

/-- The bytes of a warp's part. -/
def warpLen (m : List Byte) (at' : Nat) : Nat := 1344 + 448 * (vNames m at').length

/-- The places of the warps' parts of an image, and where it ends. -/
def warpPlaces (m : List Byte) : Nat → Nat → List Nat × Nat
  | 0, at' => ([], at')
  | n + 1, at' =>
    let r := warpPlaces m n (at' + warpLen m at')
    (at' :: r.1, r.2)

/-- The length of an image, as far as the bytes read so far tell: it does not exceed them once all that it rests on is read. -/
def imageLen (m : List Byte) : Nat :=
  if (imageCounts m).possible then (warpPlaces m (imageCounts m).warps (tilesAt m + 4096 * (imageCounts m).tiles)).2 else 64

/-- A mask of an image. -/
def imgMask (m : List Byte) (off : Nat) : Mask := BitVec.ofNat 96 (imgNat m off 12)

/-- The wait of a restored fragment: what the context engine knows of the fragment, where it waits as the image says; else what
the code alone tells. -/
def resumeWait (known : Option Frag) (code : Nat) (trm : Bool) : Wait :=
  match known with
  | some f => if f.state == .waiting && f.wait.code == code then f.wait else if code == 1 then .record else .none
  | none => if code == 1 then .record else if code == 3 then (if trm then .tret else .collective) else .none

/-- The fragment of a split-table entry (05 R165, 13 R410): one saved PARKED performs its pending lanes anew (01 R48), and one
whose wait is not known issues its instruction again. -/
def fragOfImage (known : Option Frag) (klvl tlvl now left : Nat) (m : List Byte) (at' : Nat) : Option Frag :=
  let w0 := imgNat m at' 8
  let w1 := imgNat m (at' + 8) 8
  if !bitAt w0 63 then none
  else
    let trm := bitAt w0 55
    let code := bitsAt w0 60 3
    let wait := (if code == 3 then resumeWait known (bitsAt w1 56 4) trm else .none).mapLimit fun _ => now + left
    some { state := if code == 3 && wait != .none then .waiting else .ready, lvl := 0, rpl := bitAt w0 57, held := bitAt w0 56, trm := trm
           pc := BitVec.ofNat 54 w0, rcd := if bitsAt w1 60 4 == 15 then none else some (bitsAt w1 60 4), wait := wait
           ptrap := BitVec.ofNat 8 w1, mask := imgMask m (at' + 16), pend := imgMask m (at' + 32), priv := if trm then tlvl else klvl
           fids := [], notes := [], step := (known.map (·.step)).getD false, stepped := (known.map (·.stepped)).getD false, age := 0
           deferred := false, sides := [], entry := known.bind (·.entry), behind := none, quires := none
           half := (known.map (·.half)).getD [] }

/-- The record of an entry of the record table (05 R166). -/
def recOfImage (m : List Byte) (at' : Nat) : Option Rec :=
  let w0 := imgNat m at' 8
  if !bitAt w0 63 then none
  else some { addr := BitVec.ofNat 54 w0, expect := imgMask m (at' + 8), arrive := imgMask m (at' + 24)
              outer := if bitsAt w0 54 4 == 15 then none else some (bitsAt w0 54 4) }

/-- A v register of an image. -/
def vregOfImage (m : List Byte) (at' : Nat) : VReg :=
  { val := lanesFrom fun l => BitVec.ofNat 32 (imgNat m (at' + 4 * l) 4), dead := imgMask m (at' + 384) }

/-- The entries of a table of an image that are in use. -/
def tableOf {α : Type} (n : Nat) (f : Nat → Option α) : FMap α := (List.range n).filterMap fun j => (f j).map fun x => (j, x)

/-- A warp of an image, on what the context engine knows of it (13 R410), with the counters that it had when it was saved: the engine
operations that have completed since are no longer outstanding (04 R153, R159, 13 R408). Bits that a special register does not have
are not taken from the image (00 R8). -/
def Warp.ofImage (known : Warp) (count : Counters) (slot now : Nat) (m : List Byte) (at' : Nat) : Warp :=
  let t := imgNat m (at' + 16) 8
  let tlvl := imgNat m (at' + 60) 4
  let names := vNames m at'
  let regs := (names.zip (List.range names.length)).map fun x => (x.1, vregOfImage m (at' + 1344 + 448 * x.2))
  let pc := BitVec.ofNat 54 t
  { known with
    wg := slot, index := imgNat m (at' + 76) 4, lastMask := [], lockOut := none
    sflags := BitVec.ofNat 32 (imgNat m at' 4) &&& 0x3F, fflags := BitVec.ofNat 32 (imgNat m (at' + 4) 4) &&& 0x1F
    mprog := BitVec.ofNat 32 (imgNat m (at' + 8) 4) &&& 0xFF00_003F
    trap := { mode := bitAt t 63, handler := Handler.ofCode (bitsAt t 59 2), pc := pc
              entryPc := if known.trap.pc == pc then known.trap.entryPc else pc
              cause := BitVec.ofNat 8 (imgNat m (at' + 12) 1), sub := BitVec.ofNat 8 (imgNat m (at' + 13) 1)
              mask := imgMask m (at' + 24), info0 := BitVec.ofNat 32 (imgNat m (at' + 40) 4), info1 := BitVec.ofNat 32 (imgNat m (at' + 44) 4)
              pend := imgMask m (at' + 48), frag := imgNat m (at' + 36) 4, elvl := bitsAt t 57 2, exitl := bitAt t 62, step := bitAt t 61 }
    counters := { known.counters with
      cp := imgNat m (at' + 64) 4 - (count.cp - known.counters.cp), st := imgNat m (at' + 68) 4 - (count.st - known.counters.st)
      rm := imgNat m (at' + 72) 4 - (count.rm - known.counters.rm) }
    frags := tableOf 8 fun j =>
      fragOfImage (FMap.get known.frags j) known.klvl tlvl now (imgNat m (at' + 80 + 4 * j) 4) m (at' + 112 + 48 * j)
    recs := tableOf 8 fun j => recOfImage m (at' + 496 + 40 * j)
    s := wordMap 32 0 61 4 m (at' + 816), sTrap := wordMap 32 48 8 4 m (at' + 1060)
    k := wordMap 96 0 16 12 m (at' + 1104), f := wordMap 32 0 8 4 m (at' + 1296)
    v := regs.filter fun x => decide (x.1 < 64), vTrap := (regs.filter fun x => decide (64 ≤ x.1)).map fun x => (x.1 - 8, x.2)
    live := (List.range 8).foldl (fun l j => if bitAt (imgNat m (at' + 112 + 48 * j) 8) 63 then l ||| imgMask m (at' + 128 + 48 * j) else l) 0 }

/-- The gathering record of an image (03 R106); which reserved slots hold complete data is as the context engine knows. -/
def gathOfImage (known : Option Gath) (slot : Nat) (m : List Byte) (at' : Nat) : Option Gath :=
  let g0 := imgNat m at' 8
  let g1 := imgNat m (at' + 8) 8
  if !bitAt g1 63 then none
  else
    let res := bitsAt g1 27 9
    let count := bitsAt g0 0 8 + 1
    let pi := bitsAt g1 44 8
    let order := match known with
      | some g => if g.res == res && g.pi == pi then g.order else (List.range res).map fun j => ((pi + count - res + j) % count, false)
      | none => (List.range res).map fun j => ((pi + count - res + j) % count, false)
    some { handle := BitVec.ofNat 32 (bitsAt g0 32 32), off := bitsAt g0 17 15, slotsz := bitsAt g0 8 9, nslot := bitsAt g0 0 8, pi := pi
           ci := bitsAt g1 36 8, res := res, fill := bitsAt g1 18 9, held := bitsAt g1 9 9, order := order, wg := slot }

/-- The barriers of an image (11 R339). -/
def barOfImage (m : List Byte) (at' : Nat) : Option Barrier :=
  let arr := imgNat m (at' + 28) 4
  let b : Barrier := { phase := BitVec.ofNat 16 (imgNat m (at' + 12) 4), arr := (List.range 16).filter fun w => bitAt arr w
                       mask := (List.range 16).filterMap fun w =>
                         if imgMask m (at' + 16 * w) == 0 then none else some (w, imgMask m (at' + 16 * w)) }
  if b.phase == 0 && b.arr.isEmpty && b.mask.isEmpty then none else some b

/-- The folio of an entry of an image (02 R57, 13 R410): a rank 7 folio that held capacity returns BOUND with its contents, and a
folio of another rank returns LOST. -/
def folioOfImage (ctx : CtxKey) (m : List Byte) (at' : Nat) : Folio :=
  let w0 := imgNat m at' 8
  let rank := bitsAt w0 42 3
  let code := bitsAt w0 45 3
  { gen := BitVec.ofNat 16 (bitsAt w0 48 16)
    state := if rank != 7 then .lost else if code == 5 then .backed else if [1, 2, 4].contains code then .bound else .lost
    rank := rank, pers := bitAt w0 41, clm := none, own := none, size := bitsAt w0 12 12 + 1, start := 0
    handler := BitVec.ofNat 64 (imgNat m (at' + 8) 8), backing := BitVec.ofNat 64 (imgNat m (at' + 16) 8)
    key := BitVec.ofNat 32 (imgNat m (at' + 28) 4), ctx := ctx, inSewn := false }

/-- Whether a warp's part of an image is well formed: entries name states, records and levels that a save produces (05 R165), and
some lane is left. -/
def warpFormed (m : List Byte) (at' : Nat) : Bool :=
  (List.range 8).all (fun j =>
    let w0 := imgNat m (at' + 112 + 48 * j) 8
    let w1 := imgNat m (at' + 120 + 48 * j) 8
    !bitAt w0 63 || (bitsAt w0 58 2 == 0 && [0, 2, 3].contains (bitsAt w0 60 3) &&
      (bitsAt w1 60 4 == 15 || bitAt (imgNat m (at' + 496 + 40 * (bitsAt w1 60 4 % 8)) 8) 63 && decide (bitsAt w1 60 4 < 8)))) &&
  (List.range 8).any fun j => bitAt (imgNat m (at' + 112 + 48 * j) 8) 63

/-- A warp of an image of which the context engine knows nothing: of its launch, with a number of its own. -/
def freshSaved (l : Launch) (g : Wg) (uid index klvl : Nat) : Warp :=
  { freshWarp l g uid 0 index klvl with frags := [], s := [] }

/-- The workgroup that an image stands for, on what the context engine knows of the save it names; none for an image that is
malformed: of no running launch of the partition, with counts that are not the launch's, with an entry that no save produces, or
of folios whose slots are not known (13 R403, R407, R410). (DESIGN CHOICE, notes/assumptions/88.md.) -/
def State.savedOf (s : State) (part : Nat) (m : List Byte) : Option Saved :=
  let c := imageCounts m
  let key := launchKey part (imgNat m 8 4)
  let linear := imgNat m 24 8
  let seed := imgNat m 40 8
  match FMap.get s.launches key with
  | none => none
  | some l =>
    let known := s.saved.find? fun v => v.part == part && v.seed == seed && v.wg.launch == key && v.wg.linear == linear
    let places := warpPlaces m c.warps (tilesAt m + 4096 * c.tiles)
    let exited := (List.range 16).filter fun w => bitAt (imgNat m 32 8) w
    let slots := (known.map fun v => v.folios.map (·.1)).getD []
    if l.state != .running || l.kind != 0 || l.obj.toNat != imgNat m 0 8 || decide (l.total ≤ linear) || !c.possible ||
        c.warps + exited.length != l.nwarps || c.tiles != l.tiles || slots.length != c.folios || !places.1.all (warpFormed m) then none
    else
      let g : Wg := { ({ l with next := linear }).freshWg key (if l.sewn == 0 then none else some { start := 0, len := l.sewn }) with
        g := wordMap 32 0 16 4 m 64, bars := tableOf 16 fun j => barOfImage m (128 + 256 * j)
        tile := wordMap 32 0 (1024 * c.tiles) 4 m (tilesAt m), exited := exited, prio := l.prio }
      let klvl := ((FMap.get s.ctxs l.ctx).map (·.klvl)).getD 0
      let data := (List.range c.folios).foldl (fun (a : Nat × List (Nat × Folio × List Byte)) j =>
        (a.1 + sewnBytes m j, a.2 ++ [(slots.getD j 0, folioOfImage l.ctx m (4480 + 32 * j), (m.drop a.1).take (sewnBytes m j))]))
        (c.sewnAt, [])
      some { part := part, ipa := 0, pre := false, loaded := (known.map (·.loaded)).getD false, core := (known.map (·.core)).getD 0, wg := g
             warps := (places.1.zip (List.range c.warps)).map fun p =>
               let k := (known.bind fun v => v.warps[p.2]?)
               let w := (k.map (·.2)).getD (freshSaved l g (s.uids + p.2) (imgNat m (p.1 + 76) 4) klvl)
               ((k.map (·.1)).getD 0, w.ofImage (((known.bind fun v => v.counts[p.2]?)).getD w.counters) 0 s.refTime m p.1)
             folios := data.2
             gath := tableOf 16 fun j =>
               gathOfImage (known.bind fun v => (v.gath.find? fun x => x.1 == j).map (·.2)) 0 m (4224 + 16 * j)
             claims := (known.map (·.claims)).getD [], seed := seed, moved := (known.map (·.moved)).getD false
             counts := (known.map (·.counts)).getD [] }

end Sys2Proof.Machine
end

