-- ==== Sys2Proof/Machine/ContextEngine.lean ====
section
/-!
DEFINITION. The context engine: pre-emption and time slices (14 R435), saving and restoring a workgroup (13 R408 to R410,
20 R498), ctxsv and ctxld (13 R403), and PRECMD (16 R475).
-/
namespace Sys2Proof.Machine

/-! Pre-emption and time slices. -/

/-- Ask for a save of a workgroup; its timeout runs from now (14 R435). -/
def State.preemptWg (s : State) (c slot : Nat) : State :=
  s.modCore c fun k => k.modWg slot fun g =>
    { g with preempt := match g.preempt with
        | some t => some t
        | none => some (s.refTime + 1000 * (s.part (ctxPart g.ctx)).tout) }

/-- Ask for a save of every workgroup that passes. -/
def State.preemptAll (s : State) (p : Nat → Wg → Bool) : State :=
  s.cores.foldl (fun s k => (k.2.wgs.filter fun g => p k.1 g.2).foldl (fun s g => s.preemptWg k.1 g.1) s) s

/-- Whether a context has work that is ready to be served: a packet, workgroups to dispatch, or saved ones.
(DEDUCED, notes/assumptions/85.md.) -/
def State.workReady (s : State) (ctx : CtxKey) : Bool :=
  let part := ctxPart ctx
  ((FMap.keys (s.part part).queues).any fun q => ((s.readyPacket part q).map fun l => l.2.ctx == ctx).getD false) ||
    (s.launches.any fun l => l.2.ctx == ctx && l.2.state == .running && decide (l.2.next < l.2.total)) ||
    s.saved.any fun v => v.wg.ctx == ctx && v.pre

/-- The rivals of a context: the other contexts of its partition with work ready (14 R435). (DEDUCED, notes/assumptions/85.md.) -/
def State.rivalsOf (s : State) (ctx : CtxKey) : List CtxKey :=
  (FMap.keys s.ctxs).filter fun c => c != ctx && ctxPart c == ctxPart ctx && s.workReady c

/-- A context's slice ends: none of the others waits for it any longer (14 R435). -/
def State.hadSlice (s : State) (ctx : CtxKey) : State :=
  { s with ctxs := FMap.mapV s.ctxs fun _ c => { c with rivals := c.rivals.filter fun r => r != ctx } }

/-- Pre-empt every workgroup of a context; with rivals it waits until each has held a slice (14 R435). -/
def State.preemptCtx (s : State) (ctx : CtxKey) : State :=
  let rivals := if s.holdsWork ctx then s.rivalsOf ctx else []
  let s := if s.holdsWork ctx then s.hadSlice ctx else s
  let s := s.modCtx ctx fun c =>
    if rivals.isEmpty || c.waitsAt.isSome then c else { c with waitsAt := some s.refTime, rivals := rivals, sliceAt := none }
  s.preemptAll fun _ g => g.ctx == ctx

/-- Whether a context has nothing left to do. -/
def State.workDone (s : State) (ctx : CtxKey) : Bool :=
  s.launches.all fun l => l.2.ctx != ctx || l.2.state == .ended

/-- The context of a partition that has waited longest is served again when no rival keeps it waiting (14 R435). -/
def State.serve (s : State) (part : Nat) : State :=
  let s := { s with ctxs := FMap.mapV s.ctxs fun _ c => { c with rivals := c.rivals.filter fun r => FMap.has s.ctxs r && !s.workDone r } }
  let waits := s.ctxs.filter fun c => ctxPart c.1 == part && c.2.waitsAt.isSome
  match waits with
  | [] => s
  | x :: r =>
    let first := r.foldl (fun a b => if b.2.waitsAt.getD 0 < a.2.waitsAt.getD 0 then b else a) x
    if first.2.rivals.isEmpty then s.modCtx first.1 fun c => { c with waitsAt := none } else s

/-- TIME_SLICE_END (14 R435): a context's slice has lasted its time; with rivals its workgroups are pre-empted. -/
def execTimeSliceEnd (part ctx : Nat) (s : State) : Answer State :=
  let key := ctxKey part ctx
  .next (match (FMap.get s.ctxs key).bind (·.sliceAt) with
    | none => s
    | some t =>
      let n := (s.part part).tslice
      if n == 0 || decide (s.refTime < t + 100000 * n) then s
      else
        let s := s.hadSlice key
        if !s.holdsWork key then s.modCtx key fun c => { c with sliceAt := none }
        else if (s.rivalsOf key).isEmpty then s.modCtx key fun c => { c with sliceAt := some s.refTime }
        else s.preemptCtx key)

/-- FORCED_SAVE_TIMEOUT (01 R48, 14 R435): the timeout of a pre-emption has passed. (DEDUCED, notes/assumptions/86.md.) -/
def execForcedSaveTimeout (core wg : Nat) (s : State) : Answer State :=
  .next (match (FMap.get (s.core core).wgs wg).bind (·.preempt) with
    | none => s
    | some t => if s.refTime < t then s else s.modCore core fun k => k.modWg wg fun g => { g with forced := true })

/-- PRECMD (16 R475): pre-empts every workgroup of a context. -/
def execPrecmd (part : Nat) (value : BitVec 32) (s : State) : Answer State :=
  let key := ctxKey part (value.extractLsb' 0 12).toNat
  .next (if value.extractLsb' 12 20 != 0 || !FMap.has s.ctxs key then s else s.preemptCtx key)

/-! Saving (13 R408, R409). -/

/-- Take the fragments of a warp off the walks and faults they wait on (01 R48). -/
def State.detachWarp (s : State) (c w : Nat) : State :=
  let keep (l : List Waiter) : List Waiter := l.filter fun x => match x.who with
    | .frag c' w' _ _ => !(c' == c && w' == w)
    | _ => true
  let s := s.modWarp c w fun x => { x with frags := FMap.mapV x.frags fun _ f => { f with notes := f.notes.filter fun n => n.fid.isNone } }
  { s with dies := FMap.mapV s.dies fun _ d => { d with
      walks := FMap.mapV d.walks fun _ x => { x with waiters := keep x.waiters }
      missq := d.missq.map fun x => { x with waiters := keep x.waiters }
      pending := FMap.mapV d.pending fun _ p => { p with walk := { p.walk with waiters := keep p.walk.waiters } } } }

/-- Whether a workgroup's warps and tiles allow its save now (13 R408 steps 1 to 3, 14 R435, 06 R225).
(DEDUCED, notes/assumptions/86.md.) -/
def State.saveReady (s : State) (c slot : Nat) (g : Wg) : Bool :=
  let k := s.core c
  g.preempt.isSome && g.frozen.isNone &&
    (k.wgWarps slot).all (fun w => w.2.savable g.forced && w.2.kpend.isEmpty && w.2.vpend.isEmpty && w.2.deferred.isEmpty &&
      w.2.quanta.all fun q => (k.lockedQuantum w.1 q).isNone) &&
    match k.matrix.compute with
    | some x => x.wg != slot
    | none => true

/-- The folios that a workgroup owns on a core. -/
def Core.owned (k : Core) (slot : Nat) : List (Nat × Folio) := k.folios.filter fun f => f.2.own == some slot && f.2.state != .free

/-- Steps 2 and 4 of 13 R408: the quanta of its warps, and those of others on its folios (04 R147), and compensations are
applied, lock bits go, and parked fragments are detached. -/
def State.quiesce (s : State) (c slot : Nat) : State :=
  let s := ((s.core c).owned slot).foldl (fun s f => s.applyFolioQuanta c f.1) s
  ((s.core c).wgWarps slot).foldl (fun s w =>
    (((s.applyQuanta c w.1 fun _ => true).payComps c w.1).modCore c fun k => k.dropLocks w.1).detachWarp c w.1) s

/-- A warp as the context engine keeps it: waits with their remaining time, parked fragments off their fault IDs. -/
def Warp.saved (w : Warp) (now : Nat) : Warp :=
  { w with
    lockOut := none
    frags := FMap.mapV w.frags fun _ f => { f with fids := [], notes := [], age := 0, quires := none, wait := f.wait.mapLimit fun t => t - now } }

/-- Step 5 of 13 R408 on a core: the workgroup's folios of rank 0 to 6 become LOST. -/
def Core.loseOwned (k : Core) (slot : Nat) : Core :=
  ((k.owned slot).filter fun f => f.2.state != .lost && f.2.rank != 7).foldl (fun k f => k.loseFolio f.1) k

/-- The claim of a warp that is saved: no warp slot, but the number CLMW still shows (02 R57, R71). -/
def savedClaim (uid slot : Nat) : Nat := 32 * (uid + 1) + slot

/-- The claims of a workgroup's warps on folios that stay on the core (02 R71): the place of the warp, the slot, its generation, and
the number that the claim shows while the warp is saved. -/
def Core.claimsOf (k : Core) (slot : Nat) : List (Nat × Nat × BitVec 16 × Nat) :=
  let ws := k.wgWarps slot
  ((List.range ws.length).zip ws).flatMap fun w =>
    (k.folios.filter fun f => f.2.clm == some w.2.1 && f.2.state == .rebinding && f.2.own != some slot).map fun f =>
      (w.1, f.1, f.2.gen, savedClaim w.2.2.uid w.2.1)

/-- What a save keeps of a workgroup, before step 5 (13 R408). (DEDUCED, notes/assumptions/90.md.) -/
def State.snapshot (s : State) (c slot : Nat) (g : Wg) (ipa seed : Nat) : Saved :=
  let k := s.core c
  let sewn := ((FMap.get s.launches g.launch).map Launch.sewn).getD 0
  { part := ctxPart g.ctx, ipa := ipa, pre := g.saveIpa.isNone, loaded := false, core := c
    wg := { g with preempt := none, forced := false, frozen := none, saveIpa := none, image := none
                   sewn := g.sewn.map fun r => { r with len := sewn } }
    warps := k.wgWarps slot
    folios := (k.owned slot).map fun f =>
      (f.1, f.2, if f.2.rank == 7 && f.2.holds then Memory.readBytes k.pad (f.2.padAddr 0) (512 * f.2.size) else [])
    gath := k.gath.filter fun x => x.2.wg == slot
    claims := k.claimsOf slot, seed := seed, moved := false, counts := (k.wgWarps slot).map (·.2.counters) }

/-- Steps 5 and 6 of 13 R408, once the image is written: the workgroup leaves its core, and its warps keep the claims of folios
that stay (02 R71). -/
def Core.unload (k : Core) (slot : Nat) : Core :=
  let k := k.loseOwned slot
  let k := (k.owned slot).foldl (fun k f => k.freeFolio f.1) k
  let gone := k.wgWarps slot
  { k with
    folios := FMap.mapV k.folios fun _ f => match f.clm.bind fun w => FMap.get gone w with
      | some x => { f with clm := f.clm.map fun w => savedClaim x.uid w }
      | none => f
    gath := FMap.keep k.gath fun _ x => x.wg != slot, wgs := FMap.erase k.wgs slot
    warps := FMap.keep k.warps fun w _ => !FMap.has gone w
    storeQ := FMap.mapV k.storeQ fun _ q => q.filter fun e => !FMap.has gone e.warp }

/-- Bytes in pages. -/
def pagesOf (l : List Byte) : List (List Byte) :=
  (List.range ((l.length + 4095) / 4096)).map fun j => (l.drop (4096 * j)).take 4096

/-- How writing an image ends. -/
inductive ImageEnd where
  | ok (s : State)
  /-- a page fault of the second stage, with the pages written before it -/
  | page (f : PageFault) (done : Nat) (s : State)
  | trap (done : Nat) (s : State)

/-- Write an image page by page through the second stage, counting the pages (13 R409). -/
def State.writeImage (s : State) (part c ipa : Nat) : Nat → List (List Byte) → ImageEnd
  | _, [] => .ok s
  | n, l :: rest =>
    match s.devIpa part .engineWrite (ipa + 4096 * n) (Use.start 0 0) with
    | .pa pa u => ((s.usePte part (dieOf c) pa u).writeBlock pa l).writeImage part c ipa (n + 1) rest
    | .page f => .page f n s
    | d => .trap n (s.tried part (dieOf c) d)

/-- Freeze a workgroup on the fault of its save (13 R409): it waits for the page's answer, or for a walk that ends in the fault; while
the miss queue is full its save tries again, and a malformed entry is fatal at once, which brings its partition down.
(DESIGN CHOICE, notes/assumptions/87.md.) -/
def State.freeze (s : State) (c slot : Nat) (g : Wg) (f : PageFault) : State :=
  let die := dieOf c
  let who := Who.save c slot
  let set (s : State) (fid : BitVec 16) : State := s.modCore c fun k => k.modWg slot fun g => { g with frozen := some fid }
  let s := s.tread (ctxPart g.ctx) die f.trail
  let w := walkOf g.ctx 2 (f.ipa / 4096) 0 f.ipa .engineWrite false c 31 f.range
  let mine : Waiter := { toAsk := w.toAsk, who := who }
  match s.pendFor die g.ctx 2 (f.ipa / 4096) with
  | some (e, p) => set (s.attach die e mine) (fidOf die e p.gen)
  | none =>
    if f.kind == 6 then (s.fatalRecord { f with walk := { w with waiters := [mine] }, time := s.refTime } f.kind).killPartition (ctxPart g.ctx)
    else
      match (s.die die).join w who with
      | some d => set (s.modDie die fun _ => d) 0
      | none => s

/-- A rank 7 folio that a workgroup owns has a word with an uncorrectable error, which its save finds (02 R93). -/
def Core.sewnBroken (k : Core) (slot : Nat) : Bool :=
  (k.owned slot).any fun f => f.2.rank == 7 && f.2.holds && k.padBroken f.1 0 (512 * f.2.size)

/-- Where a save writes its image, with its number and its pages that are written: as it began, or from here on
(13 R408, R409). (DESIGN CHOICE, notes/assumptions/87.md.) -/
def State.imagePlace (s : State) (g : Wg) : Nat × Nat × Nat :=
  g.image.getD (g.saveIpa.getD (s.part (ctxPart g.ctx)).saveArea, s.freeCount, 0)

/-- The mmac that a warp's one fragment stands READY at, if it does, and would issue with none of the traps and arrivals that come before
it (05 R168; 07 R232, R233, R249; 12 R355; 13 R398). -/
def State.standsAtMmac (s : State) (c w : Nat) : Option (Iss × XForm) :=
  match s.warp c w with
  | none => none
  | some x =>
    match x.frags with
    | [(fi, f)] =>
      match s.issAt c w fi with
      | none => none
      | some i =>
        if f.state != .ready || (f.stepped && !x.trap.mode) || (s.entryCheck i).isSome || (x.atRecord f).isSome ||
            decide (4 < (f.pc.extractLsb' 0 3).toNat) then none
        else match s.fetchIssue i with
          | .run (.mmac m) _ => if i.noTile m then none else some (i, m)
          | _ => none
    | _ => none

/-- A save stops an mmac in its operand phase after some rows, as many as the device had come to, where the engine would have let
it start (12 R367). (DESIGN CHOICE, notes/assumptions/87.md.) -/
def State.stopAtMmac (s : State) (c w : Nat) : State :=
  match s.standsAtMmac c w with
  | none => s
  | some (i, f) =>
    let m := (s.core c).matrix
    let now := (s.cluster (clusterOf c)).rawcyc
    let n := Config.choice s.freeCount % 32
    match s.mmacRecords i f with
    | (some qa, some qb) =>
      if qa.isXb != qb.isXb || m.compute.isSome || m.mustWait now (startRow i.w.mprog f.t) || !m.admits now qa.cost then s
      else { (s.cutMmac i f qa qb n).getD s with freeCount := s.freeCount + 1 }
    | _ => s

/-- Save a workgroup, or go on with its save at the write that faulted (13 R408, R409). -/
def State.saveWg (s : State) (c slot : Nat) (g : Wg) : State :=
  let s := if g.image.isSome then s else ((s.core c).wgWarps slot).foldl (fun s w => s.stopAtMmac c w.1) s
  let g := (FMap.get (s.core c).wgs slot).getD g
  let s := s.quiesce c slot
  if (s.core c).sewnBroken slot then { s with doomed := g.ctx :: s.doomed }
  else
    let p := s.imagePlace g
    let v := s.snapshot c slot g p.1 p.2.1
    let pages := pagesOf (v.bytes (((FMap.get s.launches g.launch).map Launch.obj).getD 0) s.refTime)
    let s : State :=
      if g.image.isSome then s
      else { s with freeCount := s.freeCount + 1 }.modPart (ctxPart g.ctx) fun x =>
        if g.saveIpa.isSome then x else { x with saveArea := x.saveArea + 4096 * pages.length }
    let stopped (s : State) (n : Nat) : State := s.modCore c fun k => k.modWg slot fun g => { g with image := some (p.1, p.2.1, n) }
    match s.writeImage v.part c p.1 p.2.2 (pages.drop p.2.2) with
    | .ok s =>
      { (s.modCore c fun k => k.unload slot) with
        saved := s.saved ++ [{ v with warps := v.warps.map fun w => (w.1, w.2.saved s.refTime) }] }
    | .page f n s => (stopped s n).freeze c slot g f
    | .trap n s => (stopped s n).modCore c fun k => k.modWg slot fun g => { g with frozen := some 0 }

/-- WORKGROUP_SAVE (13 R408): a workgroup whose save was asked for is saved. -/
def execWorkgroupSave (core wg : Nat) (s : State) : Answer State :=
  .next (match FMap.get (s.core core).wgs wg with
    | none => s
    | some g => if s.saveReady core wg g then s.saveWg core wg g else s)

/-! Restoring (13 R410, 20 R498). -/

/-- Place a saved rank 7 folio that had capacity, inside the reservation where it fits. -/
def Core.placeSaved (k : Core) (slot n : Nat) (f : Folio) (bytes : List Byte) : Option Core :=
  match k.capacityFor (some slot) 7 f.size with
  | none => none
  | some (u, inside, k) =>
    let k := k.zeroUnits u f.size
    let f : Folio := { f with start := u, own := some slot, inSewn := inside }
    some { k with folios := FMap.set k.folios n f, pad := Memory.writeBytes k.pad (512 * u) bytes }

/-- Return the folios of a saved workgroup to their slots; none where one has no place. -/
def Core.returnFolios (slot : Nat) : List (Nat × Folio × List Byte) → Core → Option Core
  | [], k => some k
  | (n, f, bytes) :: rest, k =>
    if f.holds then
      match k.placeSaved slot n f bytes with
      | none => none
      | some k => Core.returnFolios slot rest k
    else Core.returnFolios slot rest { k with folios := FMap.set k.folios n { f with own := some slot } }

/-- A restored warp takes its slot: on the core it was saved from it keeps the claims that nothing took meanwhile, and has lost
the others (02 R71). -/
def Core.seat (k : Core) (v : Saved) (c slot j w : Nat) (x : Warp) : Core :=
  let mine := (v.claims.filter fun p => p.1 == j).map (·.2)
  let held (p : Nat × BitVec 16 × Nat) : Bool :=
    (k.folio p.1).gen == p.2.1 && (k.folio p.1).state == .rebinding && (k.folio p.1).clm == some p.2.2
  let lost := (mine.filter fun p => !held p && (k.folio p.1).gen == p.2.1).map (·.1)
  let x : Warp := { x with wg := slot, revoked := if v.core == c then x.revoked ++ lost.filter (fun n => !x.revoked.contains n) else [] }
  let k := k.setWarp w x
  if v.core == c then (mine.filter held).foldl (fun k p => k.modFolio p.1 fun f => { f with clm := some w }) k else k

/-- The core with a saved workgroup on it and the slot it takes; none where the core cannot admit it (13 R410). -/
def Core.reload (k : Core) (v : Saved) (c : Nat) : Option (Nat × Core) :=
  let sewn := (v.wg.sewn.map (·.len)).getD 0
  if !k.admits v.warps.length v.wg.live v.wg.tiles sewn || (v.folios.any fun f => (k.folio f.1).state != .free) ||
      v.gath.any fun g => FMap.has k.gath g.1 then none
  else
    match FMap.freeKey k.wgs Config.warpSlots with
    | none => none
    | some slot =>
      let k := match if sewn == 0 then none else k.obtain 7 sewn with
        | some (u, k) => { k with wgs := FMap.set k.wgs slot { v.wg with sewn := some { start := u, len := sewn } } }
        | none => { k with wgs := FMap.set k.wgs slot v.wg }
      match Core.returnFolios slot v.folios k with
      | none => none
      | some k =>
        let k := (k.freeWarps.zip ((List.range v.warps.length).zip v.warps)).foldl (fun (k : Core) p =>
          k.seat v c slot p.2.1 p.1 p.2.2.2) k
        let k := { k with gath := v.gath.foldl (fun (m : FMap Gath) (g : Nat × Gath) => FMap.set m g.1 { g.2 with wg := slot }) k.gath }
        some (slot, k.checkBars slot)

/-- The context engine has restored a save: one of a pre-emption is forgotten, another may be restored again, which makes one
more workgroup of its launch. -/
def State.restored (s : State) (v : Saved) : State :=
  let known := s.saved.any fun x => x.seed == v.seed
  let s := if known && !v.loaded then s else s.modLaunch v.wg.launch fun l => { l with live := l.live + 1 }
  { s with saved := (s.saved.filter fun x => !(x.seed == v.seed && x.pre)).map fun x => if x.seed == v.seed then { x with loaded := true } else x }

/-- Restore a workgroup as its image gives it on a core: its slot, and the state (13 R410). A warp whose number is in use, as its
image was restored before, takes another, and the engine operations of the image are those of the first. -/
def State.restoreOn (s : State) (v : Saved) (c : Nat) : Option (Nat × State) :=
  let ws := ((List.range v.warps.length).zip v.warps).map fun p =>
    (p.2.1, if (s.placeOf p.2.2.uid).isSome then
        { p.2.2 with uid := s.uids + p.1, counters := { p.2.2.counters with cp := 0, st := 0, rm := 0 } }
      else p.2.2)
  match (s.core c).reload { v with warps := ws } c with
  | none => none
  | some (slot, k) =>
    let s := (s.beginSlice v.wg.ctx).setCore c k
    let s := if v.core == c then s else s.loseClaims v
    some (slot, { (s.acquire c 3).restored v with uids := s.uids + v.warps.length })

/-- A saved workgroup as its image returns it: a folio of rank 0 to 6 comes back LOST (13 R410). -/
def Saved.returning (v : Saved) : Saved :=
  { v with folios := v.folios.map fun f => if f.2.1.rank == 7 then f else (f.1, { f.2.1 with state := .lost }, []) }

/-- Whether a saved workgroup returns to its own core while that one can admit it: its launch has ASPAN ≠ 0, where its partition has
accepted the feature (18 R498, 16 R483), or a move has taken it there (16 R467). -/
def State.tied (s : State) (v : Saved) : Bool :=
  v.moved || ((s.part v.part).featack.getLsbD 5 && (((FMap.get s.launches v.wg.launch).map fun l => l.field 7 32 16).getD 0) != 0)

/-- Whether a saved workgroup may be restored now, and on this core (14 R435, 18 R498); one of a cluster that is being moved waits for
the core it is moved to (16 R467). -/
def State.mayRestore (s : State) (v : Saved) (c : Nat) : Bool :=
  v.pre && ((s.part v.part).cores.any fun x => x.2 == c) && s.coreOpen v.part c && (s.part v.part).ena &&
    !(s.part v.part).down && (((FMap.get s.ctxs v.wg.ctx).map fun x => !x.halted && x.waitsAt.isNone).getD false) &&
    !(s.leaving v.part v.core) &&
    (!s.tied v || c == v.core || (s.cluster (clusterOf v.core)).stopped || ((s.core v.core).reload v.returning v.core).isNone)

/-- What reading an image gives. -/
inductive ImageRead where
  | ok (m : List Byte) (s : State)
  | page (f : PageFault)
  | trap (s : State)
  | poison (line : Nat) (s : State)

/-- Read an image of a partition page by page, for a core, until every byte it tells of is read. -/
def State.readImage (s : State) (part c : Nat) : Nat → Nat → List Byte → ImageRead
  | 0, _, m => .ok m s
  | n + 1, ipa, m =>
    if !m.isEmpty && decide (imageLen m ≤ m.length) then .ok m s
    else
      match s.devIpa part .engineRead ipa (Use.start 0 0) with
      | .pa pa u =>
        let lines := (List.range 64).map fun j => pa / 64 + j
        match lines.find? fun x => s.poison.contains x with
        | some x => .poison x s
        | none => (s.usePte part (dieOf c) pa u).readImage part c n (ipa + 4096) (m ++ Memory.readBytes s.mem pa 4096)
      | .page f => .page f
      | .trap _ _ t => .trap (s.tread part (dieOf c) t)
      | .poison x t => .poison x (s.tread part (dieOf c) t)

/-- The pages of the largest image (13 R407). -/
def imagePages : Nat := 512

/-- The result of restoring the image at an IPA on a core, and the state it leaves (13 R403, R410): the slot; 0x100 where the
core has no room; 0x101 for a malformed image, whose data is read for a context; 0x102 where a page of it faults.
(DESIGN CHOICE, notes/assumptions/88.md.) -/
def State.loadImage (s : State) (ctx : CtxKey) (c part ipa : Nat) : Nat × State :=
  match s.readImage part c imagePages ipa [] with
  | .page f =>
    (0x102, match s.unitFault (dieOf c) (ctxKey part 0) 0 .engineRead .once f with
      | .held t => t
      | .full => s
      | .fatal _ t => t)
  | .trap s => (0x101, s)
  | .poison x s => (0x101, s.killContext ctx 0 0x7F 3 0 (BitVec.ofNat 64 (64 * x)) 0)
  | .ok m s =>
    match s.savedOf part m with
    | none => (0x101, s)
    | some v =>
      match s.restoreOn v c with
      | some (slot, s) => (slot, s)
      | none => (0x100, s)

/-- WORKGROUP_RESTORE (13 R410, 14 R435, 20 R498): a pre-empted workgroup returns to a core from its image. -/
def execWorkgroupRestore (index core : Nat) (s : State) : Answer State :=
  .next (match s.saved[index]? with
    | none => s
    | some v => if s.mayRestore v core then (s.loadImage v.wg.ctx core v.part v.ipa).2 else s)

/-! ctxsv and ctxld (13 R403). -/

/-- The core that a word names by its partition and logical number. -/
def State.namedCore (s : State) (b : Word) : Option Nat :=
  s.physicalCore (b.extractLsb' 13 4).toNat (b.extractLsb' 5 8).toNat

/-- ctxsv (13 R403): saves a workgroup to an IPA; waits until the save has ended or is frozen.
(DESIGN CHOICE, notes/assumptions/88.md.) -/
def execCtxsv (f : RForm) (s : State) : Answer State :=
  .next (s.onIss fun i => s.scalarDo i f.guard [(f.a, 2), (f.b, 1)] fun s =>
    let b := i.s32 f.b 0
    let ipa := (i.s64 f.a 0).toNat
    let slot := (b.extractLsb' 0 5).toNat
    let done (v : Word) : State :=
      (s.modWarp i.c i.wi fun w => { w with saving := false }).complete s i fun k =>
        i.put32 f.d v (i.onWarp k fun w => { w with saving := false })
    match s.namedCore b with
    | none => done (if i.w.saving then 0 else 2)
    | some c =>
      match FMap.get (s.core c).wgs slot with
      | none => done (if i.w.saving && b.extractLsb' 17 15 == 0 then 0 else 2)
      | some g =>
        if b.extractLsb' 17 15 != 0 || ipa % 4096 != 0 then done 2
        else if g.frozen.isSome then done 1
        else if i.w.saving && g.preempt.isNone then done 0
        else if i.w.saving then s
        else
          ((s.preemptWg c slot).modCore c fun k => k.modWg slot fun g => { g with saveIpa := some ipa }).modWarp i.c i.wi
            fun w => { w with saving := true })

/-- ctxld (13 R403): restores an image onto a core. (DESIGN CHOICE, notes/assumptions/88.md.) -/
def execCtxld (f : RForm) (s : State) : Answer State :=
  .next (s.onIss fun i => s.scalarDo i f.guard [(f.a, 2), (f.b, 1)] fun s =>
    let b := i.s32 f.b 0
    let ipa := (i.s64 f.a 0).toNat
    let done (s' : State) (v : Nat) : State := s'.completeIf s' i fun k => i.put32 f.d (BitVec.ofNat 32 v) k
    if b.extractLsb' 17 15 != 0 then done s 2
    else if ipa % 4096 != 0 then done s 0x101
    else
      match s.namedCore b with
      | none => done s 0x100
      | some c =>
        let r := s.loadImage i.ctx c (b.extractLsb' 13 4).toNat ipa
        done r.2 r.1)

end Sys2Proof.Machine
end

