-- ==== Sys2Proof/Machine/Estimate.lean ====
section
/-!
DEFINITION. The power estimate of a cluster: the events it counts, and what the controller makes of them (15 R450, R451).
-/
namespace Sys2Proof.Machine

/-- The operands and the guard of a form. -/
def formOperands : Form → List Operand × Guard
  | .r f => ([f.d, f.a, f.b, f.c], f.guard)
  | .i f => ([f.d, f.a, f.b], f.guard)
  | .m f => ([f.d, f.a, f.b, f.c], f.guard)
  | .b f => ([f.d, f.a], f.guard)
  | .x f => ([f.d, f.a, f.b, f.c], f.guard)

/-- Whether an operand is a vector register. -/
def isVector : Operand → Bool
  | .v _ => true
  | _ => false

/-- How many parts of some accesses lie in the scratchpad. -/
def padPieces (l : List (Nat × LaneOut)) : Nat :=
  ((allPieces (goLanes l)).filter fun p => match p.loc with
    | .folio _ _ => true
    | .global _ => false).length

/-- The rows of a local operand are in the scratchpad (12 R360). -/
def Quire.padRows (q : Quire) (n : Nat) : Nat := if q.isLocal then n else 0

/-- The accesses to the scratchpad of an instruction: one for each part of a lane's access that lies in a folio, be it named by its
handle or through the local window, one for each word of a tile load or store in a folio, and one for each row of a local operand that
an mmac has read (15 R451). (DESIGN CHOICE, notes/assumptions/137.md.) -/
def State.padAccesses (s : State) (i : Iss) (op : Op) (f : Form) (rows : Nat) : Nat :=
  match f, op with
  | .m f, .lds | .m f, .sts => padPieces (s.scalarProbe i f .load)
  | .m f, .ld | .m f, .st | .m f, .atom | .m f, .ldlk | .m f, .stul => padPieces (s.probes i f .load f.bytes (i.active f.guard))
  | .x f, .mld | .x f, .mst => if f.xfl.extractLsb' 0 2 == 0 then 0 else padPieces [(0, s.probeRows i f .load)]
  | .x f, .mmac => match s.mmacRecords i f with
    | (some qa, some qb) => if rows == 0 then 0 else qa.padRows rows + qb.padRows 32
    | _ => 0
  | _, _ => 0

/-- Add two counts. -/
def Energy.add (a b : Energy) : Energy :=
  { lanes := a.lanes + b.lanes, idle := a.idle + b.idle, planes := a.planes + b.planes, pads := a.pads + b.pads, regs := a.regs + b.regs }

/-- The events of an instruction that a fragment performs (05 R163, 15 R451): an active lane of a vector instruction performs a
lane-beat-cycle, and every other lane of the 96 is idle, gated or in a beat that is skipped.
(DESIGN CHOICE, notes/assumptions/137.md.) -/
def Iss.events (i : Iss) (f : Form) : Energy :=
  let o := formOperands f
  let vs := (o.1.filter isVector).length
  let n := ((List.range 96).filter fun l => (i.active o.2).getLsbD l).length
  if vs == 0 then Energy.reset else { Energy.reset with lanes := n, idle := 96 - n, regs := vs }

/-- The rows of A that an mmac has read: up to the row that MPROG tells where it has stopped, else all (12 R365, R367). -/
def State.rowsRead (s : State) (i : Iss) (f : Form) : Nat :=
  match f with
  | .x f =>
    let prog := ((s.warp i.c i.wi).map (·.mprog)).getD 0
    (if prog.getLsbD 31 && prog.extractLsb' 24 7 == (BitVec.ofNat 7 f.t) then (prog.extractLsb' 0 6).toNat else 32) - startRow i.w.mprog f.t
  | _ => 0

/-- What a cluster's estimate counts for an instruction: a fragment that stands where it stood, as it was, has performed
nothing. The plane-cycles of an mmac are charged where it starts on the array (12 R369). -/
def State.spend (old s : State) (i : Iss) (op : Op) (f : Form) : State :=
  let same := ((s.warp i.c i.wi).bind fun w => FMap.get w.frags i.fi) == some i.f
  let m := i.core.matrix
  let new := (s.core i.c).matrix
  let started := if new.winIdx == m.winIdx then new.charge - m.charge else new.charge
  if same && started == 0 then s
  else
    let rows := if started == 0 then 0 else s.rowsRead i f
    let e := if same then Energy.reset else i.events f
    let all := { e with planes := started, pads := old.padAccesses i op f rows }
    s.modCluster (clusterOf i.c) fun k => { k with energy := k.energy.add all }

/-- Whether an engine's word lies in the scratchpad. -/
def Core.inPad (k : Core) (o : EngineOp) (p : Option Spot) : Bool :=
  match p with
  | some (.folio h off) => match k.folioSpot o.ctx h off with
    | some (.inl _) => true
    | _ => false
  | _ => false

/-- The accesses to the scratchpad of an event: the word that a core's engine has read or written there (15 R451). -/
def State.padWords (old : State) (i : Instr) (s : State) : Option (Nat × Nat) :=
  let ops (s : State) (c n : Nat) : Option EngineOp := FMap.get (s.core c).ops n
  let one (c n : Nat) (spot : Core → EngineOp → Option Spot) (has : EngineOp → Bool) : Option (Nat × Nat) :=
    match ops old c n with
    | some o => if has o || !(ops s c n).any has || !(old.core c).inPad o (spot (old.core c) o) then none else some (c, 1)
    | none => none
  match i with
  | .cerEngineRead (.core c) n key => one c n (fun k o => k.readSpot o key) fun o => FMap.has o.buf key
  | .cewEngineWrite (.core c) n w => one c n (fun k o => k.writeSpot o w) fun o => o.done.contains w
  | _ => none

/-- Count what an instruction, or a core's engine at an event, performed. -/
def State.charged (old : State) (i : Instr) (s : State) : State :=
  match old.iss, i.parts with
  | some x, some (op, f) => old.spend s x op f
  | _, _ => match old.padWords i s with
    | some (c, n) => s.modCluster (clusterOf c) fun k => { k with energy := k.energy.add { Energy.reset with pads := n } }
    | none => s

/-- The energy of some events, and of the leakage of a cluster at its step over a controller period (15 R451). -/
def Energy.total (e : Energy) (step : Nat) : Nat :=
  e.lanes * Config.eventEnergy 0 + e.planes * Config.eventEnergy 1 + e.pads * Config.eventEnergy 2 +
    e.regs * Config.eventEnergy 3 + Config.leakage step

/-- A cluster's estimate and headroom of a controller period, whose events begin anew (15 R450, R451): the headroom is the energy
that idle lanes would have taken. -/
def Cluster.estimated (k : Cluster) : Cluster :=
  { k with estimate := k.energy.total k.step, headroom := k.energy.idle * Config.eventEnergy 0, energy := Energy.reset }

end Sys2Proof.Machine
end

