-- ==== Sys2Proof/Machine/Power.lean ====
section
/-!
DEFINITION. Power (02 R74 to R80, R85; 15 R438 to R461): the moves of a cluster's voltage and frequency, the darkening and
relighting of banks, capset (13 R404), temperature, the settings derived from DIDT, gating, and telemetry.
-/
namespace Sys2Proof.Machine

/-! Steps and targets (15 R438, R441). -/

/-- Lit banks of a step at most (15 R438). -/
def stepLit (step : Nat) : Nat := if step ≤ 1 then 16 else if step == 2 then 40 else 64

/-- The frequencies of a step: lowest and highest (15 R438). -/
def stepFreqs (step : Nat) : Nat × Nat := if step ≤ 1 then (400, 1200) else if step == 2 then (800, 2100) else (1600, 3000)

/-- Whether a target is one of 15 R438. -/
def Target.valid (t : Target) : Bool :=
  decide (1 ≤ t.step) && decide (t.step ≤ 3) && t.freq % 100 == 0 && decide ((stepFreqs t.step).1 ≤ t.freq) &&
    decide (t.freq ≤ (stepFreqs t.step).2)

/-- The lower of two targets in step and in frequency (15 R454). -/
def Target.lower (a b : Target) : Target := { step := Nat.min a.step b.step, freq := Nat.min a.freq b.freq }

/-- The cores of a cluster. -/
def coresOf (cluster : Nat) : List Nat := (List.range 8).map fun j => 8 * cluster + j

/-- Change every core of a cluster. -/
def State.modCores (s : State) (cluster : Nat) (f : Core → Core) : State := (coresOf cluster).foldl (fun s c => s.modCore c f) s

/-- The lit banks of a cluster. -/
def State.litOf (s : State) (cluster : Nat) : Nat := (s.core (8 * cluster)).cap.lit

/-- A capacity event of a core (02 R56). -/
def Cap.event (c : Cap) (code : Nat) : Cap := { c with seq := c.seq + 1, last := code }

/-! Settings derived from DIDT (15 R457). -/

/-- A quotient rounded up. -/
def ceilDiv (a b : Nat) : Nat := (a + b - 1) / b

/-- The wake spacing in nanoseconds. -/
def Mf.wspc (m : Mf) : Nat := if m.didt.toNat == 2000 then 0 else ceilDiv 4000 m.didt.toNat

/-- The wake latency of a frequency before the bound of its register. -/
def Mf.wakeAt (m : Mf) (freq : Nat) : Nat := 48 + ceilDiv (256 * m.wspc * freq) 1000

/-- Whether sub-arrays are held warm at a frequency. -/
def Mf.warm (m : Mf) (freq : Nat) : Bool := decide (65535 < m.wakeAt freq)

/-- Set the governor and the wake latency of a cluster's cores; sub-arrays that are held warm from now on are woken. -/
def State.govern (s : State) (cluster : Nat) : State :=
  let freq := (s.cluster cluster).freq
  let wake := if s.mf.warm freq then 48 else s.mf.wakeAt freq
  let budget := Nat.max 16 (ceilDiv (1024 * s.mf.didt.toNat) 2000)
  let set (m : Matrix) : Matrix := { m with window := 1024, budget := budget, wake := BitVec.ofNat 16 wake }
  let woken (m : Matrix) : Matrix := if s.mf.warm freq then { m with gated := 0, wakeAt := none, waking := 0 } else m
  s.modCores cluster fun k => { k with matrix := woken (set k.matrix) }

/-! Notices, closings and relights on a core. -/

/-- The folios of a core that hold a byte in banks from one on. -/
def Core.inBanks (k : Core) (bank : Nat) : List (Nat × Folio) := k.holders.filter fun f => decide (64 * bank < f.2.start + f.2.size)

/-- The notice of a lowering with grace on a core (02 R74). (DEDUCED, notes/assumptions/65.md.) -/
def State.notice (s : State) (target closeAt c : Nat) : State :=
  let k := s.core c
  if k.cap.lit ≤ target then s
  else
    let hit := ((k.inBanks target).filter fun f => f.2.state == .bound).map (·.1)
    let cap := { k.cap with pend := true, emg := false, grow := false, target := target, alloc := target, closeAt := some closeAt }.event 1
    let s := s.setCore c { (hit.foldl (fun k f => k.modFolio f fun x => { x with state := .closing }) k) with cap := cap }
    if hit.isEmpty then s else (FMap.keys (s.core c).warps).foldl (fun s w => s.applyClosing c w) s

/-- The notice of an emergency on a core (02 R80). -/
def State.emergencyNotice (s : State) (target c : Nat) : State :=
  s.modCore c fun k =>
    if k.cap.lit ≤ target then k
    else { k with cap := { k.cap with
      pend := true, emg := true, grow := false, target := target, alloc := Nat.min k.cap.alloc target
      closeAt := some s.refTime }.event 5 }

/-- The announcement of a raise on a core (02 R79). -/
def State.growNotice (s : State) (target c : Nat) : State :=
  s.modCore c fun k => { k with cap := { k.cap with pend := true, emg := false, grow := true, target := target, closeAt := none } }

/-- The end of a raise on a core; an emergency under way on it goes on (02 R79, R80). -/
def State.grown (s : State) (lit c : Nat) : State :=
  s.modCore c fun k =>
    if k.cap.emg then k
    else if lit ≤ k.cap.lit then { k with cap := { k.cap with pend := false, grow := false, target := k.cap.lit } }
    else { k with cap := { k.cap with lit := lit, alloc := lit, pend := false, grow := false, target := lit }.event 4 }

/-- Withdrawal of a lowering before its first close point on a core (02 R75). (DESIGN CHOICE, notes/assumptions/94.md.) -/
def State.withdraw (s : State) (c : Nat) : State :=
  s.modCore c fun k =>
    if !k.cap.pend then k
    else if k.cap.grow then { k with cap := { k.cap with pend := false, grow := false, target := k.cap.lit } }
    else { k with
      folios := FMap.mapV k.folios fun _ f => if f.state == .closing then { f with state := .bound } else f
      cap := { k.cap with pend := false, emg := false, alloc := k.cap.lit, target := k.cap.lit, closeAt := none }.event 2 }

/-- Force the save of a workgroup now (02 R85). -/
def State.forceSave (s : State) (c slot : Nat) : State :=
  (s.preemptWg c slot).modCore c fun k => k.modWg slot fun g => { g with forced := true }

/-- The workgroups of a core that own a rank 7 folio with a byte in banks from one on (02 R85). -/
def Core.sewnOwners (k : Core) (bank : Nat) : List Nat :=
  (((k.inBanks bank).filter fun f => f.2.rank == 7).filterMap (·.2.own)).eraseDups

/-- Force the saves that a sewn emergency asks for on a cluster. -/
def State.sewnSaves (s : State) (cluster target : Nat) : State :=
  (coresOf cluster).foldl (fun s c => ((s.core c).sewnOwners target).foldl (fun s g => s.forceSave c g) s) s

/-- Copy bytes to virtual addresses in blocks of 512; whether every block could be written (02 R85). It is an engine write of the
core, which keeps no copy of the lines (03 R95). -/
def State.copyOut (s : State) (c : Nat) (ctx : CtxKey) : Nat → Nat → List Byte → Bool × State
  | 0, _, _ => (true, s)
  | n + 1, va, l =>
    match s.devVa ctx .engineWrite (s.userCtx ctx) (BitVec.ofNat 64 va) with
    | .pa pa u =>
      let s := (s.usePte (ctxPart ctx) (s.unitDie (ctxPart ctx)) pa u).writeBlock pa (l.take 512)
      ((List.range 8).foldl (fun s j => s.cdcDrop c (pa / 64 + j)) s).copyOut c ctx n (va + 512) (l.drop 512)
    | d => (false, s.tried (ctxPart ctx) (s.unitDie (ctxPart ctx)) d)

/-- Copy a folio to its backing address. -/
def State.copyFolio (s : State) (c slot : Nat) : Bool × State :=
  let k := s.core c
  let f := k.folio slot
  s.copyOut c f.ctx f.size f.backing.toNat (Memory.readBytes k.pad (f.padAddr 0) (512 * f.size))

/-- What is owed on a folio that becomes BACKED is owed on its bytes at home (02 R90, 04 R148). -/
def State.backComps (s : State) (c slot : Nat) : State :=
  let f := (s.core c).folio slot
  let home (p : Comp) : Comp := match p.loc with
    | .folio t off =>
      if t != slot then p
      else match s.devVa f.ctx .engineWrite (s.userCtx f.ctx) (BitVec.ofNat 64 (f.backing.toNat + off)) with
        | .pa pa _ => { p with loc := .global pa }
        | _ => p
    | .global _ => p
  s.modCore c fun k => { k with warps := FMap.mapV k.warps fun _ w => { w with
    comps := w.comps.map home
    spec := FMap.mapV w.spec fun _ r => { r with atomics := r.atomics.map home } } }

/-- A persistent rank 7 folio in a bank that must close becomes BACKED, with the quanta pending on it, or LOST where its contents
cannot be copied (02 R85); the quanta are then discarded (02 R82). A broken word of it kills its context (02 R93). -/
def State.backSewn (s : State) (c slot : Nat) : State :=
  let f := (s.core c).folio slot
  let lose (s : State) : State := s.modCore c fun k => k.loseFolio slot
  if f.backing == 0 then lose s
  else if (s.core c).padBroken slot 0 (512 * f.size) then lose (s.brokenFolio c slot)
  else
    let r := s.copyFolio c slot
    if !r.1 then lose r.2
    else (((s.applyFolioQuanta c slot).copyFolio c slot).2.backComps c slot).modCore c fun k =>
      (k.revoke slot).modFolio slot fun f => { f with state := .backed, clm := none, start := 0, inSewn := false }

/-- What a bank's close point does to the core (02 R76, R79, R85): folios in it are lost, its lock bits clear, reservations
are cut back, and it goes dark. -/
def Core.closeBank (k : Core) (n : Nat) : Core :=
  let hit := (k.inBanks n).map (·.1)
  let k := hit.foldl (fun k f => k.loseFolio f) k
  let k := k.zeroUnits (64 * n) 64
  let cap := { k.cap with lit := n, alloc := Nat.min k.cap.alloc n }
  { k with
    locks := FMap.keep k.locks fun key _ => key / 64 != n
    wgs := FMap.mapV k.wgs fun _ g => { g with sewn := g.sewn.map fun r =>
      if 64 * n < r.start + r.len then { r with len := 64 * n - r.start } else r }
    cap := if n == cap.target then { cap with pend := false, emg := false, closeAt := none }.event 3 else cap }

/-! Moves (15 R442). -/

/-- The phase of a cluster's move. -/
def State.setPhase (s : State) (c : Nat) (p : Phase) : State :=
  s.modCluster c fun k => { k with move := k.move.map fun m => { m with phase := p } }

/-- Whether the relock of a cluster may begin: those of different clusters are spaced by DIDT (15 R445). -/
def State.mayRelock (s : State) (c : Nat) : Bool :=
  s.mf.relocks.all fun r => r.1 == c || decide (r.2 + 1000 * ceilDiv 2000 s.mf.didt.toNat ≤ s.refTime)

/-- The relock of a cluster begins (15 R442). -/
def State.beginRelock (s : State) (c : Nat) : State :=
  { (s.setPhase c .relock) with mf := { s.mf with relocks := FMap.set s.mf.relocks c s.refTime } }

/-- Start an emergency (15 R453, R454): no grace; one whose notice was given when it arose, during a move, is recorded once
(02 R80). (DEDUCED, notes/assumptions/92.md.) -/
def State.startEmergency (s : State) (c : Nat) (t : Target) (lit : Nat) (noticed : Bool := false) : State :=
  let s := if noticed then s else (coresOf c).foldl (fun s k => s.emergencyNotice lit k) s
  let s := if lit < 8 then s.sewnSaves c lit else s
  let m : Move := { target := some t, phase := .closing, emg := true, lit := lit, closeAt := s.refTime, after := none }
  s.modCluster c fun k => { k with move := some m }

/-- Whether a cluster is in an emergency of its temperature: its own move, or one that waits for the move before it (15 R453, R454). -/
def Cluster.inEmergency (k : Cluster) : Bool :=
  match k.move with
  | some m => (m.emg && m.target.isSome) || m.after.isSome
  | none => false

/-- The end of a move (15 R442); an emergency that came during it follows (15 R454). A cluster that an emergency has taken to the
lowest point is watched from then on, if its units still read hot (15 R453). -/
def State.endMove (s : State) (c : Nat) : State :=
  let k := s.cluster c
  match k.move with
  | none => s
  | some m =>
    let s := s.modCluster c fun k => { k with
      move := none
      hotSince := if m.emg && m.target.isSome && k.step == 1 && k.freq == 400 && k.hotRead then some s.refTime else k.hotSince }
    match m.after with
    | none => s
    | some t =>
      if t.step == k.step && t.freq == k.freq && decide (s.litOf c ≤ m.lit) then s else s.startEmergency c t m.lit true

/-- What follows the dark banks of a lowering: the relock, then the voltage move (15 R442). -/
def State.afterDark (s : State) (c : Nat) : State :=
  let k := s.cluster c
  match k.move with
  | none => s
  | some m =>
    match m.target with
    | none => s.endMove c
    | some t =>
      if t.freq != k.freq then s.beginRelock c
      else if t.step < k.step then s.setPhase c .voltage
      else s.endMove c

/-- Withdraw a move that has not reached its first close point (02 R75, 15 R440). -/
def State.withdrawMove (s : State) (c : Nat) : State :=
  ((coresOf c).foldl (fun s k => s.withdraw k) s).modCluster c fun k => { k with move := none }

/-- Start a move to a target (15 R440, R442). (DEDUCED, notes/assumptions/91.md.) -/
def State.startMove (s : State) (c : Nat) (t : Target) : State :=
  let k := s.cluster c
  let set (s : State) (m : Move) : State := s.modCluster c fun k => { k with move := some m }
  let m : Move := { target := some t, phase := .closing, emg := false, lit := Nat.min (s.litOf c) (stepLit t.step)
                    closeAt := s.refTime, after := none }
  if t.step == k.step && t.freq == k.freq then s
  else if t.step < k.step then
    if s.litOf c ≤ stepLit t.step then (set s m).afterDark c
    else
      let at' := s.refTime + 10000
      let s := (coresOf c).foldl (fun s k => s.notice (stepLit t.step) at' k) s
      set s { m with phase := .notice, lit := stepLit t.step, closeAt := at' }
  else if k.step < t.step then
    let s := (coresOf c).foldl (fun s k => s.growNotice (stepLit t.step) k) s
    set s { m with phase := .voltage, lit := stepLit t.step }
  else (set s { m with phase := .relock, lit := s.litOf c }).beginRelock c

/-- Whether a move to a target begins with its relock (15 R442). -/
def State.relocksFirst (s : State) (c : Nat) (t : Target) : Bool :=
  let k := s.cluster c
  t.freq != k.freq && (t.step == k.step || (decide (t.step < k.step) && decide (s.litOf c ≤ stepLit t.step)))

/-- Whether a move may still be replaced (15 R440). (DEDUCED, notes/assumptions/91.md.) -/
def Move.early (m : Move) : Bool := m.phase == .notice && !m.emg

/-- The mailbox's target starts, in place of a move that has not reached its first close point; it waits for any other, and for the
spacing of relocks (15 R440, R442, R445). (DESIGN CHOICE, notes/assumptions/94.md.) -/
def State.tryMove (s : State) (cluster : Nat) : State :=
  let k := s.cluster cluster
  match k.mbox with
  | none => s
  | some t =>
    let t := match k.hold with
      | some h => t.lower h
      | none => t
    let go (s : State) : State := (s.modCluster cluster fun k => { k with mbox := none }).startMove cluster t
    if k.stopped || (s.relocksFirst cluster t && !s.mayRelock cluster) then s
    else
      match k.move with
      | none => go s
      | some m => if m.early then go (s.withdrawMove cluster) else s

/-- MOVE_START (15 R440, R442): the mailbox's target starts. A step that puts a target into a mailbox, or ends a move, settles with the
same. -/
def execMoveStart (cluster : Nat) (s : State) : Answer State := .next (s.tryMove cluster)

/-- Put a target into a cluster's mailbox, or count one that 15 R438 does not allow (15 R440, R441). -/
def State.mailbox (s : State) (c : Nat) (t : Target) : State :=
  s.modCluster c fun k => if t.valid then { k with mbox := some t } else { k with ign := satAdd 255 k.ign 1 }

/-- VFMBOX_WRITE (15 R439 to R441). -/
def execVfmboxWrite (cluster : Nat) (value : BitVec 32) (s : State) : Answer State :=
  .next (s.mailbox cluster { step := (value.extractLsb' 24 2).toNat, freq := (value.extractLsb' 0 12).toNat })

/-- The bank of a core that closes next, if one may close now (02 R76, R80, 15 R443). -/
def State.closing (s : State) (c : Nat) : Option Nat :=
  let cap := (s.core c).cap
  let due := match cap.closeAt with
    | some t => decide (t ≤ s.refTime)
    | none => false
  if cap.pend && !cap.grow && due && decide (cap.target < cap.lit) && !(s.cluster (clusterOf c)).frozen then some (cap.lit - 1) else none

/-- BANK_CLOSE_POINT (02 R76, R80, R85): the highest bank under notice of a core closes. A sewn bank waits for the saves of
the workgroups that own rank 7 folios in it; one that a save is frozen on takes its partition down (13 R409). -/
def execBankClosePoint (core : Nat) (s : State) : Answer State :=
  let cl := clusterOf core
  .next (match s.closing core with
    | none => s
    | some n =>
      let owners := if n < 8 then (s.core core).sewnOwners n else []
      let stuck := owners.findSome? fun g => (FMap.get (s.core core).wgs g).bind fun w => if w.frozen.isSome then some w.ctx else none
      match stuck with
      | some ctx => s.killPartition (ctxPart ctx)
      | none =>
        if !owners.isEmpty then owners.foldl (fun s g => s.forceSave core g) s
        else
          let keep := if n < 8 then ((s.core core).inBanks n).filter fun f => f.2.rank == 7 && f.2.pers else []
          let s := keep.foldl (fun s f => s.backSewn core f.1) s
          let s := s.modCore core fun k => k.closeBank n
          s.modCluster cl fun k => { k with move := k.move.map fun m => if m.phase == .notice then { m with phase := .closing } else m })

/-- BANKS_DARK (02 R78, R79, 15 R445): every bank of the event has closed and drained. -/
def execBanksDark (cluster : Nat) (s : State) : Answer State :=
  .next (match (s.cluster cluster).move with
    | none => s
    | some m =>
      let waits := !m.emg && !s.mayRelock cluster && (m.target.map fun t => t.freq != (s.cluster cluster).freq).getD false
      if m.phase == .closing && !waits && (coresOf cluster).all fun c => !((s.core c).cap.pend) then s.afterDark cluster else s)

/-- The waits of a cluster's warps whose time ran out during a relock end (21 R504). -/
def State.expireWaits (s : State) (cluster : Nat) : State :=
  (coresOf cluster).foldl (fun s c => (s.core c).warps.foldl (fun s w => w.2.frags.foldl (fun s f =>
    (s.expireWait c w.1 f.1).expireSleep c w.1 f.1) s) s) s

/-- RELOCK_COMPLETE (15 R442, R448, 21 R504): the first edge of the new clock. -/
def execRelockComplete (cluster : Nat) (s : State) : Answer State :=
  .next (match (s.cluster cluster).move with
    | none => s
    | some m =>
      match m.phase, m.target with
      | .relock, some t =>
        let s := (s.modCluster cluster fun k => { k with freq := t.freq, acc := 0, sub := 0 }).govern cluster
        (if t.step < (s.cluster cluster).step then s.setPhase cluster .voltage else s.endMove cluster).expireWaits cluster
      | _, _ => s)

/-- VOLTAGE_MOVE_COMPLETE (15 R442, 02 R79): the step changes; upward, every bank of the new step is lit and the relock
follows. -/
def execVoltageMoveComplete (cluster : Nat) (s : State) : Answer State :=
  .next (match (s.cluster cluster).move with
    | none => s
    | some m =>
      match m.phase, m.target with
      | .voltage, some t =>
        let up := decide ((s.cluster cluster).step < t.step)
        if up && t.freq != (s.cluster cluster).freq && !s.mayRelock cluster then s
        else
          let s := s.modCluster cluster fun k => { k with step := t.step }
          if !up then s.endMove cluster
          else
            let s := (coresOf cluster).foldl (fun s c => s.grown m.lit c) s
            if t.freq != (s.cluster cluster).freq then s.beginRelock cluster else s.endMove cluster
      | _, _ => s)

/-! capset (13 R404). -/

/-- The change a capset asks for, with its result (13 R404). -/
def State.capset (s : State) (c lit grace : Nat) (emg : Bool) : Nat × State :=
  let k := s.cluster c
  if decide (stepLit k.step < lit) || (decide (lit < 8) && !emg) then (2, s)
  else
    let res := if k.move.isSome then 1 else 0
    let s := if k.move.isSome then s.withdrawMove c else s
    let now := s.litOf c
    let move (s : State) (p : Phase) (at' : Nat) : State := s.modCluster c fun k =>
      { k with move := some { target := none, phase := p, emg := emg, lit := lit, closeAt := at', after := none } }
    if lit == now then (res, s)
    else if now < lit then (res, move ((coresOf c).foldl (fun s k => s.growNotice lit k) s) .relight s.refTime)
    else if emg then
      let s := (coresOf c).foldl (fun s k => s.emergencyNotice lit k) s
      let s := if lit < 8 then s.sewnSaves c lit else s
      (res, move s .closing s.refTime)
    else
      let at' := s.refTime + 1000 * Nat.max 10 grace
      (res, move ((coresOf c).foldl (fun s k => s.notice lit at' k) s) .notice at')

/-- capset (13 R404): changes the lit banks of a cluster within its step; it waits for a move that can no longer be
replaced. -/
def execCapset (f : RForm) (s : State) : Answer State :=
  .next (s.onIss fun i => s.scalarDo i f.guard [(f.a, 1), (f.b, 1)] fun s =>
    let a := i.s32 f.a 0
    let c := (i.s32 f.b 0).toNat % 32
    let busy := match (s.cluster c).move with
      | some m => !m.early
      | none => false
    if busy then s
    else
      let r := s.capset c (a.extractLsb' 0 7).toNat (a.extractLsb' 8 16).toNat (a.getLsbD 31)
      s.complete r.2 i fun k => i.put32 f.d (BitVec.ofNat 32 r.1) k)

/-- CAPSET_RELIGHT_COMPLETE (02 R79): the banks a capset lights are powered and cleared. -/
def execCapsetRelightComplete (cluster : Nat) (s : State) : Answer State :=
  .next (match (s.cluster cluster).move with
    | none => s
    | some m =>
      if m.phase == .relight then ((coresOf cluster).foldl (fun s c => s.grown m.lit c) s).endMove cluster else s)

/-! Temperature (15 R452 to R454). -/

/-- The cluster of a unit of the maximum tree; none for a die sensor (15 R452). -/
def readingCluster (r : Reading) : Option Nat :=
  if r.unit.extractLsb' 8 2 == 0 then some (8 * (r.unit.extractLsb' 10 2).toNat + (r.unit.extractLsb' 3 3).toNat) else none

/-- The highest of some readings. -/
def hottest (l : List Reading) : Option Reading :=
  match l with
  | [] => none
  | x :: r => some (r.foldl (fun a b => if a.temp.toInt < b.temp.toInt then b else a) x)

/-- An emergency of a cluster: its step, frequency and lit banks (15 R454), counted in telemetry, as a slope event too
(15 R456). One that comes during a move either merges with
it, or follows it with its close points begun at once. -/
def State.emergency (s : State) (c : Nat) (t : Target) (lit : Nat) : State :=
  let s := s.modDie (c / 8) fun d => { d with tel := { d.tel with emerg := d.tel.emerg + 1, slopev := d.tel.slopev + 1 } }
  let s := s.modCluster c fun k => { k with mbox := none, hold := some t }
  match (s.cluster c).move with
  | none => s.startEmergency c t lit
  | some m =>
    if m.early then
      let t' := match m.target with
        | some x => x.lower t
        | none => t
      (s.modCluster c fun k => { k with hold := some t' }).startEmergency c t' (Nat.min m.lit lit)
    else
      let lit := Nat.min m.lit lit
      let s := (coresOf c).foldl (fun s k => s.emergencyNotice lit k) s
      s.modCluster c fun k => { k with move := k.move.map fun m => { m with after := some t, lit := lit } }

/-- A unit of a cluster at or above TTRIP (15 R453): while the emergency of an earlier reading goes on, nothing further starts. -/
def State.hot (s : State) (c : Nat) : State :=
  let k := s.cluster c
  if k.inEmergency then s
  else
    let from' : Target := match k.move with
      | some m => if m.early then { step := k.step, freq := k.freq } else m.target.getD { step := k.step, freq := k.freq }
      | none => { step := k.step, freq := k.freq }
    if from'.step == 1 && from'.freq == 400 then
      s.modCluster c fun k => { k with hotSince := some (k.hotSince.getD s.refTime), hold := some from' }
    else
      let t : Target := if from'.step ≤ 1 then { step := 1, freq := 400 }
        else { step := from'.step - 1, freq := Nat.min from'.freq (stepFreqs (from'.step - 1)).2 }
      s.emergency c t (Nat.min (s.litOf c) (stepLit t.step))

/-- A unit of a cluster at or above TCRIT (15 R453, 16 R487): its clock stops, the contexts on it are killed, and the
partition that holds it comes down. (DEDUCED, notes/assumptions/93.md.) -/
def State.critical (s : State) (c : Nat) : State :=
  let ctxs := ((coresOf c).flatMap fun k => (s.core k).warps.filterMap fun w => (s.wgOf k w.1).map (·.ctx)).eraseDups
  let s := ctxs.foldl (fun s x => s.killContext x 0 0x7F 3 0 0 0) s
  let s := s.modCluster c fun k => { k with stopped := true, move := none, mbox := none }
  match s.ownerOf c with
  | some (p, _) => s.killPartition p
  | none => s

/-- What the readings of a cluster's units do to it (15 R453, R454). (DEDUCED, notes/assumptions/92.md.) -/
def State.feel (s : State) (c : Nat) (t : Int) : State :=
  if (s.cluster c).stopped then s
  else if Config.tcrit.toInt ≤ t then s.critical c
  else if Config.ttrip.toInt ≤ t then (s.modCluster c fun k => { k with coolSince := none, hotRead := true }).hot c
  else
    s.modCluster c fun k => { k with
      hotRead := false, hotSince := none, coolSince := if t < Config.ttrip.toInt - 80 then some (k.coolSince.getD s.refTime) else none }

/-- Latch the hottest unit of a die (15 R452, R461). -/
def Telemetry.latch (t : Telemetry) (r : Reading) : Telemetry :=
  let higher := !t.intSeen || decide (t.intHotTemp.toInt < r.temp.toInt)
  { t with
    hotUnit := r.unit, hotTemp := r.temp, intSeen := true
    intHotUnit := if higher then r.unit else t.intHotUnit, intHotTemp := if higher then r.temp else t.intHotTemp }

/-- The sensor of a reading, numbered as HOTUNIT.UNIT with the bits [7:6] at zero; none where there is no such sensor (15 R452). -/
def sensorOf (r : Reading) : Option Nat :=
  let u := r.unit &&& 0xF3F
  let kind := (u.extractLsb' 8 2).toNat
  if kind == 0 || (kind == 1 && decide (u.extractLsb' 0 6 < 8)) then some u.toNat else none

/-- The sensors of a die as they read (15 R452). -/
def Die.readings (d : Die) : List Reading := d.sensors.map fun x => { unit := BitVec.ofNat 12 x.1, temp := x.2 }

/-- A sensor reads a temperature. -/
def State.sense (s : State) (r : Reading) : State :=
  match sensorOf r with
  | some u => s.modDie (u / 1024) fun d => { d with sensors := FMap.set d.sensors u r.temp }
  | none => s

/-- The hottest unit of a cluster (15 R453). -/
def State.hotOf (s : State) (c : Nat) : Option Reading :=
  hottest ((s.die (c / 8)).readings.filter fun r => readingCluster r == some c)

/-- Whether the maximum tree has yet to read in this period of 5 µs (15 R452). -/
def State.treeDue (s : State) : Bool := s.refTime / 5000 != s.mf.treeAt

/-- TEMPERATURE_TREE_READING (15 R452, R453): every 5 µs the maximum tree reads all sensors, those that the event names with a new
temperature. (DESIGN CHOICE, notes/assumptions/158.md.) -/
def execTemperatureTreeReading (readings : List Reading) (s : State) : Answer State :=
  if !s.treeDue then .next s
  else
    let s := readings.foldl State.sense { s with mf := { s.mf with treeAt := s.refTime / 5000 } }
    let s := (List.range 4).foldl (fun s d => match hottest (s.die d).readings with
      | some r => s.modDie d fun x => { x with tel := x.tel.latch r }
      | none => s) s
    .next ((List.range 32).foldl (fun s c => match s.hotOf c with
      | some r => s.feel c r.temp.toInt
      | none => s) s)

/-- EMERGENCY_DARKENING (15 R453): a cluster at VS1 and 400 MHz that stays hot for 1 ms goes to LIT = 8. -/
def execEmergencyDarkening (cluster : Nat) (s : State) : Answer State :=
  let k := s.cluster cluster
  .next (match k.hotSince with
    | some t =>
      if !k.stopped && !k.inEmergency && k.step == 1 && k.freq == 400 && decide (t + 1000000 ≤ s.refTime) &&
          decide (8 < s.litOf cluster) then
        s.emergency cluster { step := 1, freq := 400 } 8
      else s
    | none => s)

/-- SEWN_EMERGENCY (15 R453, 02 R85): a cluster at LIT = 8 that stays hot for 1 ms goes to LIT = 0. -/
def execSewnEmergency (cluster : Nat) (s : State) : Answer State :=
  let k := s.cluster cluster
  .next (match k.hotSince with
    | some t =>
      if !k.stopped && !k.inEmergency && k.step == 1 && k.freq == 400 && decide (t + 1000000 ≤ s.refTime) &&
          decide (s.litOf cluster ≤ 8) && decide (0 < s.litOf cluster) then
        s.emergency cluster { step := 1, freq := 400 } 0
      else s
    | none => s)

/-- EMERGENCY_HOLD_RELEASE (15 R454): every unit has read below TTRIP less 5 degrees for 1 ms. -/
def execEmergencyHoldRelease (cluster : Nat) (s : State) : Answer State :=
  .next (match (s.cluster cluster).coolSince with
    | none => s
    | some t => if s.refTime < t + 1000000 then s else s.modCluster cluster fun k => { k with hold := none, hotSince := none })

/-! The power controller, budgets, gating and ballast. -/

/-- What the controller reads of its power in a period: PLIM as it stands comes into force, and power below it repays the energy spent
on ballast above it, 100 µJ a watt (15 R450, R456). (DEDUCED, notes/assumptions/97.md.) -/
def State.readPower (s : State) (watts : BitVec 12) : State :=
  let paid := Nat.min s.mf.owed (100000000 * (s.mf.plim.toNat - watts.toNat))
  let s := s.modDie 0 fun d => { d with tel := { d.tel with caprep := d.tel.caprep + paid } }
  { s with
    mf := { s.mf with
      plimNow := s.mf.plim, pwrnow := watts, owed := s.mf.owed - paid, period := s.refTime / 100000
      ballastStopped := s.mf.ballastStopped && decide (s.mf.plim.toNat < watts.toNat) }
    wakeShift := (s.wakeShift + 1) % 256 }

/-- The target that an event names. -/
def targetOf (t : ControllerTarget) : Target := { step := t.step.toNat, freq := t.freq.toNat }

/-- The present step and frequency of a cluster. -/
def State.present (s : State) (c : Nat) : Target := { step := (s.cluster c).step, freq := (s.cluster c).freq }

/-- The next lower target: 100 MHz less, or the step below at a frequency it has; the lowest is its own (15 R438). -/
def Target.below (t : Target) : Target :=
  if (stepFreqs t.step).1 + 100 ≤ t.freq then { t with freq := t.freq - 100 }
  else if 1 < t.step then { step := t.step - 1, freq := Nat.min t.freq (stepFreqs (t.step - 1)).2 }
  else t

/-- Whether a target lowers another in step or in frequency. -/
def Target.cuts (a b : Target) : Bool := decide (a.step < b.step) || decide (a.freq < b.freq)

/-- Whether budgets must fall: the package is above PLIM in force, or the energy of ballast above it is to be repaid (15 R450, R456). -/
def State.tight (s : State) : Bool := decide (s.mf.plimNow.toNat < s.mf.pwrnow.toNat) || s.mf.owed != 0

/-- The step that a cluster is to have after a controller period. -/
def State.stepAfter (s : State) (targets : List ControllerTarget) (c : Nat) : Nat :=
  match targets.find? fun t => t.cluster % 32 == c with
  | some t => t.step.toNat
  | none => (((s.cluster c).mbox.map (·.step)).getD (s.cluster c).step)

/-- Whether the floors of all partitions cannot be met under PLIM: every cluster is at its floor, and the package is above PLIM
(16 R464). (DEDUCED, notes/assumptions/141.md.) -/
def State.floorsFail (s : State) : Bool :=
  decide (s.mf.plimNow.toNat < s.mf.pwrnow.toNat) &&
    s.parts.all fun q => !q.2.ena || q.2.clusters.all fun c => decide ((s.cluster c).step ≤ q.2.floor)

/-- Whether the controller may give a cluster a step: one below its partition's floor only when the floors cannot all be met and every
partition of higher number is already at the lowest step (16 R463, R464). (DEDUCED, notes/assumptions/141.md.) -/
def State.floorAllows (s : State) (targets : List ControllerTarget) (c step : Nat) : Bool :=
  match s.ownerOf c with
  | none => true
  | some (p, _) => decide ((s.part p).floor ≤ step) ||
      (s.floorsFail && s.parts.all fun q => decide (q.1 ≤ p) || !q.2.ena || q.2.clusters.all fun c => decide (s.stepAfter targets c ≤ 1))

/-- What the controller makes of a target that an event names: while budgets must fall none rises, and the budget of a cluster
predicted above TLIM falls (15 R450, R453, R456). (DESIGN CHOICE, notes/assumptions/159.md.) -/
def State.budgeted (s : State) (t : ControllerTarget) : Target :=
  let c := t.cluster % 32
  if Config.tlim.toInt < t.predicted.toInt then (targetOf t).lower (s.present c).below
  else if s.tight then (targetOf t).lower (s.present c)
  else targetOf t

/-- The target of a cluster that the event names none for: the floor of its partition where that has been raised above it (16 R464), and
the next lower target while budgets must fall and no target of the event lowers one. (DESIGN CHOICE, notes/assumptions/159.md.) -/
def State.unnamed (s : State) (targets : List ControllerTarget) (c : Nat) : Option Target :=
  let now := s.present c
  match s.ownerOf c with
  | none => none
  | some (p, _) =>
    let floor := (s.part p).floor
    if s.stepAfter [] c < floor && !s.floorsFail then
      some { step := floor, freq := Nat.max (stepFreqs floor).1 now.freq }
    else if s.tight && !(targets.any fun t => (targetOf t).valid && (targetOf t).cuts (s.present (t.cluster % 32))) && now.below != now &&
        s.floorAllows targets c now.below.step then
      some now.below
    else none

/-- The controller gives a target that an event names, with its byte budget (15 R441, R450, R455). -/
def State.give (s0 : State) (targets : List ControllerTarget) (s : State) (t : ControllerTarget) : State :=
  let c := t.cluster % 32
  let y := s0.budgeted t
  let s := if !(targetOf t).valid then s.mailbox c (targetOf t) else if s0.floorAllows targets c y.step then s.mailbox c y else s
  s.modCluster c fun k => { k with bbud := t.grant }

/-- The controller's targets of a period (15 R450). -/
def State.giveAll (s : State) (targets : List ControllerTarget) : State :=
  let own := (List.range 32).filter fun c => !(targets.any fun t => t.cluster % 32 == c)
  own.foldl (fun t c => match s.unnamed targets c with
    | some y => t.mailbox c y
    | none => t) (targets.foldl (s.give targets) s)

/-- POWER_CONTROLLER_PERIOD (15 R450, R451, R456 to R458): once every 100 µs the controller takes PLIM, records the power, reads each
cluster's estimate, and sets targets, above the floors, and byte budgets, and the settings that DIDT gives; ballast may run again
once the package is within PLIM. -/
def execPowerControllerPeriod (watts : BitVec 12) (targets : List ControllerTarget) (s : State) : Answer State :=
  if s.refTime / 100000 == s.mf.period then .next s
  else
    let s := (List.range 32).foldl (fun s c => (s.govern c).modCluster c Cluster.estimated) (s.readPower watts)
    .next (s.giveAll targets)

/-- BYTE_BUDGET_INTERVAL (15 R455): a new interval of a cluster's byte budget begins; an overdraw is carried over, by at most
one grant. The requests that waited for it hold their lines no longer (03 R120). (DEDUCED, notes/assumptions/97.md.) -/
def execByteBudgetInterval (cluster : Nat) (s : State) : Answer State :=
  let now := s.refTime / 1000
  let k := s.cluster cluster
  let grant := 64 * k.bbud.toNat
  .next (if k.interval == now then s
    else
      let s := s.modCores cluster fun k => { k with lineClass := FMap.keep k.lineClass fun _ e => e.2.2 != 0 }
      let s := s.modCluster cluster fun k => { k with
        interval := now, charge := 0, bbheld := false, overdraw := Nat.min grant (k.charge + k.overdraw - grant) }
      if k.bbheld then s.modDie (cluster / 8) fun d => { d with tel := { d.tel with bbhold := d.tel.bbhold + 1 } } else s)

/-- The plane-cycles of a ballast series in the window that begins at an instant: they fall in a straight line from the level of
the core's last window to 0 (15 R459). -/
def Service.due (x : Service) (now : Nat) : Nat := x.level * (x.stop - now) / (x.stop - x.start)

/-- GOVERNOR_WINDOW (12 R369, 15 R459): a new window of a core's governor begins, with the ballast of a series in it. -/
def execGovernorWindow (core : Nat) (s : State) : Answer State :=
  let now := (s.cluster (clusterOf core)).rawcyc
  .next (s.modCore core fun k =>
    let m := k.matrix
    if m.winIdx == m.windowOf now then k
    else { k with matrix := { m.roll now with ballast := m.ballast + (m.service.map fun x => x.due s.refTime).getD 0 } })

/-- SUBARRAY_GATE (12 R370, 15 R457): a sub-array of a core of a throughput-class partition that has been idle for 2 µs is gated;
none is where the partition did not accept the feature (16 R483).
(DESIGN CHOICE, notes/assumptions/95.md.) -/
def execSubarrayGate (core sub : Nat) (s : State) : Answer State :=
  let m := (s.core core).matrix
  let latency := match s.ownerOf (clusterOf core) with
    | some (p, _) => (s.part p).latency || !(s.part p).featack.getLsbD 6
    | none => false
  .next (if latency || s.mf.warm (s.cluster (clusterOf core)).freq || m.compute.isSome || m.wantWake.isSome || decide (4 ≤ sub) ||
      decide (s.refTime < FMap.getD m.idleSince sub 0 + 2000) then s
    else s.modCore core fun k => { k with matrix := { m with gated := m.gated ||| (1#4 <<< sub) } })

/-- Whether the wake slot of a core opens at this instant: slot s, of 256 that the cores take in turn, opens at REFTIME instants
congruent to s × WSPC modulo P (15 R458). (DESIGN CHOICE, notes/assumptions/95.md.) -/
def State.slotOpens (s : State) (core : Nat) : Bool :=
  let p := 256 * s.mf.wspc
  p == 0 || s.refTime % p == (core + s.wakeShift) % 256 * s.mf.wspc

/-- WAKE_SLOT_OPEN (15 R458): a gated sub-array that an mmac needs begins to wake when its core's slot opens.
(DESIGN CHOICE, notes/assumptions/95.md.) -/
def execWakeSlotOpen (core : Nat) (s : State) : Answer State :=
  let m := (s.core core).matrix
  let now := (s.cluster (clusterOf core)).rawcyc
  .next (if m.gated == 0 || m.wakeAt.isSome || !s.slotOpens core then s
    else s.modCore core fun k => { k with matrix := { m with wakeAt := some (now + 48), waking := m.gated } })

/-- SUBARRAY_AWAKE (15 R458): the sub-arrays of a core that began to wake are awake 48 core cycles later. -/
def execSubarrayAwake (core : Nat) (s : State) : Answer State :=
  let m := (s.core core).matrix
  .next (match m.wakeAt with
    | none => s
    | some t =>
      if (s.cluster (clusterOf core)).rawcyc < t then s
      else s.modCore core fun k => { k with matrix := { m with
        gated := m.gated &&& ~~~m.waking, wakeAt := none, waking := 0
        idleSince := (List.range 4).foldl (fun x j => if m.waking.getLsbD j then FMap.set x j s.refTime else x) m.idleSince } })

/-- BALLAST_LIMIT_EXPIRY (15 R456): ballast above PLIM stops after 50 µs, which is a slope event.
(DEDUCED, notes/assumptions/96.md.) -/
def execBallastLimitExpiry (s : State) : Answer State :=
  .next (match s.mf.ballastSince with
    | none => s
    | some t =>
      if s.refTime < t + 50000 then s
      else
        let s := { s with mf := { s.mf with ballastSince := none, ballastStopped := true } }
        s.modDie 0 fun d => { d with tel := { d.tel with slopev := d.tel.slopev + 1 } })

/-! Telemetry (15 R460, R461). -/

/-- Whether a die has yet to write the record of the millisecond that ended last (15 R460). -/
def State.recordDue (s : State) (die : Nat) : Bool := decide (die < 4) && s.refTime / 1000000 != (s.die die).tel.doneAt

/-- How far time may pass: to the instant at which the next records are due, and not beyond it while one is outstanding (15 R460). -/
def State.passable (s : State) (ns : Nat) : Nat :=
  if (List.range 4).any s.recordDue then 0 else Nat.min ns (1000000 - s.refTime % 1000000)

/-- The governor stall cycles of a die's cores, modulo 2^32. -/
def State.stalls (s : State) (die : Nat) : Nat :=
  sumNat ((List.range 64).map fun j => (s.readMgov (64 * die + j)).toNat) % 2 ^ 32

/-- The bytes of CLSTEP: step and frequency of each cluster of a die. -/
def State.clstep (s : State) (die : Nat) : List Byte :=
  (List.range 8).map fun j =>
    let k := s.cluster (8 * die + j)
    if Config.harvest.getLsbD (8 * die + j) || k.stopped then 0 else BitVec.ofNat 8 (64 * k.step + k.freq / 100)

/-- The bytes of CLLIT: hold and LIT of each cluster of a die. -/
def State.cllit (s : State) (die : Nat) : List Byte :=
  (List.range 8).map fun j => BitVec.ofNat 8 (128 * (s.cluster (8 * die + j)).hold.isSome.toNat + s.litOf (8 * die + j))

/-- The 128 bytes of a telemetry record. (DEDUCED, notes/assumptions/98.md.) (DESIGN CHOICE, notes/assumptions/121.md.) -/
def State.telemetry (s : State) (die mw : Nat) (predicted : BitVec 16) : List Byte :=
  let t := (s.die die).tel
  let seq := t.ring.prod.toNat
  let sat (n x : Nat) : Nat := Nat.min (2 ^ n - 1) x
  let govst := (s.stalls die + 2 ^ 32 - t.govst) % 2 ^ 32
  bytesOf 8 s.refTime ++ bytesOf 8 (2 ^ 32 * seq + 2 ^ 30 * die) ++ bytesOf 8 (2 ^ 32 * sat 32 mw + 2 ^ 8 * s.mf.plimNow.toNat) ++
    bytesOf 8 (sat 64 t.energy) ++ s.clstep die ++ s.cllit die ++
    bytesOf 8 (2 ^ 40 * t.intHotUnit.toNat + 2 ^ 16 * t.intHotTemp.toNat + predicted.toNat) ++
    bytesOf 8 (2 ^ 32 * sat 32 t.slopev + sat 32 (t.ballast / 1000)) ++
    bytesOf 8 (2 ^ 48 * sat 16 t.emerg + 2 ^ 32 * sat 16 t.placeovf + sat 32 t.bbhold) ++ bytesOf 8 govst ++
    bytesOf 8 (2 ^ 32 * sat 32 (t.caprep / 1000000) + sat 32 (t.capover / 1000)) ++ bytesOf 32 0 ++
    bytesOf 8 (if seq.testBit t.ring.log then 2 ^ 63 else 0)

/-- TELEMETRY_RECORD (15 R460, R461): a millisecond of REFTIME ends; a record is written where the ring is enabled, and the counts
begin anew. (DEDUCED, notes/assumptions/98.md.) -/
def execTelemetryRecord (die milliwatts microjoules : Nat) (predicted : BitVec 16) (s : State) : Answer State :=
  if !s.recordDue die then .next s else
  let s := s.modDie die fun d => { d with tel := { d.tel with energy := d.tel.energy + microjoules } }
  let t := (s.die die).tel
  let pa := t.ring.base.toNat + 128 * (t.ring.prod.toNat % 2 ^ t.ring.log)
  let anew (s : State) : State := s.modDie die fun d => { d with tel := { d.tel with
    intSeen := false, intHotUnit := 0, intHotTemp := 0, slopev := 0, ballast := 0, emerg := 0, placeovf := 0, bbhold := 0
    govst := s.stalls die, caprep := 0, capover := 0, doneAt := s.refTime / 1000000 } }
  if !t.ring.ena then .next (anew s)
  else if paHole pa then .fault (.deviceHole pa)
  else
    let s := s.writeBlock pa (s.telemetry die milliwatts predicted)
    .next (anew (s.modDie die fun d => { d with tel := { d.tel with ring := { d.tel.ring with prod := d.tel.ring.prod + 1 } } }))

end Sys2Proof.Machine
end

