-- ==== Sys2Proof/Machine/Clock.lean ====
section
/-!
DEFINITION. Time (15 R446 to R448): REFTIME, the core clocks, RAWCYC and CYCLE of every cluster, and the ballast that runs
meanwhile (13 R405, 15 R456, R459).
-/
namespace Sys2Proof.Machine

/-- Core clocks that pass in some nanoseconds, with the thousandths carried over. -/
def Cluster.clocks (k : Cluster) (ns : Nat) : Nat := (k.sub + k.freq * ns) / 1000

/-- Whether a cluster is in a relock with its clock stopped (15 R442). -/
def Cluster.relocking (k : Cluster) : Bool := k.frozen && !k.stopped

/-- A cluster after some nanoseconds: during a relock CYCLE follows REFTIME and no core clock passes (15 R447, R448). -/
def Cluster.tick (k : Cluster) (ns : Nat) : Cluster :=
  if k.stopped then k
  else if k.relocking then { k with cyc := (k.cyc + 3 * 4096 * ns) % 2 ^ 76 }
  else
    let n := k.clocks ns
    let q := 12288000 / k.freq
    let rm := 12288000 - q * k.freq
    let total := k.acc + rm * n
    { k with
      rawcyc := (k.rawcyc + n) % 2 ^ 64
      cyc := (k.cyc + q * n + total / k.freq) % 2 ^ 76
      acc := total % k.freq
      sub := (k.sub + k.freq * ns) % 1000 }

/-- Plane-cycles of blst that a core's array runs in some core clocks: one a clock, after every tile instruction
(13 R405, 15 R456). -/
def Core.ballastRun (k : Core) (stopped : Bool) (clocks : Nat) : Nat :=
  if stopped || k.matrix.compute.isSome then 0 else Nat.min k.matrix.ballast clocks

/-- Whether a ballast series is over at an instant (15 R459). -/
def Core.seriesOver (k : Core) (x : Service) (now : Nat) : Bool :=
  decide (x.stop ≤ now) ||
    (k.matrix.winIdx != x.window && decide (x.level * (x.stop - now) ≤ k.matrix.charge * (x.stop - x.start)))

/-- Whether the last controller period measured the package above PLIM (15 R456). -/
def State.aboveLimit (s : State) : Bool := decide (s.mf.plimNow.toNat < s.mf.pwrnow.toNat)

/-- The ballast of a core in some nanoseconds: it runs on the sub-arrays of its array, telemetry counts its time, and the energy that it
takes above PLIM is owed (12 R370, 13 R405, 15 R456, R461). -/
def State.tickBallast (s : State) (ns c : Nat) : State :=
  let k := s.core c
  let cl := s.cluster (clusterOf c)
  if k.matrix.ballast == 0 && k.matrix.service.isNone then s
  else
    let run := k.ballastRun s.mf.ballastStopped (if cl.frozen then 0 else cl.clocks ns)
    let sub := k.matrix.ballastSub + run * 1000
    let service := match k.matrix.service with
      | some x => if k.seriesOver x (s.refTime + ns) then none else some x
      | none => none
    let matrix := { (if run == 0 then k.matrix else k.matrix.idle (List.range 32) (s.refTime + ns)) with
      ballast := k.matrix.ballast - run, ballastSub := sub % cl.freq, service := service }
    let spent := if s.aboveLimit then run * Config.eventEnergy 1 else 0
    ((({ s with mf := { s.mf with owed := s.mf.owed + spent } } : State).setCore c { k with matrix := matrix }).modCluster (clusterOf c)
      fun q => { q with energy := { q.energy with planes := q.energy.planes + run } }).modDie (dieOf c)
      fun d => { d with tel := { d.tel with ballast := d.tel.ballast + sub / cl.freq } }

/-- Whether ballast is to run on some core that passes. -/
def State.needsBallast (s : State) (on : Nat → Bool) : Bool :=
  s.cores.any fun k => on k.1 && (k.2.matrix.ballast != 0 || k.2.matrix.service.isSome)

/-- The time for which ballast runs above PLIM is watched, and counted on each die where it runs (15 R456, R461).
(DEDUCED, notes/assumptions/96.md.) -/
def State.watchBallast (s : State) (ns : Nat) : State :=
  if s.needsBallast (fun _ => true) && !s.mf.ballastStopped && s.aboveLimit then
    let s := { s with mf := { s.mf with ballastSince := some (s.mf.ballastSince.getD s.refTime) } }
    ((List.range 4).filter fun d => s.needsBallast fun c => dieOf c == d).foldl
      (fun s d => s.modDie d fun x => { x with tel := { x.tel with capover := x.tel.capover + ns } }) s
  else if s.mf.ballastSince.isSome then { s with mf := { s.mf with ballastSince := none } }
  else s

/-- REFTIME advances (15 R446), to the instant of the next telemetry records at most (15 R460). -/
def State.tick (s : State) (n : Nat) : State :=
  let ns := s.passable n
  let s := s.watchBallast ns
  let s := (FMap.keys s.cores).foldl (fun s c => s.tickBallast ns c) s
  let s := (List.range 32).foldl (fun s c => s.setCluster c ((s.cluster c).tick ns)) s
  { s with refTime := (s.refTime + ns) % 2 ^ 64 }

/-- Whether a workgroup left its core in a step by its exit or its save (14 R428, R435). -/
def leftWhole (old new : State) (g : Wg) : Bool :=
  let exited (s : State) : Nat := ((FMap.get s.launches g.launch).map (·.exited)).getD 0
  decide (exited old < exited new) || decide (old.saved.length < new.saved.length)

/-- Whether a workgroup left its core in a step that cancelled its launch (14 R421). -/
def leftCancelled (old new : State) (g : Wg) : Bool :=
  let off (s : State) : Bool := ((FMap.get s.launches g.launch).map (·.cancelled)).getD false
  !off old && off new

/-- Whether a step was a downward event on a core (15 R459): its last workgroup exited or was saved, a cancel stopped its warps, or a
budget cut lowered its frequency; an emergency is none, nor is a kill or a reset. -/
def downward (old new : State) (c : Nat) : Bool :=
  let b := (new.core c).wgs
  let gone := (old.core c).wgs.filter fun g => !FMap.has b g.1
  let cl := old.cluster (clusterOf c)
  (b.isEmpty && gone.any fun g => leftWhole old new g.2) || (gone.any fun g => leftCancelled old new g.2) ||
    (decide ((new.cluster (clusterOf c)).freq < cl.freq) && match cl.move with
      | some m => !m.emg && m.phase == .relock
      | none => false)

/-- The ballast service starts a series on the cores that had a downward event (15 R457, R459). -/
def State.serveBallast (old new : State) : State :=
  let rate := new.mf.didt.toNat
  if 1000 ≤ rate then new
  else
    (FMap.keys old.cores).foldl (fun s c =>
      let m := ((old.core c).matrix).roll (new.cluster (clusterOf c)).rawcyc
      if downward old new c && m.last != 0 then
        let x : Service :=
          { start := new.refTime, stop := new.refTime + 1000 * ceilDiv 2000 rate, level := m.last, window := m.winIdx }
        s.modCore c fun k => { k with matrix := { k.matrix with service := some x } }
      else s) new

end Sys2Proof.Machine
end

