-- ==== Sys2Proof/Machine/Fabric.lean ====
section
/-!
DEFINITION. The fabric (03 R109 to R125, 04 R149, 16 R491 to R493): what a packet does when it arrives whole, aborts, link
failures and retrains, errors in headers and payloads, and the delivery of interrupts (16 R478, R479). The accesses of the
package's own warps and engines are performed where they are issued, so their packets are no part of the state; what is in
flight is an interrupt or a response.
-/
namespace Sys2Proof.Machine

/-! Packets (03 R110, R115, R116). -/

/-- The opcodes of 03 R115 with their payload flits, lowest and highest. -/
def plenRange (opc : Nat) : Option (Nat × Nat) :=
  match opc with
  | 0x01 | 0x04 | 0x09 | 0x0B => some (0, 0)
  | 0x02 | 0x0C | 0x0D => some (1, 8)
  | 0x03 => some (1, 4)
  | 0x05 => some (0, 1)
  | 0x06 | 0x07 => some (1, 1)
  | 0x08 => some (2, 8)
  | 0x0A => some (0, 4)
  | _ => none

/-- Whether a header is malformed (03 R124). -/
def packetMalformed (p : Packet) : Bool :=
  !portExists p.dst || match plenRange p.opc.toNat with
    | some (lo, hi) => decide (p.plen.toNat < lo) || decide (hi < p.plen.toNat)
    | none => true

/-- The die of a node (03 R110). -/
def nodeDie (n : BitVec 12) : Nat := (n.extractLsb' 10 2).toNat

/-- A malformed header, whose wrong field lies in H0, brings down every partition with a cluster on the detecting die (03 R124). -/
def State.badHeader (s : State) (die : Nat) : State :=
  ((FMap.keys s.parts).filter fun q => (s.part q).dies.contains die).foldl (fun s q => s.killPartition q) s

/-- A packet in flight has arrived whole, in its turn, and acts (03 R112, R116); one with a malformed header, a reserved OPC among
them, is treated as an error in H0 that the die it names detects (03 R124), and one that may not arrive changes nothing.
(DESIGN CHOICE, notes/assumptions/99.md.) -/
def State.arrival (s : State) (p : Packet) (opc : Nat) (act : State → State) : State :=
  if !s.mayArrive p then s
  else if packetMalformed p then ({ s with net := s.net.erase p }).badHeader (nodeDie p.dst)
  else if p.opc.toNat != opc then s
  else act { s with net := s.net.erase p }

/-- Where a request acts: at its physical address, or, from another package, at an address of the bound context (16 R492); a
fault that waits for a reply leaves the request unanswered (01 R38), and one without a bound context has none. -/
inductive Where where
  | pa (pa : Nat) (s : State)
  | fault (s : State)
  | held (s : State)
  | unbound

/-- Translate a request from another package at the die whose port it came in by (12 R381, 16 R492); a table line that is poisoned
kills the context (03 R99). -/
def State.foreignPa (s : State) (p : Packet) (acc : Acc) : Where :=
  match s.boundCtx p with
  | none => .unbound
  | some ctx =>
    let va : Dword := p.addr.setWidth 64
    let die := nodeDie p.src
    match s.devVa ctx acc (s.userCtx ctx) va with
    | .pa pa u => .pa pa (s.usePte (ctxPart ctx) die pa u)
    | .trap _ _ t => .fault (s.tread (ctxPart ctx) die t)
    | .poison line t => .fault ((s.tread (ctxPart ctx) die t).killContext ctx 0 0x7F 3 0 (BitVec.ofNat 64 (64 * line)) 0)
    | .page f => match s.unitFault die ctx va acc (.remote p) f with
      | .held s => .held s
      | .full => .held s
      | .fatal _ s => .fault s

/-- The status ARG of an answer, by its code among the engine operations' (12 R377, 16 R492).
(DESIGN CHOICE, notes/assumptions/99.md.) -/
def argStatus : Nat := 6

/-- A request that reaches its home: what it does there, with its status and data, and its answer, from the home slice of its address
(01 R34, R35, 03 R115, R116); one from another package waits at its port while its page does, and one whose job is bound to no context
is answered ARG (16 R492). (DESIGN CHOICE, notes/assumptions/99.md.) -/
def State.request (s : State) (p : Packet) (opc : Nat) (acc : Acc) (act : Nat → State → Nat × List Byte × State) : State :=
  let done (pa : Nat) (s : State) : State :=
    let r := act pa s
    r.2.2.respond p (s.homeNode pa) r.1 r.2.1
  if packetForeign p then
    if !s.mayArrive p then s
    else if packetMalformed p then ({ s with net := s.net.erase p }).badHeader (nodeDie p.src)
    else if p.opc.toNat != opc then s
    else
      match s.foreignPa p acc with
      | .pa pa t => done pa { t with net := t.net.erase p }
      | .fault t => ({ t with net := t.net.erase p }).refuse p p.dst 2
      | .unbound => ({ s with net := s.net.erase p }).refuse p p.dst argStatus
      | .held t => t
  else
    s.arrival p opc fun s =>
      if paHole p.addr.toNat then s.refuse p p.dst 2 else done p.addr.toNat s

/-- A line read for a request: its data, or POISON. -/
def State.readLine (s : State) (pa : Nat) : Nat × List Byte × State :=
  if s.poison.contains (pa / 64) then (3, [], s) else (0, s.lineBytes (pa / 64), s)

/-- RD_READ_REQUEST (03 R115): the line is read at its home, and answered with its data, or POISON.
(DEDUCED, notes/assumptions/100.md.) -/
def execRdReadRequest (p : Packet) (s : State) : Answer State := .next (s.request p 0x01 .load fun pa s => s.readLine pa)

/-- Write the bytes of a WR packet: the first 64 by its mask, those beyond it all (03 R115). -/
def State.maskedWrite (s : State) (pa : Nat) (mask : BitVec 64) (l : List Byte) : State :=
  let first := ((List.range 64).zip (l.take 64)).filter fun b => mask.getLsbD b.1
  let s := first.foldl (fun s b => s.mwriteBytes (pa + b.1) [b.2]) s
  let s := if mask == ~~~0#64 && decide (64 ≤ l.length) && pa % 64 == 0 then s.writeBlock pa (l.take 64) else s
  s.writeBlock (pa + 64) (l.drop 64)

/-- WR_WRITE (03 R115): the bytes are written at their home, and acknowledged. -/
def execWrWrite (p : Packet) (s : State) : Answer State :=
  .next (s.request p 0x02 .store fun pa s => (0, [], s.maskedWrite pa p.mask p.data))

/-- AT_ATOMIC (03 R115, 10 R314): the atomic is performed at its home, and answered with the old value.
(DEDUCED, notes/assumptions/100.md.) -/
def execAtAtomic (p : Packet) (s : State) : Answer State :=
  .next (s.request p 0x03 .atomic fun pa s =>
    let n := 2 ^ p.width.toNat
    let old := s.mread pa n
    let v := aopValue p.aop.toNat false n old (leOf (p.data.take n)) (leOf ((p.data.drop n).take n))
    (0, bytesOf n old, (s.ownLine pa).mwrite pa n v))

/-- CER_ENGINE_READ (03 R115, 12 R379): an engine of a core reads a word of an operation, or a read of another package's engine
arrives, which is answered with the line. (DEDUCED, notes/assumptions/100.md.) -/
def execCerEngineRead (core : EngineOf) (op word : Nat) (s : State) : Answer State :=
  .next (match core with
    | .core c => s.readWord c op word
    | .packet p => s.request p 0x0B .engineRead fun pa s => s.readLine pa)

/-- CEW_ENGINE_WRITE (03 R115, 12 R379, 17 R496): an engine of a core writes a word of an operation, or a write of another package's
engine arrives, which is acknowledged. -/
def execCewEngineWrite (core : EngineOf) (op word : Nat) (s : State) : Answer State :=
  .next (match core with
    | .core c => s.writeWord c op word
    | .packet p => s.request p 0x0C .engineWrite fun pa s => (0, [], s.maskedWrite pa p.mask p.data))

/-- FEN_FENCE_PROBE (04 R149): a host home agent acknowledges; one from another package is answered ARG where its job is bound to no
context (16 R492). -/
def execFenFenceProbe (p : Packet) (s : State) : Answer State :=
  .next (s.arrival p 0x04 fun s =>
    s.respond p p.dst (if packetForeign p && (s.boundCtx p).isNone then argStatus else 0) [])

/-- BAR_BARRIER_MESSAGE (03 R115): arrives; barriers act where their warps issue. -/
def execBarBarrierMessage (p : Packet) (s : State) : Answer State := .next (s.arrival p 0x05 fun s => s)

/-- FLT_FAULT_REPORT (03 R115): arrives; a fault's record waits in its queue (01 R41). -/
def execFltFaultReport (p : Packet) (s : State) : Answer State := .next (s.arrival p 0x06 fun s => s)

/-- RDX_READ_DATA (03 R115): a response arrives at its requester. -/
def execRdxReadData (p : Packet) (s : State) : Answer State := .next (s.arrival p 0x08 fun s => s)

/-- ACK_ACKNOWLEDGEMENT (03 R115, 04 R149): a response arrives at its requester. -/
def execAckAcknowledgement (p : Packet) (s : State) : Answer State := .next (s.arrival p 0x09 fun s => s)

/-- ATR_ATOMIC_RESULT (03 R115): a response arrives at its requester. -/
def execAtrAtomicResult (p : Packet) (s : State) : Answer State := .next (s.arrival p 0x0A fun s => s)

/-- CTL_CONTEXT_TRANSFER (03 R115): arrives; a save or restore moves its workgroup where it is performed (13 R408). -/
def execCtlContextTransfer (p : Packet) (s : State) : Answer State := .next (s.arrival p 0x0D fun s => s)

/-! Interrupts (16 R478, R479). -/

/-- Deliver an interrupt that a remap entry names (16 R479). -/
def State.deliverIrq (s : State) (e : Nat) : Answer State :=
  let owner := bitsAt e 40 8
  let vector := bitsAt e 0 11
  let f := s.mf.fn owner
  if bitsAt e 14 7 != f.2.toNat then .next { s with mf := { s.mf with irqstale := satAdd 0xFFFF_FFFF s.mf.irqstale 1 } }
  else if f.1 == 0 then .next { s with msi := s.msi ++ [(owner, vector)] }
  else
    let pa := (FMap.getD s.mf.pendbase owner 0).toNat + vector
    if paHole pa then .fault (.deviceHole pa) else .next (s.mwrite pa 1 (0x80 + f.2.toNat))

/-- Whether a remap entry may deliver an interrupt of a function (16 R478). -/
def remapValid (e fn : Nat) : Bool :=
  let owner := bitsAt e 40 8
  bitAt e 63 && bitsAt e 48 15 == 0 && bitsAt e 32 8 == 0 && bitsAt e 21 11 == 0 && bitsAt e 11 3 == 0 && decide (owner ≤ 16) &&
    (fn == 0 || owner == fn)

/-- INT_INTERRUPT (16 R478, R479, R481): an interrupt in flight is looked up in the remap table and delivered, or counted; one that a
function raised before its last reset is stale. -/
def execIntInterrupt (p : Packet) (s : State) : Answer State :=
  if p.opc != 7 || !s.mayArrive p then .next s
  else
    let s := { s with net := s.net.erase p }
    let x := leOf (p.data.take 4)
    let fn := x / 2 ^ 16 % 2 ^ 8
    let pa := s.mf.remapbase.toNat + 8 * (x % 2 ^ 16)
    if packetMalformed p then .next (s.badHeader (nodeDie p.dst))
    else if paHole pa then .fault (.deviceHole pa)
    else
      let e := s.mread pa 8
      if remapValid e fn then
        if x / 2 ^ 24 != (s.mf.fn fn).2.toNat then .next { s with mf := { s.mf with irqstale := satAdd 0xFFFF_FFFF s.mf.irqstale 1 } }
        else s.deliverIrq e
      else .next { s with mf := { s.mf with irqdrop := satAdd 0xFFFF_FFFF s.mf.irqdrop 1 } }

/-! Aborts and links (03 R121, R122, 16 R493). On-die links are numbered below 900, die-to-die links from 900 on, and Herken
Link ports from 1,000 on. -/

/-- ABORT_FLIT (03 R121): the receivers discard the partial packet, which has no effect. -/
def execAbortFlit (p : Packet) (s : State) : Answer State := .next { s with net := s.net.erase p }

/-- Whether a link carries flits now: it is one of R109's, it has not failed and does not retrain. -/
def State.linkUp (s : State) (n : Nat) : Bool := linkExists n && !(s.link n).failed && !(s.link n).retraining

/-- The consecutive failures of a flit's CRC after which its link has failed: the first one, and 16 replays of it (03 R122). -/
def crcLimit : Nat := 17

/-- A flit of a link failed its CRC once more in a row; after 16 failed replays a die-to-die link or a port retrains
(03 R122). -/
def State.crcFailed (s : State) (link : Nat) : State :=
  if !s.linkUp link then s
  else s.modLink link fun l => { l with
    replays := l.replays + 1, retraining := decide (900 ≤ link) && decide (crcLimit ≤ l.replays + 1) }

/-- FLIT_CRC_FAILURE (03 R122). -/
def execFlitCrcFailure (link : Nat) (s : State) : Answer State := .next (s.crcFailed link)

/-- An operation whose packet was lost: the address of the first word not transferred (12 R378, 03 R122). -/
def Core.abortOp (k : Core) (o : EngineOp) : EngineOp :=
  let va := k.wordVa o o.firstLeft
  o.fail 2 (va.extractLsb' 0 32) (va.extractLsb' 32 32)

/-- Whether an operation has a remote end. -/
def EngineOp.crosses (o : EngineOp) : Bool :=
  match o.kind with
  | .copy (.remote _ _) _ _ _ _ _ => true
  | .copy _ (.remote _ _) _ _ _ _ => true
  | .remoteAtomic _ _ _ _ _ _ => true
  | _ => false

/-- Whether an end lies outside the core's scratchpad. -/
def End.outside (k : Core) (ctx : CtxKey) : End → Bool
  | .global _ | .remote _ _ => true
  | .loc h off => match k.folioSpot ctx h off with
    | some (.inr _) => true
    | _ => false
  | .gather _ _ => false

/-- Whether an operation sends packets: an end of it lies outside the scratchpad. -/
def Core.opTravels (k : Core) (o : EngineOp) : Bool :=
  match o.kind with
  | .copy d s _ _ _ _ => d.outside k o.ctx || s.outside k o.ctx
  | .gather d s _ _ _ => d.outside k o.ctx || s.outside k o.ctx
  | .stitch _ | .remoteAtomic _ _ _ _ _ _ => true

/-- The dies at the ends of a link; a port of the package has one. -/
def linkDies (link : Nat) : List Nat :=
  match linkEnds link with
  | some (.router a _ _, .router b _ _) => [a, b]
  | some (.router a _ _, .outside) => [a]
  | _ => []

/-- Whether a link may carry packets between a node of a die and one of another, or of the same (03 R109, R111): a link within a
die, those of the two dies; a die-to-die link, those between its dies. A port carries what leaves the package. -/
def mayCarry (link a b : Nat) : Bool :=
  if link < dieBase then (linkDies link).any fun d => d == a || d == b
  else if link < portBase then a != b && (linkDies link).contains a && (linkDies link).contains b
  else false

/-- Whether a packet in flight may lie on a link. -/
def packetOn (link : Nat) (p : Packet) : Bool :=
  if link < portBase then mayCarry link (nodeDie p.src) (nodeDie p.dst)
  else
    let port := portNode ((link - portBase) / 4) ((link - portBase) % 4)
    p.src == port || p.dst == port

/-- Whether a link may carry packets of a core to some home of memory (01 R34, R35, 03 R109). -/
def coreOn (link core : Nat) : Bool := (List.range 4).any fun d => mayCarry link (dieOf core) d

/-- LINK_ABORT in the fault log of a context that a discarded packet names (03 R122, 16 R489). -/
def State.linkAbort (s : State) (ctx : CtxKey) : State := s.faultLog (ctxPart ctx) 0 0x7F 1 0 (ctxId ctx) 0 0

/-- Some of the operations that a link may have carried end ABORTED, each with a LINK_ABORT (03 R122). -/
def State.abortOps (s : State) (link : Nat) : State :=
  s.cores.foldl (fun s k => (FMap.keys k.2.ops).foldl (fun s n =>
    match FMap.get (s.core k.1).ops n with
    | none => s
    | some o =>
      let on := if link < portBase then coreOn link k.1 && (s.core k.1).opTravels o else o.crosses
      if o.written || o.status.isSome || !on then s
      else
        let r := s.chance
        if r.1 then (r.2.modOp k.1 n fun o => (r.2.core k.1).abortOp o).linkAbort o.ctx else r.2) s) s

/-- A context loses a packet of a warp: its fault log says LINK_ABORT, and it is killed (03 R122, 16 R489).
(DESIGN CHOICE, notes/assumptions/102.md.) -/
def State.linkKill (s : State) (ctx : CtxKey) : State :=
  if FMap.has s.ctxs ctx then (s.linkAbort ctx).killContext ctx 0 0x7F 3 0 0 0 else s

/-- The routes that the line class tables name are chosen anew where a link of theirs has failed (03 R120, R122).
(DESIGN CHOICE, notes/assumptions/126.md.) -/
def State.reroute (s : State) : State :=
  { s with cores := FMap.mapV s.cores fun c k => { k with
      lineClass := FMap.mapV k.lineClass fun line e =>
        if (s.openRoutes c (s.homeSlice (64 * line))).contains e.2.1 then e else (e.1, s.routeTo c line, e.2.2) } }

/-- A link fails (03 R122): each end closes its partial packets with an abort of reason 1; packets it may carry that had not arrived
whole are discarded, and which of those in flight these are is the device's; the context that a discarded packet belongs to loses it,
and the routers choose among the links that are left. (DESIGN CHOICE, notes/assumptions/102.md.) -/
def State.failLink (s : State) (link : Nat) : State :=
  let partials := (s.link link).partial'.filterMap fun x => x.2.head?.bind fun h => s.packetOwner (packetOf h [])
  let s := s.modLink link fun l => { (l.close 1 fun _ => true) with failed := true, retraining := false, replays := 0 }
  let s := (s.abortOps link).reroute
  let s := (s.net.filter fun p => packetOn link p).foldl (fun s p =>
    let r := s.chance
    if !r.1 then r.2
    else
      let t := { r.2 with net := r.2.net.erase p }
      if p.opc == 7 then t   -- an interrupt names no context
      else match r.2.packetOwner p with
        | some c => t.linkKill c
        | none => t) s
  let s := partials.eraseDups.foldl State.linkKill s
  if 1000 ≤ link then s
  else
    (FMap.keys s.ctxs).foldl (fun s c =>
      if !(s.cores.any fun k => coreOn link k.1 && k.2.wgs.any fun g => g.2.ctx == c) then s
      else
        let r := s.chance
        if r.1 then r.2.linkKill c else r.2) s

/-- LINK_FAILURE (03 R122): an on-die link fails after 16 consecutive failed replays. -/
def execLinkFailure (link : Nat) (s : State) : Answer State :=
  .next (if !s.linkUp link || decide (900 ≤ link) || decide ((s.link link).replays < crcLimit) then s else s.failLink link)

/-- LINK_RETRAIN_COMPLETE (03 R122, 16 R493): the link runs again, or is declared failed. -/
def execLinkRetrainComplete (link : Nat) (ok : Bool) (s : State) : Answer State :=
  .next (if !(s.link link).retraining then s
    else if ok then s.modLink link fun l => { l with retraining := false, replays := 0 }
    else s.failLink link)

/-- A flit arrives over a link (03 R114, R122): one that fails its CRC is to be replayed; one of a reserved KIND or CLS fails the
link; one out of sequence is dropped, as link-level retry sends it again; the packet that a LAST flit completes has arrived.
(DESIGN CHOICE, notes/assumptions/135.md.) -/
def State.receiveFlit (s : State) (link : Nat) (f : Flit) : State :=
  let l := s.link link
  if !s.linkUp link then s
  else if f.crc != f.crcOf then s.crcFailed link
  else if f.illegal then s.failLink link
  else if f.seq != l.seq then s
  else
    let r := l.take f
    let s := s.modLink link fun _ => r.1
    match r.2 with
    | some p => s.send p
    | none => s

/-- HEADER_PARITY_ERROR (03 R124): the partition named by the header comes down, or every partition with a cluster on the
detecting die; a header from another package names the partition of the context bound to its job (16 R492). -/
def execHeaderParityError (die : Nat) (inH0 : Bool) (p : Packet) (s : State) : Answer State :=
  .next (
    let t := { s with net := s.net.erase p }
    if inH0 then t.badHeader die
    else if !packetForeign p then t.killPartition p.part.toNat
    else match s.boundCtx p with
      | some c => t.killPartition (ctxPart c)
      | none => t)

/-- PAYLOAD_ERROR (03 R123): the packet is discarded and the context it belongs to is killed. -/
def execPayloadError (p : Packet) (s : State) : Answer State :=
  .next (
    let t := { s with net := s.net.erase p }
    match s.packetOwner p with
    | some c => if FMap.has s.ctxs c then t.killContext c 0 0x7F 3 0 0 0 else t
    | none => t)

end Sys2Proof.Machine
end

