-- ==== Sys2Proof/Machine/Sha512.lean ====
section
/-!
DEFINITION. SHA-512, the digest that an attestation report holds over its fields (16 R486); the algorithm is the standard one
(PRESUMED, notes/assumptions/11.md).
-/
namespace Sys2Proof.Sha512

/-- The round constants. -/
def rounds1 : List (BitVec 64) :=
  [ 0x428A2F98D728AE22, 0x7137449123EF65CD, 0xB5C0FBCFEC4D3B2F, 0xE9B5DBA58189DBBC,
    0x3956C25BF348B538, 0x59F111F1B605D019, 0x923F82A4AF194F9B, 0xAB1C5ED5DA6D8118,
    0xD807AA98A3030242, 0x12835B0145706FBE, 0x243185BE4EE4B28C, 0x550C7DC3D5FFB4E2,
    0x72BE5D74F27B896F, 0x80DEB1FE3B1696B1, 0x9BDC06A725C71235, 0xC19BF174CF692694,
    0xE49B69C19EF14AD2, 0xEFBE4786384F25E3, 0x0FC19DC68B8CD5B5, 0x240CA1CC77AC9C65,
    0x2DE92C6F592B0275, 0x4A7484AA6EA6E483, 0x5CB0A9DCBD41FBD4, 0x76F988DA831153B5,
    0x983E5152EE66DFAB, 0xA831C66D2DB43210, 0xB00327C898FB213F, 0xBF597FC7BEEF0EE4,
    0xC6E00BF33DA88FC2, 0xD5A79147930AA725, 0x06CA6351E003826F, 0x142929670A0E6E70,
    0x27B70A8546D22FFC, 0x2E1B21385C26C926, 0x4D2C6DFC5AC42AED, 0x53380D139D95B3DF,
    0x650A73548BAF63DE, 0x766A0ABB3C77B2A8, 0x81C2C92E47EDAEE6, 0x92722C851482353B ]
/-- The round constants, second half. -/
def rounds2 : List (BitVec 64) :=
  [ 0xA2BFE8A14CF10364, 0xA81A664BBC423001, 0xC24B8B70D0F89791, 0xC76C51A30654BE30,
    0xD192E819D6EF5218, 0xD69906245565A910, 0xF40E35855771202A, 0x106AA07032BBD1B8,
    0x19A4C116B8D2D0C8, 0x1E376C085141AB53, 0x2748774CDF8EEB99, 0x34B0BCB5E19B48A8,
    0x391C0CB3C5C95A63, 0x4ED8AA4AE3418ACB, 0x5B9CCA4F7763E373, 0x682E6FF3D6B2B8A3,
    0x748F82EE5DEFB2FC, 0x78A5636F43172F60, 0x84C87814A1F0AB72, 0x8CC702081A6439EC,
    0x90BEFFFA23631E28, 0xA4506CEBDE82BDE9, 0xBEF9A3F7B2C67915, 0xC67178F2E372532B,
    0xCA273ECEEA26619C, 0xD186B8C721C0C207, 0xEADA7DD6CDE0EB1E, 0xF57D4F7FEE6ED178,
    0x06F067AA72176FBA, 0x0A637DC5A2C898A6, 0x113F9804BEF90DAE, 0x1B710B35131C471B,
    0x28DB77F523047D84, 0x32CAAB7B40C72493, 0x3C9EBE0A15C9BEBC, 0x431D67C49C100D4C,
    0x4CC5D4BECB3E42B6, 0x597F299CFC657E2A, 0x5FCB6FAB3AD6FAEC, 0x6C44198C4A475817 ]
/-- The initial hash value. -/
def init : List (BitVec 64) :=
  [ 0x6A09E667F3BCC908, 0xBB67AE8584CAA73B, 0x3C6EF372FE94F82B, 0xA54FF53A5F1D36F1,
    0x510E527FADE682D1, 0x9B05688C2B3E6C1F, 0x1F83D9ABFB41BD6B, 0x5BE0CD19137E2179 ]

/-- Word i of a list. -/
def at' (l : List (BitVec 64)) (i : Nat) : BitVec 64 := l.getD i 0

/-- The big-endian words of bytes. -/
def wordsOf (n : Nat) (l : List Byte) : List (BitVec 64) :=
  (List.range n).map fun i => BitVec.ofNat 64 (((l.drop (8 * i)).take 8).foldl (fun v b => 256 * v + b.toNat) 0)

/-- The message schedule from its last sixteen words, newest first: n words more. -/
def schedule : Nat → List (BitVec 64) → List (BitVec 64)
  | 0, l => l
  | n + 1, l =>
    let a := at' l 14
    let b := at' l 1
    let s0 := a.rotateRight 1 ^^^ a.rotateRight 8 ^^^ (a >>> 7)
    let s1 := b.rotateRight 19 ^^^ b.rotateRight 61 ^^^ (b >>> 6)
    schedule n ((at' l 15 + s0 + at' l 6 + s1) :: l)

/-- One round on the eight working words. -/
def round (v : List (BitVec 64)) (k w : BitVec 64) : List (BitVec 64) :=
  let a := at' v 0
  let e := at' v 4
  let s1 := e.rotateRight 14 ^^^ e.rotateRight 18 ^^^ e.rotateRight 41
  let ch := (e &&& at' v 5) ^^^ (~~~e &&& at' v 6)
  let t1 := at' v 7 + s1 + ch + k + w
  let s0 := a.rotateRight 28 ^^^ a.rotateRight 34 ^^^ a.rotateRight 39
  let maj := (a &&& at' v 1) ^^^ (a &&& at' v 2) ^^^ (at' v 1 &&& at' v 2)
  [t1 + s0 + maj, a, at' v 1, at' v 2, at' v 3 + t1, e, at' v 5, at' v 6]

/-- The hash value after a block of 128 bytes. -/
def block (h : List (BitVec 64)) (l : List Byte) : List (BitVec 64) :=
  let w := (schedule 64 (wordsOf 16 l).reverse).reverse
  let v := ((rounds1 ++ rounds2).zip w).foldl (fun v x => round v x.1 x.2) h
  (h.zip v).map fun x => x.1 + x.2

/-- The padded message. -/
def pad (l : List Byte) : List Byte :=
  let n := l.length
  l ++ ([0x80] : List Byte) ++ List.replicate ((239 - n % 128) % 128) (0 : Byte) ++ ((List.range 16).map fun i => BitVec.ofNat 8 ((8 * n) >>> (8 * (15 - i))))

/-- The hash value after some blocks. -/
def blocks : Nat → List (BitVec 64) → List Byte → List (BitVec 64)
  | 0, h, _ => h
  | n + 1, h, l => blocks n (block h (l.take 128)) (l.drop 128)

/-- The digest of some bytes, as 64 bytes. (PRESUMED, notes/assumptions/11.md.) -/
def digest (l : List Byte) : List Byte :=
  let m := pad l
  (blocks (m.length / 128) init m).flatMap fun (w : BitVec 64) => (List.range 8).map fun i => (w >>> (8 * (7 - i))).setWidth 8

end Sys2Proof.Sha512
end

