-- ==== Sys2Proof/Machine/Resets.lean ====
section
/-!
DEFINITION. Resets (15 R446; 16 R481, R484, R490), the loading of firmware (16 R485) and attestation (16 R486).
-/
namespace Sys2Proof.Machine

/-- Whether a function answers: the management function (0) once the firmware is verified, partition function p + 1 while its
partition is enabled (16 R471, R484). -/
def State.functionOn (s : State) (fn : Nat) : Bool :=
  s.mf.fwstat == 1 && (fn == 0 || (decide (fn ≤ 16) && (s.part (fn - 1)).ena))

/-! Package reset and firmware. -/

/-- The package after a reset whose verification found an outcome: everything is as its own reset gives, but for memory and
for what firmware and the device keep (16 R476, R484). (DEDUCED, notes/assumptions/104.md.) -/
def State.packageReset (s : State) (outcome : BitVec 4) : State :=
  { State.reset with
    mem := s.mem, poison := s.poison, agenda := s.agenda, uids := s.uids, freeCount := s.freeCount, turns := s.turns
    mf := { Mf.reset with
      fwstat := outcome, image := s.mf.image, retire := s.mf.retire, recovery := s.mf.recovery
      verifications := s.mf.verifications, reports := s.mf.reports } }

/-- A verification of an image: its outcome, and the state in which it has been made (16 R484).
(DESIGN CHOICE, notes/assumptions/105.md.) -/
def State.verifyImage (s : State) : BitVec 4 × State :=
  (verdict s.mf.verifications, { s with mf := { s.mf with verifications := s.mf.verifications + 1 } })

/-- PACKAGE_RESET (16 R484, 15 R446): the package starts anew, and the boot ROM verifies the image it holds.
(DEDUCED, notes/assumptions/104.md.) -/
def execPackageReset (s : State) : Answer State :=
  let v := s.verifyImage
  .next (v.2.packageReset v.1)

/-- FWLOAD (16 R485): in recovery mode the image in the recovery window is verified; a good one is stored and the package is
reset with it, and otherwise FWSTAT tells the outcome. (DESIGN CHOICE, notes/assumptions/105.md.) -/
def execFwload (s : State) : Answer State :=
  .next (
    if s.mf.fwstat == 1 then s
    else
      let v := s.verifyImage
      if v.1 == 1 then
        let t := v.2.packageReset 1
        { t with mf := { t.mf with image := s.mf.verifications } }
      else { v.2 with mf := { v.2.mf with fwstat := v.1 } })

/-- The fields of an attestation report, its first 128 bytes (16 R486). -/
def State.reportFields (s : State) : List Byte :=
  (List.range 32).map (fun j => FMap.getD s.mf.attnonce j 0) ++ (List.range 64).map (fun j => Config.imageDigest s.mf.image j) ++
    bytesOf 8 Config.rollback.toNat ++ bytesOf 4 Config.harvest.toNat ++ bytesOf 4 s.mf.retire.toNat ++
    bytesOf 8 Config.featcap.toNat ++ bytesOf 8 0

/-- The 1,024 bytes of an attestation report (16 R486). (DESIGN CHOICE, notes/assumptions/106.md.) -/
def State.report (s : State) : List Byte :=
  s.reportFields ++ Sha512.digest s.reportFields ++ bytesOf 320 0 ++
    (List.range 512).map fun j => Config.signature s.mf.reports j

/-- ATTGO (16 R486): a write of 1 makes the firmware write its report; ATTSTAT tells that it is ready.
(DESIGN CHOICE, notes/assumptions/106.md.) -/
def execAttgo (s : State) : Answer State :=
  .next (
    if !s.functionOn 0 then s
    else { s with mf := { s.mf with
      attready := true, attbuf := (List.range 1024).zip s.report, reports := s.mf.reports + 1 } })

/-! Function-level and partition reset. -/

/-- A function-level reset (16 R481, R482): the reset generation advances, AQIs and the fault queue are disabled, and no
feature is accepted. -/
def State.resetFunction (s : State) (part : Nat) : State :=
  let f := s.mf.fn (part + 1)
  let s := { s with mf := { s.mf with fstate := FMap.set s.mf.fstate (part + 1) (f.1, f.2 + 1) } }
  s.modPart part fun p => { p with
    aqis := FMap.mapV p.aqis fun _ a => { a with ena := false }
    aqiEver := false, featack := 0, fq := { p.fq with ena := false } }

/-- FUNCTION_LEVEL_RESET (16 R481). -/
def execFunctionLevelReset (part : Nat) (s : State) : Answer State := .next (s.resetFunction part)

/-- A cluster after the reset of its partition: VS1 at 1,200 MHz; its clocks go on counting (15 R438, R447, R448). -/
def Cluster.partitionReset (k : Cluster) : Cluster :=
  { Cluster.reset with rawcyc := k.rawcyc, cyc := k.cyc }

/-- A core after the reset of its partition: every folio, tile, gathering and warp is gone, and the folio table, the predictor and the
event counters are as their Reset columns give (02 R56, R57, 06 R204, R227, 14 R433). -/
def Core.partitionReset (k : Core) : Core :=
  { Core.reset with cdc := k.cdc, icache := k.icache, badLines := k.badLines, lineClass := k.lineClass }

/-- The registers of a partition after its reset: as the Reset columns give, but for PMAP and PCFG; the tables in memory of its
own that have no Reset column, and what the device has read of its descriptor, stay (00 R9, 16 R490). (DEDUCED, notes/assumptions/107.md.) -/
def Part.partitionReset (p : Part) : Part :=
  { Part.reset with
    pmap := p.pmap, ena := p.ena, latency := p.latency, floor := p.floor, s2en := p.s2en, frply := p.frply
    root2 := p.root2, rng2 := p.rng2, ranges2 := p.ranges2, hljob := p.hljob, graphs := p.graphs }

/-- MGOV of a cluster's cores is about to clear: what it has counted stays out of the next record's difference (15 R461). -/
def State.clearStalls (s : State) (c : Nat) : State :=
  let n := sumNat ((coresOf c).map fun k => (s.readMgov k).toNat)
  s.modDie (c / 8) fun d => { d with tel := { d.tel with govst := (d.tel.govst + 2 ^ 40 - n) % 2 ^ 32 } }

/-- What the reset of a partition does to the package (16 R490, 01 R36): its work is gone, its clusters and registers are at
their reset values, and its placed regions are unplaced. (DEDUCED, notes/assumptions/107.md.) -/
def State.resetPartition (s : State) (part : Nat) : State :=
  let clusters := (s.part part).clusters
  let mine := (FMap.keys s.ctxs).filter fun c => ctxPart c == part
  let s := (FMap.keys s.cores).foldl (fun s c => s.cancelOps c fun o => ctxPart o.ctx == part) s
  let s := mine.foldl (fun s c => s.dropWalks c) s
  let s := clusters.foldl (fun s c => ((s.clearStalls c).modCores c Core.partitionReset).modCluster c Cluster.partitionReset |>.govern c) s
  let s := { s with
    ctxs := FMap.mapV s.ctxs fun k c =>
      if ctxPart k == part then { c with quires := [], halted := false, sliceAt := none, waitsAt := none, rivals := [] } else c
    launches := FMap.keep s.launches fun k _ => launchPart k != part
    runs := FMap.keep s.runs fun k _ => launchPart k != part
    jobs := FMap.keep s.jobs fun k _ => k / 65536 != part
    doomed := s.doomed.filter fun c => ctxPart c != part
    saved := s.saved.filter fun v => v.part != part
    placement := FMap.keep s.placement fun _ p => p.2 != part }
  (s.modPart part Part.partitionReset).resetFunction part

/-- PARTITION_RESET (16 R490). -/
def execPartitionReset (part : Nat) (s : State) : Answer State := .next (s.resetPartition part)

end Sys2Proof.Machine
end

