-- ==== Sys2Proof/Machine/HostCommands.lean ====
section
/-!
DEFINITION. The commands of the host (16): contexts (R465), host invalidations (R477), functions and interrupts (R479, R480),
features (R482), submissions (R473), placement (R474), partitions and their moves (R463 to R468), and accesses through a BAR
window (R469, R470).
-/
namespace Sys2Proof.Machine

/-! Contexts (16 R465). -/

/-- The result of a context command. -/
def State.ctxResult (s : State) (part result : Nat) : State := s.modPart part fun p => { p with ctxResult := result }

/-- Whether a context image breaks its layout. (DEDUCED, notes/assumptions/108.md.) -/
def badImage (w : List Dword) : Bool :=
  let f (n lo len : Nat) : Nat := bitsAt (w.getD n 0).toNat lo len
  f 0 52 12 != 0 || f 0 1 11 != 0 || f 1 52 12 != 0 || f 1 0 11 != 0 || f 2 54 10 != 0 || f 3 22 42 != 0 || decide (2 ≤ f 3 20 2) ||
    [4, 5, 6, 7].any fun n => f n 0 64 != 0

/-- The context that an image describes, with its range copies loaded. -/
def State.ctxOf (s : State) (part : Nat) (w : List Dword) : Ctx :=
  let rng1 := 2048 * bitsAt (w.getD 1 0).toNat 11 41
  { root1 := 4096 * bitsAt (w.getD 0 0).toNat 12 40, rng1 := rng1, frply := (w.getD 0 0).getLsbD 0
    suph := (w.getD 2 0).setWidth 54, klvl := bitsAt (w.getD 3 0).toNat 20 2, pasid := (w.getD 3 0).setWidth 20
    halted := false, quires := [], ranges := s.readRanges part rng1, sliceAt := none, waitsAt := none, rivals := [] }

/-- The identifiers of a partition's contexts. -/
def State.ctxIds (s : State) (part : Nat) : List Nat := ((FMap.keys s.ctxs).filter fun c => ctxPart c == part).map ctxId

/-- Create the context of an image that has been read. (DEDUCED, notes/assumptions/108.md.) -/
def State.createCtx (s : State) (part : Nat) (w : List Dword) : State :=
  let c := s.ctxOf part w
  if badImage w then s.ctxResult part 2
  else if s.ctxs.any fun x => ctxPart x.1 == part && x.2.pasid == c.pasid then s.ctxResult part 4
  else
    match (List.range 4096).find? fun n => !(s.ctxIds part).contains n with
    | none => s.ctxResult part 1
    | some id =>
      ({ s.usedRanges part c.rng1 with ctxs := FMap.set s.ctxs (ctxKey part id) c }).modPart part fun p => { p with
        ctxResult := 0, ctxId := id }

/-- Create a context of the image that CTXARG names, read through the second stage. -/
def State.ctxCreate (s : State) (part : Nat) : State :=
  let arg := (s.part part).ctxarg.toNat
  if !s.functionOn (part + 1) then s
  else if arg % 64 != 0 then s.ctxResult part 2
  else
    match s.devIpa part .load arg (Use.start 0 0) with
    | .pa pa u => (s.usePte part (s.unitDie part) pa u).createCtx part ((List.range 8).map fun j => s.mdword (pa + 8 * j))
    | _ => s.ctxResult part 2

/-- The context that CTXARG names, if it is one of the partition. -/
def State.argCtx (s : State) (part : Nat) : Option (CtxKey × Ctx) :=
  let arg := (s.part part).ctxarg.toNat
  if 4096 ≤ arg then none else (FMap.get s.ctxs (ctxKey part arg)).map fun c => (ctxKey part arg, c)

/-- Whether a context has work: a workgroup on a core or saved, or a launch that has not ended. -/
def State.hasWork (s : State) (ctx : CtxKey) : Bool :=
  s.holdsWork ctx || !s.workDone ctx || s.saved.any fun v => v.wg.ctx == ctx

/-- The folios of a context return to FREE on every core. (DEDUCED, notes/assumptions/109.md.) -/
def State.freeFolios (s : State) (ctx : CtxKey) : State :=
  { s with cores := FMap.mapV s.cores fun _ k =>
      (k.folios.filter fun f => f.2.ctx == ctx && f.2.state != .free).foldl (fun (k : Core) f => k.freeFolio f.1) k }

/-- Destroy a context: its work is killed with ERROR 0x7E, and its descriptor, quire table and identifier are free.
(DEDUCED, notes/assumptions/109.md.) -/
def State.ctxDestroy (s : State) (part : Nat) : State :=
  if !s.functionOn (part + 1) then s
  else
    match s.argCtx part with
    | none => s.ctxResult part 3
    | some (key, _) =>
      let s := if s.hasWork key then (s.killContext key 0 0x7E 3 0 0 0).endAll key else s.freeFolios key
      let s := s.dropWalks key
      let s := { s with ctxs := FMap.erase s.ctxs key, tlb1 := s.tlb1.filter fun t => t.owner != key }
      (s.modPart part fun p => { p with affinity := p.affinity.filter fun a => a.1 != key }).ctxResult part 0

/-- Resume a halted context. -/
def State.ctxResume (s : State) (part : Nat) : State :=
  if !s.functionOn (part + 1) then s
  else
    match s.argCtx part with
    | none => s.ctxResult part 3
    | some (key, c) =>
      if !c.halted then s.ctxResult part 5 else (s.modCtx key fun c => { c with halted := false }).ctxResult part 0

/-- CTXCMD_CREATE (16 R465). -/
def execCtxcmdCreate (part : Nat) (s : State) : Answer State := .next (s.ctxCreate part)

/-- CTXCMD_DESTROY (16 R465). -/
def execCtxcmdDestroy (part : Nat) (s : State) : Answer State := .next (s.ctxDestroy part)

/-- CTXCMD_RESUME (16 R465). -/
def execCtxcmdResume (part : Nat) (s : State) : Answer State := .next (s.ctxResume part)

/-! Host invalidations (16 R477). -/

/-- A first-stage invalidation of a partition's context: BUSY is set, and the entries go. -/
def State.tlbCommand (s : State) (part ctx : Nat) (drop : State → State) : State :=
  let key := ctxKey part ctx
  if !s.functionOn (part + 1) || (s.part part).tlbBusy.isSome || decide (4096 ≤ ctx) || !FMap.has s.ctxs key then s
  else (drop s).modPart part fun p => { p with tlbBusy := some key }

/-- TLBCMD_ADDR (16 R477): kind 0, the page that TLBVA names. -/
def execTlbcmdAddr (part ctx : Nat) (s : State) : Answer State :=
  .next (s.tlbCommand part ctx fun s => s.dropPage1 (ctxKey part ctx) (s.part part).tlbva)

/-- TLBCMD_CTX (16 R477): kind 1, every translation and range copy of the context. -/
def execTlbcmdCtx (part ctx : Nat) (s : State) : Answer State :=
  .next (s.tlbCommand part ctx fun s => s.dropCtx1 (ctxKey part ctx))

/-- TLBCMD_RNG (16 R477): kind 2, the range copies, reloaded from memory. -/
def execTlbcmdRng (part ctx : Nat) (s : State) : Answer State :=
  .next (s.tlbCommand part ctx fun s => s.reloadRanges (ctxKey part ctx))

/-- Whether the descriptor of a partition breaks its layout (16 R466). -/
def State.badDescriptor (s : State) (pdesc : Nat) : Bool :=
  let w (n : Nat) : Nat := s.mread (pdesc + 8 * n) 8
  bitsAt (w 0) 52 12 != 0 || bitsAt (w 0) 0 12 != 0 || bitsAt (w 1) 52 12 != 0 || bitsAt (w 1) 0 10 != 0 ||
    [2, 3, 4, 5, 6, 7].any fun n => w n != 0

/-- Load the second-stage range copies from memory (01 R27). -/
def State.loadRanges2 (s : State) (part : Nat) : State :=
  let l := s.rangesAt (s.part part).rng2 32
  s.modPart part fun p => { p with ranges2 := l }

/-- Read a partition's descriptor and its range copies; one with a reserved field set is not taken (16 R466).
(DEDUCED, notes/assumptions/110.md.) -/
def State.loadDescriptor (s : State) (part : Nat) : State :=
  let at' := (s.part part).pdesc.toNat
  if s.badDescriptor at' then s
  else
    (s.modPart part fun p => { p with
      root2 := 4096 * bitsAt (s.mread at' 8) 12 40, rng2 := 1024 * bitsAt (s.mread (at' + 8) 8) 10 42 }).loadRanges2 part

/-- The descriptor or range table of a partition that a command reads, where it is in the hole of the physical map. -/
def State.descHole (s : State) (part : Nat) (desc : Bool) : Option Nat :=
  let p := s.part part
  let at' := if desc then p.pdesc.toNat else p.rng2
  if p.s2en && paHole at' then some at' else none

/-- A second-stage invalidation of an enabled partition: BUSY is set, and the entries go. (DEDUCED, notes/assumptions/110.md.) -/
def State.s2Command (s : State) (part : Nat) (drop : State → State) : State :=
  { drop s with mf := { (drop s).mf with s2Busy := some part } }

/-- Whether a second-stage command is taken. -/
def State.s2Taken (s : State) (part : Nat) : Bool := s.functionOn 0 && s.mf.s2Busy.isNone && decide (part < 16) && (s.part part).ena

/-- S2CMD_PAGE (16 R477): kind 0, the translations of the page that S2VA names. -/
def State.s2Page (s : State) (part : Nat) : Answer State :=
  .next (if !s.s2Taken part then s
    else s.s2Command part fun s =>
      { s with tlb2 := s.tlb2.filter fun t => !(t.owner == part && t.covers (s.mf.s2va.toNat / 4096)) })

/-- S2CMD_PARTITION (16 R477, R466): kind 1, every translation and range copy; the descriptor is read again. -/
def State.s2All (s : State) (part : Nat) : Answer State :=
  if !s.s2Taken part then .next s
  else
    match s.descHole part true with
    | some pa => .fault (.deviceHole pa)
    | none => .next (s.s2Command part fun s =>
        let s := { s with tlb2 := s.tlb2.filter fun t => t.owner != part }
        if (s.part part).s2en then s.loadDescriptor part else s)

/-- S2CMD_RANGE (16 R477): kind 2, the range copies, reloaded from memory. -/
def State.s2Range (s : State) (part : Nat) : Answer State :=
  if !s.s2Taken part then .next s
  else
    match s.descHole part false with
    | some pa => .fault (.deviceHole pa)
    | none => .next (s.s2Command part fun s => if (s.part part).s2en then s.loadRanges2 part else s)

/-- S2CMD_PAGE (16 R477). -/
def execS2cmdPage (part : Nat) (s : State) : Answer State := s.s2Page part

/-- S2CMD_PARTITION (16 R477). -/
def execS2cmdPartition (part : Nat) (s : State) : Answer State := s.s2All part

/-- S2CMD_RANGE (16 R477). -/
def execS2cmdRange (part : Nat) (s : State) : Answer State := s.s2Range part

/-- The invalidations whose guarantee holds end (13 R402, 16 R477). -/
def State.endInvalidations (s : State) : State :=
  let done1 (p : Part) : Bool := match p.tlbBusy with
    | some c => s.ctxQuiet fun x => x == c
    | none => false
  let s := if s.parts.any fun p => done1 p.2 then
      { s with parts := FMap.mapV s.parts fun _ p => if done1 p then { p with tlbBusy := none } else p }
    else s
  match s.mf.s2Busy with
  | some part => if s.ctxQuiet fun x => ctxPart x == part then { s with mf := { s.mf with s2Busy := none } } else s
  | none => s

/-! Functions, interrupts and features (16 R479 to R482). -/

/-- Scan one byte of a pending table (16 R480). (DEDUCED, notes/assumptions/113.md.) -/
def State.scanByte (s : State) (fn base v : Nat) : State :=
  let b := s.mread (base + v) 1
  if b == 0 then s
  else
    let s := s.mwrite (base + v) 1 0
    if b < 128 then s
    else if b % 128 == (s.mf.fn fn).2.toNat then { s with msi := s.msi ++ [(fn, v)] }
    else { s with mf := { s.mf with irqstale := satAdd 0xFFFF_FFFF s.mf.irqstale 1 } }

/-- Write the run state of a function: RUNNING scans its pending table (16 R480). (DEDUCED, notes/assumptions/113.md.) -/
def State.writeFstate (s : State) (fn : Nat) (value : BitVec 32) : Answer State :=
  let n := (value.extractLsb' 0 2).toNat
  let base := (FMap.getD s.mf.pendbase fn 0).toNat
  if !s.functionOn 0 || decide (16 < fn) || n == 3 then .next s
  else
    let s := { s with mf := { s.mf with fstate := FMap.set s.mf.fstate fn (n, (s.mf.fn fn).2) } }
    if n != 0 then .next s
    else if paHole base then .fault (.deviceHole base)
    else .next ((List.range 2048).foldl (fun s v => s.scanByte fn base v) s)

/-- FSTATE_WRITE (16 R480). -/
def execFstateWrite (fn : Nat) (value : BitVec 32) (s : State) : Answer State := s.writeFstate fn value

/-- Accept features, until an AQI has been enabled (16 R482). -/
def State.writeFeatack (s : State) (part : Nat) (value : BitVec 64) : State :=
  if !s.functionOn (part + 1) || (s.part part).aqiEver then s
  else s.modPart part fun p => { p with featack := value &&& Config.featcap }

/-- FEATACK_WRITE (16 R482). -/
def execFeatackWrite (part : Nat) (value : BitVec 64) (s : State) : Answer State := .next (s.writeFeatack part value)

/-! Submission (16 R473). -/

/-- An AQI of a partition. -/
def Part.aqi (p : Part) (n : Nat) : Aqi := FMap.getD p.aqis n Aqi.reset

/-- AQI_SUBMISSION (16 R473): a 64-byte write to a notify page is accepted, or dropped and counted. -/
def execAqiSubmission (part aqi : Nat) (pasid : Option (BitVec 20)) (whole : Bool) (packet : List (BitVec 64)) (s : State) :
    Answer State :=
  .next (
    let a := (s.part part).aqi aqi
    let set (s : State) (a : Aqi) : State := s.modPart part fun p => { p with aqis := FMap.set p.aqis aqi a }
    if !s.functionOn (part + 1) || decide (8 ≤ aqi) then s
    else if !whole || packet.length != 8 || !a.ena || pasid != some a.pasid then set s { a with badw := satAdd 0xFFFF a.badw 1 }
    else
      ((set s { a with acc := satAdd 0xFFFF a.acc 1 }).accept part a.queue (ctxKey part ((s.part part).queue a.queue).ctx) packet).2)

/-! Placement (16 R474). -/

/-- The physical frame that the second stage maps an IPA of a partition to, whatever it permits there. -/
def State.frameOf (s : State) (part ipa : Nat) : Option Nat :=
  if !(s.part part).s2en then some (ipa / 4096)
  else
    let paged : Option Nat := match s.walkFrom true physRead ipa 4 (s.part part).root2 Trail.none with
      | .leaf l => some (bitsAt l.e 12 40 + ipa / 4096 % 512 ^ l.level)
      | _ => none
    match findRange true (ipa / 4096) 0 (s.part part).ranges2 with
    | none => paged
    | some (_, e) =>
      if e.malformed true then none
      else if e.w3.getLsbD 1 then paged
      else some ((ipa + e.w2.toNat) % 2 ^ 64 / 4096)

/-- The physical frames of HBM behind some 4 KiB pages of a partition's IPAs. -/
def State.framesOf (s : State) (part ipa pages : Nat) : List Nat :=
  (List.range pages).filterMap fun j => match s.frameOf part (ipa + 4096 * j) with
    | some f => if 4096 * f < Config.hbmBytes then some f else none
    | none => none

/-- The frames that the release of a partition is for (16 R474). -/
def State.plrelFrames (s : State) (part : Nat) : List Nat :=
  let value := (s.part part).plrel
  s.framesOf part (65536 * (value.extractLsb' 16 48).toNat) (16 * ((value.extractLsb' 0 16).toNat + 1))

/-- Whether a queued speculative store or atomic is outstanding to some frames. -/
def State.queuedTo (s : State) (inside : Nat → Bool) : Bool :=
  s.cores.any fun k => k.2.storeQ.any fun q => q.2.any fun e => e.lanes.any fun l => match l.loc with
    | .global pa => inside pa
    | .folio _ _ => false

/-- A release of placement completes once no queued access is outstanding to its regions: what else is outstanding there is performed,
the regions are zeroed, and they are unplaced (16 R474, 01 R36). (DESIGN CHOICE, notes/assumptions/146.md.) -/
def State.finishPlrel (s : State) (part : Nat) : State :=
  if !(s.part part).plBusy then s
  else
    let frames := s.plrelFrames part
    let inside (pa : Nat) : Bool := frames.contains (pa / 4096)
    if s.queuedTo inside then s
    else
      let s := s.modPart part fun p => { p with plBusy := false }
      let s := (FMap.keys s.cores).foldl (fun s c => (FMap.keys (s.core c).warps).foldl (fun s w =>
        s.applyQuanta c w fun q => match q.loc with
          | .global pa => inside pa
          | .folio _ _ => false) s) s
      { s with
        mem := s.mem.filter fun c => !inside c.1
        poison := s.poison.filter fun n => !inside (64 * n)
        msc := FMap.mapV s.msc fun _ l => l.filter fun n => !inside (64 * n)
        placement := FMap.keep s.placement fun r _ => !(frames.any fun f => f / 16 == r) }

/-- A release of placement begins (16 R474). -/
def State.startPlrel (s : State) (part : Nat) (value : BitVec 64) : State :=
  if !s.functionOn (part + 1) then s
  else (s.modPart part fun p => { p with plrel := value, plBusy := true }).finishPlrel part

/-- PLREL (16 R474). -/
def execPlrel (part : Nat) (value : BitVec 64) (s : State) : Answer State := .next (s.startPlrel part value)

/-! Partitions (16 R463, R464, R466). -/

/-- Set PSTAT.BADMAP. -/
def State.badMap (s : State) (part : Nat) : State := s.modPart part fun p => { p with badmap := true }

/-- Whether a physical cluster may not be placed in a partition: harvested or retired (16 R462). -/
def State.clusterGone (s : State) (c : Nat) : Bool := Config.harvest.getLsbD c || s.mf.retire.getLsbD c

/-- Whether logical clusters are numbered densely from 0. -/
def denseMap (m : FMap (BitVec 8)) : Bool :=
  let valid (n : Nat) : Bool := (FMap.getD m n 0).getLsbD 7
  (List.range 32).all fun n => n == 0 || !valid n || valid (n - 1)

/-- The persistent folios of a physical cluster's cores return to FREE, with their directory entries (16 R468, 02 R69). -/
def State.freePersistent (s : State) (cluster : Nat) : State :=
  (coresOf cluster).foldl (fun s c =>
    ((s.core c).folios.filter fun f => f.2.pers && f.2.state != .free).foldl (fun s f => s.freeSlot c f.1) s) s

/-- Write an entry of a partition's remap table, or reject the write (16 R464, R468). (DEDUCED, notes/assumptions/111.md.) -/
def State.writePmap (s : State) (part n : Nat) (value : BitVec 8) : State :=
  let p := s.part part
  let cl := pmapCluster value
  let old := FMap.getD p.pmap n 0
  let map := FMap.set p.pmap n (value &&& 0xFC)
  let elsewhere := s.parts.any fun q => q.1 != part && q.2.clusters.contains cl
  if !s.functionOn 0 || decide (16 ≤ part) || decide (32 ≤ n) then s
  else if p.ena || (value.getLsbD 7 && (s.clusterGone cl || elsewhere)) || !denseMap map then s.badMap part
  else
    let s := if old.getLsbD 7 && !value.getLsbD 7 then s.freePersistent (pmapCluster old) else s
    s.modPart part fun p => { p with pmap := map }

/-- PMAP_WRITE (16 R464). -/
def execPmapWrite (part n : Nat) (value : BitVec 8) (s : State) : Answer State := .next (s.writePmap part n value)

/-- Write the configuration of a partition (16 R463, R464, R466). (DEDUCED, notes/assumptions/111.md.) -/
def State.writePcfg (s : State) (part : Nat) (value : BitVec 32) : Answer State :=
  let p := s.part part
  let ena := value.getLsbD 31
  let latency := value.getLsbD 30
  let floor := (value.extractLsb' 28 2).toNat
  let s2en := value.getLsbD 27
  if !s.functionOn 0 || decide (16 ≤ part) then .next s
  else if p.ena && (latency != p.latency || s2en != p.s2en) then .next s
  else if ena && !p.ena && s2en && paHole p.pdesc.toNat then .fault (.deviceHole p.pdesc.toNat)
  else if ena && !p.ena && s2en && s.badDescriptor p.pdesc.toNat then .next (s.badMap part)
  else
    let t := s.modPart part fun p => { p with
      ena := ena, latency := latency, floor := if floor == 0 then p.floor else floor, s2en := s2en, frply := value.getLsbD 26 }
    .next (if ena && !p.ena && s2en then t.loadDescriptor part else t)

/-- PCFG_WRITE (16 R466). -/
def execPcfgWrite (part : Nat) (value : BitVec 32) (s : State) : Answer State := s.writePcfg part value

/-! Moving a cluster (16 R467). -/

/-- Whether a physical cluster is in a partition. -/
def State.occupied (s : State) (c : Nat) : Bool := s.parts.any fun q => q.2.clusters.contains c

/-- Firmware marks a physical cluster as retired, which no partition then takes; one that a partition holds is not marked (16 R462).
(DESIGN CHOICE, notes/assumptions/160.md.) -/
def State.retire (s : State) (c : Nat) : State :=
  if 32 ≤ c || s.occupied c then s else { s with mf := { s.mf with retire := s.mf.retire ||| (1#32 <<< c) } }

/-- Start the move that a write of PMOVE asks for. (DEDUCED, notes/assumptions/112.md.) -/
def State.startPmove (s : State) (value : BitVec 32) : State :=
  let part := (value.extractLsb' 28 4).toNat
  let n := (value.extractLsb' 23 5).toNat
  let target := (value.extractLsb' 18 5).toNat
  let p := s.part part
  let e := FMap.getD p.pmap n 0
  if !s.functionOn 0 then s
  else if p.busy || !e.getLsbD 7 || s.clusterGone target || s.occupied target then s.badMap part
  else
    let s := s.modPart part fun p => { p with busy := true, moving := some (n, target) }
    s.preemptAll fun c _ => clusterOf c == pmapCluster e

/-- PMOVE (16 R467): the move starts with the saves of the source cluster's workgroups. -/
def execPmove (value : BitVec 32) (s : State) : Answer State := .next (s.startPmove value)

/-- The entry with which a persistent folio arrives on the target core: rank 7 with its contents, the others LOST. A rank 7 folio
with a broken word is found so by its copy, and its context is to be killed (02 R93). -/
def State.moveFolio (s : State) (a b slot : Nat) (f : Folio) : State :=
  let lost : Folio := { f with state := if f.rank == 7 && f.state == .backed then .backed else .lost
                               clm := none, start := 0, inSewn := false }
  let copied := f.rank == 7 && f.holds
  let s := if copied && (s.core a).padBroken slot 0 (512 * f.size) then { s with doomed := f.ctx :: s.doomed } else s
  s.modCore b fun k =>
    match if copied then k.obtain 7 f.size else none with
    | some (u, k) =>
      let k := k.zeroUnits u f.size
      { k with
        folios := FMap.set k.folios slot { f with state := .bound, clm := none, start := u, inSewn := false }
        pad := Memory.writeBytes k.pad (512 * u) (Memory.readBytes (s.core a).pad (f.padAddr 0) (512 * f.size)) }
    | none => { k with folios := FMap.set k.folios slot lost }

/-- The engine operations in flight on a core go on on another, each under its own number or a free one, and what they wait for waits
for them there (13 R408, 16 R467). -/
def State.moveOps (s : State) (a b : Nat) : State :=
  let one (s : State) (x : Nat × EngineOp) : State :=
    let ops := (s.core b).ops
    let n := if FMap.has ops x.1 then (FMap.freeKey ops (ops.length + 1)).getD x.1 else x.1
    let go (w : Waiter) : Waiter := if w.who = .engine a x.1 then { w with who := .engine b n, core := b } else w
    let s := s.modCore b fun k => { k with ops := FMap.set k.ops n x.2 }
    { s with dies := FMap.mapV s.dies fun _ d => { d with
        walks := FMap.mapV d.walks fun _ w => { w with waiters := w.waiters.map go }
        missq := d.missq.map fun w => { w with waiters := w.waiters.map go }
        pending := FMap.mapV d.pending fun _ p => { p with walk := { p.walk with waiters := p.walk.waiters.map go } } } }
  ((s.core a).ops.foldl one s).modCore a fun k => { k with ops := [] }

/-- Steps 2 and 3 of 16 R467 for one core: its persistent folios go to the target core with their directory entries, and with them the
engine operations that continue. -/
def State.moveCore (s : State) (part a b : Nat) : State :=
  let mine := (s.core a).folios.filter fun f => f.2.pers && f.2.state != .free
  let s := mine.foldl (fun s f => s.moveFolio a b f.1 f.2) s
  let s := s.modCore a fun k =>
    { ((k.folios.filter fun f => f.2.state != .free).foldl (fun (k : Core) f => k.freeFolio f.1) k) with
      predictor := [], cdc := [], icache := [], badLines := [], lineClass := [], drain := [] }
  let s := s.moveOps a b
  s.modPart part fun p => { p with affinity := p.affinity.map fun x => if x.2.2 == a then (x.1, x.2.1, b) else x }

/-- Step 5 of 16 R467: a workgroup saved from the source core returns on the target core, where it may. -/
def State.moveSaved (s : State) (a b : Nat) : State :=
  let s : State := { s with saved := s.saved.map fun (v : Saved) => if v.core == a && v.pre then { v with core := b, moved := true } else v }
  (s.saved.filter fun (v : Saved) => v.core == b && v.pre).foldl (fun s v =>
    if s.mayRestore v b then (s.loadImage v.wg.ctx b v.part v.ipa).2 else s) s

/-- Steps 2 to 5 of 16 R467, when no workgroup is left on the source cluster; the kill of the partition ends the move.
(DEDUCED, notes/assumptions/112.md.) -/
def State.finishPmove (s : State) (part : Nat) : State :=
  match (s.part part).moving with
  | none => s
  | some (n, target) =>
    let src := pmapCluster (FMap.getD (s.part part).pmap n 0)
    let ended (s : State) : State := s.modPart part fun p => { p with busy := false, moving := none }
    if (s.part part).down then ended s
    else if (coresOf src).any fun c => !(s.core c).wgs.isEmpty then s
    else
      let pairs := (List.range 8).map fun j => (8 * src + j, 8 * target + j)
      let s := pairs.foldl (fun s x => s.moveCore part x.1 x.2) s
      let s := s.modPart part fun p => { p with pmap := FMap.set p.pmap n (BitVec.ofNat 8 (128 + 4 * target)) }
      pairs.foldl (fun s x => s.moveSaved x.1 x.2) (ended s)

/-! The host's own accesses (16 R469, R470). -/


/-- The module that carries an access: the other one where it has failed (16 R470). There are two, on D0 and D1 (00 R2). -/
def State.carrier (s : State) (module : Nat) : Option Nat :=
  if 2 ≤ module then none
  else if !s.uciDown.contains module then some module
  else if !s.uciDown.contains (1 - module) then some (1 - module) else none

/-- Read or write bytes of device memory page by page; those that the second stage does not map are left out. A region that the
host meets first is placed on the die of its module (01 R35), and a poisoned line that it reads is told it (03 R99).
(DEDUCED, notes/assumptions/114.md.) -/
def State.barBytes (s : State) (part die : Nat) : Nat → Nat → Nat → Option (List Byte) → List Byte → List Byte × State
  | 0, _, _, _, acc => (acc, s)
  | k + 1, ipa, n, write, acc =>
    if n == 0 then (acc, s)
    else
      let here := Nat.min n (4096 - ipa % 4096)
      match s.devIpa part (if write.isSome then .store else .load) ipa (Use.start 0 0) with
      | .pa pa u =>
        let s := s.usePte part die pa u
        match write with
        | some l => (s.writeBlock pa (l.take here)).barBytes part die k (ipa + here) (n - here) (some (l.drop here)) acc
        | none =>
          let bad := s.poison.any fun x => decide (pa / 64 ≤ x) && decide (64 * x < pa + here)
          ({ s with hostPoison := s.hostPoison || bad }).barBytes part die k (ipa + here) (n - here) none
            (acc ++ Memory.readBytes s.mem pa here)
      | d => (s.tried part die d).barBytes part die k (ipa + here) (n - here) (write.map fun l => l.drop here) acc

/-- HOST_BAR_ACCESS (16 R469, R470; 01 R35): the host reads or writes device memory through a BAR window.
(DEDUCED, notes/assumptions/114.md.) -/
def execHostBarAccess (part module ipa len : Nat) (write : Option (List (BitVec 8))) (s : State) : Answer State :=
  .next (match s.carrier module with
    | none => s
    | some m =>
      if !s.functionOn (part + 1) then s
      else
        let n := match write with
          | some l => l.length
          | none => len
        let s := if write.isSome then s else { s with hostPoison := false }
        let r := s.barBytes part m (n / 4096 + 2) ipa n write []
        if write.isSome then r.2 else { r.2 with hostRead := r.1 })

/-- UCIE_MODULE_FAILURE (16 R470): the other module carries all traffic, and no context is killed. -/
def execUcieModuleFailure (module : Nat) (s : State) : Answer State :=
  .next { s with uciDown := if s.uciDown.contains module || decide (2 ≤ module) then s.uciDown else module :: s.uciDown }

end Sys2Proof.Machine
end

