-- ==== Sys2Proof/Machine/Registers.lean ====
section
/-!
DEFINITION. The register maps of the functions (16 R475, R476) with the layouts of 01 R42, 14 R415 and R435, 15 R439, R449,
R452, R455 and R460, 16 R463, R465, R472, R476 to R479 and R489: what each register reads, what a write does, and the registers
that a read clears (00 R7). Function 0 is the management function and function p + 1 the partition function of partition p;
offsets of the management function from 2^20 on are those of its recovery window.
-/
namespace Sys2Proof.Machine

/-- Where a register of an array stands: its index, when an offset is one of some that begin at a base and repeat. -/
def regIndex (base step count off : Nat) : Option Nat :=
  if base ≤ off && (off - base) % step == 0 && decide ((off - base) / step < count) then some ((off - base) / step) else none

/-- The start of the recovery window. -/
def recoveryBase : Nat := 2 ^ 20

/-- Whether a register has 8 bytes (16 R475, R476). -/
def reg8 (fn off : Nat) : Bool :=
  if fn == 0 then
    [0x30, 0x40, 0x80].contains off || (regIndex 0x1028 0x40 16 off).isSome || (regIndex 0x2410 0x20 4 off).isSome ||
      (regIndex 0x3008 0x10 17 off).isSome ||
      (decide (0x1_0000 ≤ off) && decide (off < 0x1_4000) && off % 8 == 0 && decide (off % 64 < 56)) ||
      (decide (0x4_0000 ≤ off) && decide (off < 0x4_8000) && off % 8 == 0)
  else [0x00, 0x08, 0x10, 0x20, 0x28, 0x40, 0x80, 0xC0].contains off

/-- A bit field of a register's value. -/
def fieldAt (x lo : Nat) : Nat := 2 ^ lo * x

/-! Reading. -/

/-- A register of a fault queue, by its offset in the set (01 R42). -/
def FaultQueue.read (q : FaultQueue) (off : Nat) : Nat :=
  match off with
  | 0x00 => q.base.toNat
  | 0x08 => fieldAt q.ena.toNat 7 + q.log
  | 0x0C => q.prod.toNat
  | 0x10 => q.cons.toNat
  | 0x18 => fieldAt q.badrep 16 + q.fullstall
  | 0x1C => q.fdrop
  | _ => 0

/-- TELCTL or FLCTL (15 R460, 16 R489). -/
def Ring.ctl (r : Ring) : Nat := fieldAt r.ena.toNat 7 + r.log

/-- The PHASE code of VFSTAT (15 R439). -/
def Phase.code : Phase → Nat
  | .notice | .closing | .drained => 1
  | .relock => 2
  | .voltage | .relight => 3

/-- VFMBOX (15 R439): the pending target, or the current one. -/
def Cluster.vfmbox (k : Cluster) : Nat :=
  match k.mbox with
  | some t => fieldAt t.step 24 + t.freq
  | none => fieldAt k.step 24 + k.freq

/-- VFSTAT (15 R439). -/
def Cluster.vfstat (k : Cluster) : Nat :=
  fieldAt k.move.isSome.toNat 31 + fieldAt k.mbox.isSome.toNat 30 + fieldAt ((k.move.map fun m => m.phase.code).getD 0) 28 +
    fieldAt k.step 24 + fieldAt k.ign 16 + k.freq

/-- A counter of the core event window, by its offset (06 R227, 14 R433). -/
def CoreEvents.read (e : CoreEvents) (off : Nat) : Nat :=
  (match off with
  | 0x00 => e.mpred
  | 0x08 => e.mphit
  | 0x10 => e.mpsq
  | 0x18 => e.mprln
  | 0x20 => e.mpstall
  | 0x28 => e.slip
  | 0x30 => e.mpkill
  | _ => 0) % 2 ^ 64

/-- A register of a partition function (16 R475). -/
def Part.read (p : Part) (off : Nat) : Nat :=
  if 0x80 ≤ off && off < 0xA0 then p.fq.read (off - 0x80)
  else
    match regIndex 0x100 8 8 off, regIndex 0x104 8 8 off, regIndex 0x1000 8 64 off, regIndex 0x1004 8 64 off with
    | some i, _, _, _ =>
      let a := p.aqi i
      fieldAt a.ena.toNat 31 + fieldAt a.queue 24 + a.pasid.toNat
    | _, some i, _, _ => fieldAt (p.aqi i).badw 16 + (p.aqi i).acc
    | _, _, some q, _ => fieldAt (p.queue q).ena.toNat 31 + fieldAt (p.queue q).prio 24 + (p.queue q).ctx
    | _, _, _, some q => fieldAt (p.queue q).drop 16 + (p.queue q).packets.length
    | _, _, _, _ =>
      match off with
      | 0x00 => Config.featcap.toNat
      | 0x08 => p.featack.toNat
      | 0x10 => p.ctxarg.toNat
      | 0x1C => fieldAt p.ctxResult 28 + p.ctxId
      | 0x20 => p.jobbase.toNat
      | 0x28 => p.plrel.toNat
      | 0x30 => p.plBusy.toNat
      | 0x34 => fieldAt p.tout 12 + p.tslice
      | 0x40 => p.tlbva.toNat
      | 0x4C => p.tlbBusy.isSome.toNat
      | 0xC0 => p.faultLog.base.toNat
      | 0xC8 => p.faultLog.ctl
      | 0xCC => p.faultLog.prod.toNat
      | _ => 0

/-- PCFG (16 R463). -/
def Part.pcfg (p : Part) : Nat :=
  fieldAt p.ena.toNat 31 + fieldAt p.latency.toNat 30 + fieldAt p.floor 28 + fieldAt p.s2en.toNat 27 + fieldAt p.frply.toNat 26

/-- Bytes of a register kept as bytes. -/
def bytesAt (m : FMap Byte) (at' n : Nat) : Nat := leOf ((List.range n).map fun j => FMap.getD m (at' + j) 0)

/-- A register of the partition set of the management function (16 R476). -/
def State.readPartReg (s : State) (off : Nat) : Nat :=
  let p := s.part ((off - 0x1000) / 0x40)
  let x := (off - 0x1000) % 0x40
  if x < 0x20 then (FMap.getD p.pmap x 0).toNat
  else
    match x with
    | 0x20 => p.pcfg
    | 0x24 => fieldAt p.busy.toNat 31 + fieldAt p.badmap.toNat 30
    | 0x28 => p.pdesc.toNat
    | _ => 0

/-- A register of a cluster or a die of the management function (16 R476). -/
def State.readUnitReg (s : State) (off : Nat) : Nat :=
  match regIndex 0x2000 0x10 32 off, regIndex 0x2004 0x10 32 off, regIndex 0x2008 0x10 32 off with
  | some c, _, _ => (s.cluster c).vfmbox
  | _, some c, _ => (s.cluster c).vfstat
  | _, _, some c => (s.cluster c).bbud.toNat
  | _, _, _ =>
    if off < 0x2400 then 0 else
    let t := (s.die ((off - 0x2400) / 0x20)).tel
    match (off - 0x2400) % 0x20 with
    | 0x00 => fieldAt t.hotUnit.toNat 16 + t.hotTemp.toNat
    | 0x04 => t.ring.ctl
    | 0x08 => t.ring.prod.toNat
    | 0x10 => t.ring.base.toNat
    | _ => 0

/-- The value of a function's run-state registers (16 R476, R479). -/
def State.readFnReg (s : State) (off : Nat) : Nat :=
  let f := (off - 0x3000) / 0x10
  match off % 0x10 with
  | 0x0 => (s.mf.fn f).1 + fieldAt (s.mf.fn f).2.toNat 2
  | 0x8 => (FMap.getD s.mf.pendbase f 0).toNat
  | _ => 0

/-- A register of the management function (16 R476). -/
def State.readMf (s : State) (off : Nat) : Nat :=
  let m := s.mf
  if recoveryBase ≤ off then bytesAt m.recovery (off - recoveryBase) 4
  else if 0x4_8000 ≤ off then 0
  else if 0x4_0000 ≤ off then (FMap.getD (s.part ((off - 0x4_0000) / 0x800)).hljob ((off % 0x800) / 8) 0).toNat
  else if 0x2_4000 ≤ off then 0
  else if 0x2_0000 ≤ off then (FMap.getD m.routes ((off - 0x2_0000) / 2) 0).toNat
  else if 0x1_4000 ≤ off then 0
  else if 0x1_0000 ≤ off then (s.core ((off - 0x1_0000) / 64)).events.read (off % 64)
  else if 0x3110 ≤ off then 0
  else if 0x3000 ≤ off then s.readFnReg off
  else if 0x2480 ≤ off then 0
  else if 0x2000 ≤ off then s.readUnitReg off
  else if 0x1400 ≤ off then 0
  else if 0x1000 ≤ off then s.readPartReg off
  else if 0x800 ≤ off then 0
  else if 0x400 ≤ off then bytesAt m.attbuf (off - 0x400) 4
  else if 0x100 ≤ off && off < 0x120 then bytesAt m.attnonce (off - 0x100) 4
  else if 0x80 ≤ off && off < 0xA0 then m.fq.read (off - 0x80)
  else
    match off with
    | 0x00 => m.fwstat.toNat
    | 0x08 => Config.harvest.toNat
    | 0x0C => m.retire.toNat
    | 0x10 => m.plim.toNat
    | 0x14 => m.didt.toNat
    | 0x18 => m.pwrnow.toNat
    | 0x20 => Config.tlim.toNat
    | 0x24 => Config.ttrip.toNat
    | 0x28 => Config.tcrit.toNat
    | 0x30 => m.remapbase.toNat
    | 0x38 => m.irqdrop
    | 0x3C => m.irqstale
    | 0x40 => m.s2va.toNat
    | 0x4C => m.s2Busy.isSome.toNat
    | 0x124 => m.attready.toNat
    | _ => 0

/-- The value of the register at an offset, of 4 or 8 bytes. -/
def State.readReg (s : State) (fn off : Nat) : Nat := if fn == 0 then s.readMf off else (s.part (fn - 1)).read off

/-- The queue of the fault registers of a function. -/
def queueOfFn (fn : Nat) : Nat := if fn == 0 then 16 else fn - 1

/-- What a read clears (00 R7): the RS fields of a register, which return to their reset values. -/
def State.clearRs (s : State) (fn off : Nat) : State :=
  let mf (f : Mf → Mf) : State := { s with mf := f s.mf }
  match if fn == 0 then none else regIndex 0x104 8 8 off, if fn == 0 then none else regIndex 0x1004 8 64 off,
      if fn == 0 then regIndex 0x2004 0x10 32 off else none with
  | some i, _, _ => s.modPart (fn - 1) fun p => { p with aqis := FMap.set p.aqis i { p.aqi i with badw := 0, acc := 0 } }
  | _, some q, _ => s.modPart (fn - 1) fun p => { p with queues := FMap.set p.queues q { p.queue q with drop := 0 } }
  | _, _, some c => s.modCluster c fun k => { k with ign := 0 }
  | none, none, none =>
    match off with
    | 0x98 => s.modQueue (queueOfFn fn) fun q => { q with badrep := 0, fullstall := 0 }
    | 0x9C => s.modQueue (queueOfFn fn) fun q => { q with fdrop := 0 }
    | 0x38 => if fn == 0 then mf fun m => { m with irqdrop := 0 } else s
    | 0x3C => if fn == 0 then mf fun m => { m with irqstale := 0 } else s
    | _ => s

/-- Whether a function answers at an offset: in recovery mode only FWSTAT, FWLOAD and the recovery window do (16 R484). -/
def State.answersAt (s : State) (fn off : Nat) : Bool :=
  s.functionOn fn || (fn == 0 && (decide (off < 8) || decide (recoveryBase ≤ off)))

/-- The bytes that a read of a register gives: 8 at the start of a register of 8 bytes, and 4 elsewhere. -/
def State.regBytes (s : State) (fn off : Nat) : List Byte :=
  if reg8 fn off then bytesOf 8 (s.readReg fn off)
  else if off % 8 == 4 && reg8 fn (off - 4) then bytesOf 4 (s.readReg fn (off - 4) / 2 ^ 32)
  else bytesOf 4 (s.readReg fn off)

/-- RS_REGISTER_READ (00 R7, 16 R475, R476): a read of a register returns its value, and clears its RS fields. -/
def execRsRegisterRead (fn offset : Nat) (s : State) : Answer State :=
  .next (if !s.answersAt fn offset then s
    else { s.clearRs fn offset with hostRead := s.regBytes fn offset })

/-! Writing. -/

/-- An address of 4 KiB alignment in a register. -/
def pageBase (v : Dword) : Dword := v &&& ~~~(0xFFF : Dword)

/-- A write of a ring's control register: a change of its size while it is enabled, or to a size out of range, is ignored
(15 R460, 16 R489). -/
def Ring.writeCtl (r : Ring) (v : BitVec 32) : Ring :=
  let n := (v.extractLsb' 0 5).toNat
  { r with ena := v.getLsbD 7, log := if !r.ena && decide (4 ≤ n) && decide (n ≤ 16) then n else r.log }

/-- A write of a ring's base while it is not enabled (15 R460, 16 R489). -/
def Ring.writeBase (r : Ring) (v : Dword) : Ring := if r.ena then r else { r with base := pageBase v }

/-- A write of FQCTL (01 R42). -/
def FaultQueue.writeCtl (q : FaultQueue) (v : BitVec 32) : FaultQueue :=
  let n := (v.extractLsb' 0 5).toNat
  { q with ena := v.getLsbD 7, log := if !q.ena && decide (6 ≤ n) && decide (n ≤ 16) then n else q.log }

/-- A write of FQREPLY (01 R42): an action that is neither RETRY nor FATAL is ignored and counted. -/
def State.writeReply (s : State) (queue : Nat) (v : BitVec 32) : State :=
  match (v.extractLsb' 16 2).toNat with
  | 0 => s.reply queue (v.extractLsb' 0 16) false
  | 1 => s.reply queue (v.extractLsb' 0 16) true
  | _ => s.modQueue queue fun q => { q with badrep := satAdd 0xFFFF q.badrep 1 }

/-- A write of FQCONS (01 R42, R44). -/
def State.writeCons (s : State) (queue : Nat) (v : BitVec 17) : State :=
  s.modQueue queue fun q => { q with cons := v, armed := q.armed || ({ q with cons := v }).held == 0 }

/-- A write of a 4-byte register of a fault queue, by its offset in the set. -/
def State.writeFq (s : State) (queue off : Nat) (v : BitVec 32) : State :=
  match off with
  | 0x08 => s.modQueue queue fun q => q.writeCtl v
  | 0x10 => s.writeCons queue (v.setWidth 17)
  | 0x14 => s.writeReply queue v
  | _ => s

/-- A write of a fault queue's base while it is not enabled. -/
def FaultQueue.writeBase (q : FaultQueue) (v : Dword) : FaultQueue := if q.ena then q else { q with base := pageBase v }

/-- A context command (16 R465). -/
def State.writeCtxcmd (s : State) (part : Nat) (v : BitVec 32) : State :=
  match (v.extractLsb' 0 4).toNat with
  | 1 => s.ctxCreate part
  | 2 => s.ctxDestroy part
  | 3 => s.ctxResume part
  | _ => s

/-- A write of TLBCMD (16 R477). -/
def State.writeTlbcmd (s : State) (part : Nat) (v : BitVec 32) : State :=
  let ctx := (v.extractLsb' 0 12).toNat
  match (v.extractLsb' 16 2).toNat with
  | 0 => s.tlbCommand part ctx fun s => s.dropPage1 (ctxKey part ctx) (s.part part).tlbva
  | 1 => s.tlbCommand part ctx fun s => s.dropCtx1 (ctxKey part ctx)
  | 2 => s.tlbCommand part ctx fun s => s.reloadRanges (ctxKey part ctx)
  | _ => s

/-- A write of PRECTL (14 R435): a timeout out of range is ignored. (DEDUCED, notes/assumptions/116.md.) -/
def Part.writePrectl (p : Part) (v : BitVec 32) : Part :=
  let t := (v.extractLsb' 12 10).toNat
  if t == 0 || decide (1000 < t) then p else { p with tout := t, tslice := (v.extractLsb' 0 12).toNat }

/-- A write of AQICTL (16 R472, R482). -/
def Part.writeAqi (p : Part) (i : Nat) (v : BitVec 32) : Part :=
  let a := { p.aqi i with ena := v.getLsbD 31, queue := (v.extractLsb' 24 6).toNat, pasid := v.extractLsb' 0 20 }
  { p with aqis := FMap.set p.aqis i a, aqiEver := p.aqiEver || a.ena }

/-- A write of QCFG (14 R415). -/
def Part.writeQcfg (p : Part) (q : Nat) (v : BitVec 32) : Part :=
  { p with queues := FMap.set p.queues q { p.queue q with
      ena := v.getLsbD 31, prio := (v.extractLsb' 24 3).toNat, ctx := (v.extractLsb' 0 12).toNat } }

/-- A write of a 4-byte register of a partition function (16 R475). -/
def State.writePf (s : State) (part off : Nat) (v : BitVec 32) : State :=
  if 0x80 ≤ off && off < 0xA0 then s.writeFq part (off - 0x80) v
  else
    match regIndex 0x100 8 8 off, regIndex 0x1000 8 64 off with
    | some i, _ => s.modPart part fun p => p.writeAqi i v
    | _, some q => s.modPart part fun p => p.writeQcfg q v
    | _, _ =>
      match off with
      | 0x18 => s.writeCtxcmd part v
      | 0x34 => s.modPart part fun p => p.writePrectl v
      | 0x38 =>
        let key := ctxKey part (v.extractLsb' 0 12).toNat
        if v.extractLsb' 12 20 != 0 || !FMap.has s.ctxs key then s else s.preemptCtx key
      | 0x48 => s.writeTlbcmd part v
      | 0xC8 => s.modPart part fun p => { p with faultLog := p.faultLog.writeCtl v }
      | _ => s

/-- A write of an 8-byte register of a partition function (16 R475). -/
def State.writePf8 (s : State) (part off : Nat) (v : Dword) : State :=
  match off with
  | 0x08 => s.writeFeatack part v
  | 0x10 => s.modPart part fun p => { p with ctxarg := v }
  | 0x20 => s.modPart part fun p => { p with jobbase := v &&& ~~~(0x3F : Dword) }
  | 0x28 => s.startPlrel part v
  | 0x40 => s.modPart part fun p => { p with tlbva := pageBase v }
  | 0x80 => s.modQueue part fun q => q.writeBase v
  | 0xC0 => s.modPart part fun p => { p with faultLog := p.faultLog.writeBase v }
  | _ => s

/-- A write of S2CMD (16 R477). -/
def State.writeS2cmd (s : State) (v : BitVec 32) : Answer State :=
  let part := (v.extractLsb' 0 4).toNat
  match (v.extractLsb' 16 2).toNat with
  | 0 => s.s2Page part
  | 1 => s.s2All part
  | 2 => s.s2Range part
  | _ => .next s

/-- A write of a register of the partition set (16 R463, R464, R476). (DEDUCED, notes/assumptions/116.md.) -/
def State.writePartReg (s : State) (off : Nat) (v : BitVec 32) : Answer State :=
  let part := (off - 0x1000) / 0x40
  let x := (off - 0x1000) % 0x40
  if x < 0x20 then .next (s.writePmap part x (v.setWidth 8))
  else
    match x with
    | 0x20 => s.writePcfg part v
    | 0x24 => .next (if v.getLsbD 30 then s.modPart part fun p => { p with badmap := false } else s)
    | _ => .next s

/-- Write bytes of a register kept as bytes. -/
def putBytes (m : FMap Byte) (at' : Nat) (l : List Byte) : FMap Byte :=
  ((List.range l.length).zip l).foldl (fun m b => FMap.set m (at' + b.1) b.2) m

/-- A write of a 4-byte register of the management function (16 R476). -/
def State.writeMf (s : State) (off : Nat) (v : BitVec 32) : Answer State :=
  let mf (f : Mf → Mf) : Answer State := .next { s with mf := f s.mf }
  let n := v.toNat
  if recoveryBase ≤ off then
    mf fun m => { m with recovery := putBytes m.recovery (off - recoveryBase) (bytesOf 4 n) }
  else if 0x2_0000 ≤ off && off < 0x2_4000 then mf fun m => { m with routes := FMap.set m.routes ((off - 0x2_0000) / 2) (v.setWidth 16) }
  else if 0x2400 ≤ off && off < 0x2480 then
    .next (if off % 0x20 == 4 then s.modDie ((off - 0x2400) / 0x20) fun d => { d with tel := { d.tel with ring := d.tel.ring.writeCtl v } }
      else s)
  else if 0x1000 ≤ off && off < 0x1400 then s.writePartReg off v
  else if 0x3000 ≤ off && off < 0x3110 then (if off % 0x10 == 0 then s.writeFstate ((off - 0x3000) / 0x10) v else .next s)
  else if 0x80 ≤ off && off < 0xA0 then .next (s.writeFq 16 (off - 0x80) v)
  else if 0x100 ≤ off && off < 0x120 then mf fun m => { m with attnonce := putBytes m.attnonce (off - 0x100) (bytesOf 4 n) }
  else
    match off with
    | 0x04 => if n == 1 then execFwload s else .next s
    | 0x10 => mf fun m => if 600 ≤ n % 4096 && n % 4096 ≤ 2800 then { m with plim := v.setWidth 12 } else m
    | 0x14 => mf fun m => if 20 ≤ n % 2048 && n % 2048 ≤ 2000 then { m with didt := v.setWidth 11 } else m
    | 0x48 => s.writeS2cmd v
    | 0x120 => if n == 1 then execAttgo s else mf fun m => { m with attready := false }
    | 0x1400 => .next (s.startPmove v)
    | _ => .next s

/-- A write of an 8-byte register of the management function (16 R476). -/
def State.writeMf8 (s : State) (off : Nat) (v : Dword) : State :=
  let mf (f : Mf → Mf) : State := { s with mf := f s.mf }
  match regIndex 0x1028 0x40 16 off, regIndex 0x2410 0x20 4 off, regIndex 0x3008 0x10 17 off with
  | some p, _, _ => s.modPart p fun p => if p.ena then p else { p with pdesc := pageBase v }
  | _, some d, _ => s.modDie d fun k => { k with tel := { k.tel with ring := k.tel.ring.writeBase v } }
  | _, _, some f => mf fun m => { m with pendbase := FMap.set m.pendbase f (pageBase v) }
  | _, _, _ =>
    if 0x4_0000 ≤ off && off < 0x4_8000 then
      s.modPart ((off - 0x4_0000) / 0x800) fun p =>
        { p with hljob := FMap.set p.hljob ((off % 0x800) / 8) (v &&& 0x8000_FFFF_0000_0FFF) }
    else
      match off with
      | 0x30 => mf fun m => { m with remapbase := pageBase v }
      | 0x40 => mf fun m => { m with s2va := pageBase (v &&& 0xF_FFFF_FFFF_FFFF) }
      | 0x80 => s.modQueue 16 fun q => q.writeBase v
      | _ => s

/-- A write of an 8-byte register of a function. (DEDUCED, notes/assumptions/115.md.) -/
def State.writeReg8 (s : State) (fn off : Nat) (v : Dword) : State := if fn == 0 then s.writeMf8 off v else s.writePf8 (fn - 1) off v

/-- A write of a 4-byte register of a function. (DEDUCED, notes/assumptions/115.md.) -/
def State.writeReg4 (s : State) (fn off : Nat) (v : BitVec 32) : Answer State :=
  if fn == 0 then s.writeMf off v else .next (s.writePf (fn - 1) off v)

/-- The first half of a write of an 8-byte register, kept until the second (16 R475). -/
def halfKey (fn off : Nat) : Nat := fn * 2 ^ 32 + off

/-- REGISTER_WRITE (00 R7, R8; 16 R475, R476): a write of 4 or 8 bytes to a register. An 8-byte register takes effect when its
high half is written. -/
def execRegisterWrite (fn offset : Nat) (wide : Bool) (value : BitVec 64) (s : State) : Answer State :=
  let lo : BitVec 32 := value.extractLsb' 0 32
  if !s.answersAt fn offset || decide (16 < fn) then .next s
  else if wide then
    if reg8 fn offset then .next (s.writeReg8 fn offset value)
    else if fn == 0 && (decide (recoveryBase ≤ offset) || (decide (0x100 ≤ offset) && decide (offset < 0x120))) then
      match s.writeReg4 fn offset lo with
      | .next t => t.writeReg4 fn (offset + 4) (value.extractLsb' 32 32)
      | r => r
    else .next s
  else if reg8 fn offset then .next { s with halves := FMap.set s.halves (halfKey fn offset) lo }
  else if offset % 8 == 4 && reg8 fn (offset - 4) then
    let low := FMap.getD s.halves (halfKey fn (offset - 4)) 0
    .next (({ s with halves := FMap.erase s.halves (halfKey fn (offset - 4)) }).writeReg8 fn (offset - 4) (lo ++ low))
  else s.writeReg4 fn offset lo

end Sys2Proof.Machine
end

