-- ==== Sys2Proof/Machine/Wake.lean ====
section
/-!
DEFINITION. What a step settles after its instruction or event: the waits that have ended (05 R170), the traps that had to wait
(05 R186, R505; 15 R444), and the standing duties of the device's units: nodes whose launch has ended (14 R424), stalls of fault
rings (01 R42), slices (14 R435), host invalidations (16 R477), moves of clusters (16 R467) and targets in mailboxes (15 R440).
-/
namespace Sys2Proof.Machine

/-! Waits. -/

/-- Whether a waiting fragment's folio, word, counter or ring lets it end; trying costs nothing where it does not. -/
def State.tryWait (s : State) (i : Iss) : State :=
  match i.f.wait with
  | .wcnt cls n => s.tryCount i cls n
  | .folioState h d l => s.tryState i h d l
  | .folioWord h off v d l => s.tryWord i h off v d l (some (s.met.contains (i.c, i.wi, i.fi)))
  | .capacity b d l => s.tryCapacity i b d l
  | .grget rec d =>
    match FMap.get i.core.gath rec with
    | some g => if i.core.ringGone g then s.ringLost i g else s.tryGet i rec d
    | none => s.tryGet i rec d
  | .grputRes rec d =>
    match FMap.get i.core.gath rec with
    | some g => if i.core.ringGone g then s.ringLost i g else s.tryReserve i rec d
    | none => s.tryReserve i rec d
  | _ => s

/-- The waits of settle's care. -/
def Wait.watched : Wait → Bool
  | .wcnt _ _ | .folioState _ _ _ | .folioWord _ _ _ _ _ | .capacity _ _ _ | .grget _ _ | .grputRes _ _ => true
  | _ => false

/-- Try the wait of a fragment. -/
def State.wakeFrag (s : State) (c w f : Nat) : State :=
  match s.issAt c w f with
  | none => s
  | some i => if i.f.state == .waiting && i.f.wait.watched && s.mayWake c w then s.tryWait i else s

/-- Try the waits of a warp's fragments, and its collectives (05 R186, R192). -/
def State.wakeWarp (s : State) (c w : Nat) : State :=
  let s := (((s.warp c w).map fun x => FMap.keys x.frags).getD []).foldl (fun s f => s.wakeFrag c w f) s
  match s.warp c w with
  | none => s
  | some x => if x.frags.any fun f => f.2.state == .waiting then s.setWarp c w x.wakeCollectives else s

/-! Traps that had to wait. -/

/-- Take a fragment off the faults and walks it is parked on (05 R505, 01 R48). -/
def State.detachFrag (s : State) (c w f : Nat) : State :=
  let keep (l : List Waiter) : List Waiter := l.filter fun x => match x.who with
    | .frag c' w' f' _ => !(c' == c && w' == w && f' == f)
    | _ => true
  let s := s.modFrag c w f fun q => { q with notes := q.notes.filter fun n => n.fid.isNone }
  { s with dies := FMap.mapV s.dies fun _ d => { d with
      walks := FMap.mapV d.walks fun _ x => { x with waiters := keep x.waiters }
      missq := d.missq.map fun x => { x with waiters := keep x.waiters }
      pending := FMap.mapV d.pending fun _ p => { p with walk := { p.walk with waiters := keep p.walk.waiters } } } }

/-- Withdraw the arrival of lanes at a barrier (05 R505). -/
def Wg.withdraw (g : Wg) (b warp : Nat) (m : Mask) : Wg :=
  let bar := g.bar b
  let left := FMap.getD bar.mask warp 0 &&& ~~~m
  { g with bars := FMap.set g.bars b { bar with
      arr := bar.arr.filter fun x => x != warp
      mask := if left == 0 then FMap.erase bar.mask warp else FMap.set bar.mask warp left } }

/-- The target of a LOCK_TIMEOUT or WATCHDOG stops where it is: its wait ends with nothing performed (05 R505).
(DEDUCED, notes/assumptions/118.md.) -/
def State.stopTarget (s : State) (c w fi : Nat) (x : Warp) (f : Frag) : State :=
  let ready (s : State) : State := s.modFrag c w fi fun q => { q with state := .ready, wait := .none, age := 0 }
  match f.state, f.wait with
  | .parked, _ => ready ((s.detachFrag c w fi).modFrag c w fi fun q => { q with fids := [], ptrap := 0 })
  | .waiting, .record =>
    match f.rcd with
    | some r => ready (s.modWarp c w fun x => { x with recs := FMap.modify x.recs r fun q => { q with arrive := q.arrive &&& ~~~f.mask } })
    | none => ready s
  | .waiting, .bar b => ready (s.modCore c fun k => k.modWg x.wg fun g => g.withdraw b x.index f.mask)
  | _, _ => ready s

/-- Take a trap that arises from no instruction (05 R505). (DEDUCED, notes/assumptions/118.md.) -/
def State.asyncTrap (s : State) (c w fi : Nat) (cause : BitVec 8) (i0 i1 : Word) : State :=
  match s.warp c w, s.frag c w fi with
  | some x, some f =>
    (s.stopTarget c w fi x f).takeTrap c w fi
      { cause := cause, sub := 0, pc := f.pc, mask := f.mask, info0 := i0, info1 := i1, folio := none }
  | _, _ => s

/-- The LOCK_TIMEOUT of a warp, once no speculation record is in use (03 R104, 05 R505). -/
def State.takeLockOut (s : State) (c w : Nat) : State :=
  match s.warp c w with
  | none => s
  | some x =>
    match x.lockOut with
    | none => s
    | some (key, lane, held) =>
      if !x.spec.isEmpty || !s.mayWake c w then s
      else
        let s := s.modWarp c w fun x => { x with lockOut := none }
        match x.frags.find? fun f => f.2.mask.getLsbD lane with
        | none => s
        | some f => s.asyncTrap c w f.1 Cause.lockTimeout (BitVec.ofNat 32 (256 * (key / 64) + key % 64)) (BitVec.ofNat 32 held)

/-- The WATCHDOG of a warp, once no speculation record is in use and the warp is out of trap mode (05 R505, 14 R436). -/
def State.takeWatchdog (s : State) (c w : Nat) : State :=
  match s.warp c w with
  | none => s
  | some x =>
    if !x.watchdog || !x.spec.isEmpty || x.trap.mode || !s.mayWake c w then s
    else
      let s := s.modWarp c w fun x => { x with watchdog := false }
      match x.frags.head? with
      | none => s
      | some f =>
        s.asyncTrap c w f.1 Cause.watchdog (BitVec.ofNat 32 (((s.wgOf c w).map fun g => g.launch % 2 ^ 32).getD 0)) 0

/-- The traps that waited for a relock or a voltage move are entered after it, in the order they arose (15 R444). -/
def State.takeDeferred (s : State) (c w : Nat) : State :=
  match s.warp c w with
  | none => s
  | some x =>
    if x.deferred.isEmpty || (s.cluster (clusterOf c)).moving || !s.mayWake c w then s
    else x.deferred.foldl (fun s p => s.takeTrap c w p.1 p.2) (s.setWarp c w { x with deferred := [] })

/-- The recorded trap of a parked fragment is taken when its turn comes after the handler (05 R186, R188). -/
def State.takeOwed (s : State) (c w : Nat) : State :=
  match s.warp c w with
  | none => s
  | some x =>
    match x.owed.bind fun fi => (FMap.get x.frags fi).map fun f => (fi, f) with
    | none => s
    | some (fi, f) =>
      match if f.allAnswered && s.mayWake c w then f.fatalReq else none with
      | none => s
      | some t => (s.modFrag c w fi fun q => { q with ptrap := 0 }).takeTrap c w fi t

/-- What a warp's turn to settle is. -/
def State.settleWarp (s : State) (c w : Nat) : State :=
  (((((s.applyClosing c w).wakeWarp c w).takeDeferred c w).takeOwed c w).takeLockOut c w).takeWatchdog c w

/-! Physical vector registers. -/

/-- The vector names of a core that hold a register: the warp's number, and n in the ordinary bank, 64 + n in the trap bank,
128 + 64 r + n in the shadow of record r, and those of exited warps in DRAIN (05 R175, R178, 06 R214). -/
def Core.namesHeld (k : Core) : List (Nat × Nat) :=
  (k.warps.flatMap fun w =>
    (FMap.keys w.2.v).map (fun n => (w.2.uid, n)) ++ (FMap.keys w.2.vTrap).map (fun n => (w.2.uid, 64 + n)) ++
      (w.2.spec.flatMap fun r => (FMap.keys r.2.shadows).map fun n => (w.2.uid, 128 + 64 * r.1 + n))) ++ k.drain.eraseDups

/-- Allocate a register to a name: the lowest bank's first free one, of the speculation pool for a shadow (05 R175).
(DESIGN CHOICE, notes/assumptions/139.md.) -/
def Core.takeReg (k : Core) (name : Nat × Nat) : Core :=
  let pool := if name.2 < 128 then List.range Config.archRegs
    else (List.range Config.specPool).map (Config.archRegs + ·)
  match pool.find? fun n => !FMap.has k.phys n with
  | none => k
  | some n => { k with phys := FMap.set k.phys n name }

/-- The registers of the names that a step freed return to the pool, and those it wrote first are allocated (05 R175, R176). -/
def Core.settleRegs (k : Core) : Core :=
  let names := k.namesHeld
  let k := { k with phys := k.phys.filter fun p => names.contains p.2 }
  (names.filter fun x => !k.phys.any fun p => p.2 == x).foldl Core.takeReg k

/-- Whether a bank of 128 registers is power-gated: it holds no allocated one (05 R175). -/
def Core.bankGated (k : Core) (bank : Nat) : Bool := !(k.phys.any fun p => p.1 / 128 == bank)

/-! The device's units. -/

/-- The wait for budget of an mmac whose warp has left ends (12 R369). -/
def State.settleGovern (s : State) (c : Nat) : State :=
  match (s.core c).matrix.waitSince with
  | none => s
  | some (uid, _) => if (s.core c).warps.any fun w => w.2.uid == uid then s else s.endGovern c uid

/-- Settle a core. -/
def State.settleCore (s : State) (c : Nat) : State :=
  ((FMap.keys (s.core c).warps).foldl (fun s w => s.settleWarp c w) (s.settleGovern c)).modCore c Core.settleRegs

/-- What the writes of a step made differ is kept for the waits that could not end yet (17 R495). -/
def State.forgetMet (s : State) : State :=
  { s with met := s.met.filter fun x => ((s.warp x.1 x.2.1).bind fun w => FMap.get w.frags x.2.2).any fun f => match f.wait with
      | .folioWord _ _ _ _ _ => f.state == .waiting
      | _ => false }

/-- Kill the contexts whose sewn data a deferred write found broken (02 R93). -/
def State.killDoomed (s : State) : State :=
  s.doomed.eraseDups.foldl (fun s c => s.killContext c 0 0x7F 3 0 0 0) { s with doomed := [] }

/-- Watch the fault rings (01 R42). -/
def State.watchQueues (s : State) : State :=
  let waiting (q : Nat) : Bool := s.records.any fun r => r.queue == q
  { s with
    parts := FMap.mapV s.parts fun n p => { p with fq := p.fq.watch (waiting n) s.refTime }
    mf := { s.mf with fq := s.mf.fq.watch (waiting 16) s.refTime } }

/-- Settle a partition. -/
def State.settlePart (s : State) (part : Nat) : State := ((s.serve part).finishPmove part).finishPlrel part

/-- Settle the package after a step from an older state. -/
def State.settle (s old : State) : State :=
  let s := s.killDoomed
  let s := (FMap.keys s.cores).foldl (fun s c => s.settleCore c) s
  let s := s.forgetMet
  let s := (s.retryWrites.closeNodes.watchQueues).endInvalidations
  let s := (FMap.keys s.parts).foldl (fun s p => s.settlePart p) s
  let s := (FMap.keys s.clusters).foldl State.tryMove s
  serveBallast old s

end Sys2Proof.Machine
end

