-- ==== Sys2Proof/Machine/Agenda.lean ====
section
/-!
DEFINITION. What may happen next (notes/assumptions/3.md): the issue that the arbiters of the cores choose (05 R199, 14 R432), and
the turns that are neither an issue nor an event.
-/
namespace Sys2Proof.Machine

/-- Land the oldest outstanding k-register write of a warp (05 R173): in a speculative fragment, in the shadow of its
innermost record (06 R217). -/
def State.land (s : State) (c w : Nat) : State :=
  s.modWarp c w fun x =>
    match x.kpend with
    | [] => x
    | p :: rest =>
      let x := { x with kpend := rest }
      match p.record with
      | some r => { x with spec := FMap.modify x.spec r fun sr => sr.putKShadow p.k p.lanes p.bits }
      | none => { x with k := FMap.set x.k p.k ((FMap.getD x.k p.k 0 &&& ~~~p.lanes) ||| (p.bits &&& p.lanes)) }

/-- Land an outstanding v-register write of a warp (05 R180): in the shadow of its record while that is in use (06 R214), else in the
register, where it still has one. -/
def State.landV (s : State) (c w n : Nat) : State :=
  s.modWarp c w fun x =>
    match x.vpend[n]? with
    | none => x
    | some p =>
      let x := { x with vpend := x.vpend.eraseIdx n }
      match p.record with
      | some r => { x with spec := FMap.modify x.spec r fun sr => sr.putShadow p.name p.lanes p.val }
      | none =>
        if p.name < 64 then { x with v := FMap.modify x.v p.name fun q => q.write p.lanes p.val }
        else { x with vTrap := FMap.modify x.vTrap (p.name - 64) fun q => q.write p.lanes p.val }

/-- The candidates of an issue slot of a core: warp, fragment, priority of its launch, and its age (14 R432). -/
def State.candidates (s : State) (c slot : Nat) : List (Nat × Nat × Nat × Nat) :=
  (s.core c).warps.flatMap fun w =>
    if w.1 % 4 != slot then []
    else
      (w.2.frags.filter fun f => s.mayIssue c w.1 f.1).map fun f =>
        (w.1, f.1, (((FMap.get (s.core c).wgs w.2.wg).map (·.prio)).getD 0), f.2.age)

/-- The candidate an issue slot chooses: one of 64 slot cycles or more by age, else by priority and then age
(05 R199, 14 R432). -/
def chooseIssue (l : List (Nat × Nat × Nat × Nat)) : Option (Nat × Nat) :=
  let better (a b : Nat × Nat × Nat × Nat) : Bool :=
    let old (x : Nat × Nat × Nat × Nat) : Nat := if 64 ≤ x.2.2.2 then x.2.2.2 else 0
    decide (old b < old a) || (old a == old b &&
      (decide (b.2.2.1 < a.2.2.1) || (a.2.2.1 == b.2.2.1 && decide (b.2.2.2 < a.2.2.2))))
  match l with
  | [] => none
  | x :: r =>
    let b := r.foldl (fun a y => if better y a then y else a) x
    some (b.1, b.2.1)

/-- The fragment that an issue slot of a core chooses; the choice of ISSUE_AGE_EXPIRY stands (05 R199, 14 R432). -/
def State.slotChoice (s : State) (c slot : Nat) : Option (Nat × Nat) :=
  let l := s.candidates c slot
  match FMap.get (s.core c).urgent slot with
  | some p => if l.any fun x => x.1 == p.1 && x.2.1 == p.2 then some p else chooseIssue l
  | none => chooseIssue l

/-- Whether an issue slot may choose a fragment: its own choice, or one of equal standing, as the spec orders none of those
(05 R199, 14 R432). -/
def State.mayChoose (s : State) (c w f : Nat) : Bool :=
  let l := s.candidates c (w % 4)
  let mark (p : Nat × Nat) : Option (Nat × Nat) := (l.find? fun x => x.1 == p.1 && x.2.1 == p.2).map (·.2.2)
  match s.slotChoice c (w % 4) with
  | none => true
  | some p => p == (w, f) || ((FMap.get (s.core c).urgent (w % 4)).isNone && mark p == mark (w, f))

/-- The next issue by the arbiters of the cores: the issue slots of the package take turns, from the one after the last that
issued. (DESIGN CHOICE, notes/assumptions/3.md, 23.md) -/
def State.nextIssue (s : State) : Option Turn :=
  let slots := (FMap.keys s.cores).flatMap fun c => (List.range 4).map fun slot => 4 * c + slot
  let from' := (slots.filter fun n => decide (s.lastSlot < n)) ++ slots.filter fun n => decide (n ≤ s.lastSlot)
  from'.findSome? fun n => (s.slotChoice (n / 4) (n % 4)).map fun p => .issue (n / 4) p.1 p.2 false

/-- Age the fragments of an issue slot that were ready and not chosen; the wait of the chosen one starts anew, so that one that
stalls keeps no other from its turn (05 R199, 14 R432). (DEDUCED, notes/assumptions/136.md.) -/
def State.ageSlot (s : State) (c w f : Nat) : State :=
  let l := s.candidates c (w % 4)
  let s := { s.modCore c fun k => { k with urgent := FMap.erase k.urgent (w % 4) } with lastSlot := 4 * c + w % 4 }
  l.foldl (fun s x =>
    s.modFrag c x.1 x.2.1 fun q => { q with age := if x.1 == w && x.2.1 == f then 0 else q.age + 1 }) s

/-- An uncorrectable error in a word of the scratchpad: one in a free unit is counted (02 R93).
(DEDUCED, notes/assumptions/44.md.) -/
def State.padError (s : State) (c word : Nat) : State :=
  let s := s.modCore c fun k => { k with padBad := if k.padBad.contains word then k.padBad else word :: k.padBad }
  if (s.core c).holders.any fun p => decide (64 * p.2.start ≤ word) && decide (word < 64 * (p.2.start + p.2.size)) then s
  else s.modDie (dieOf c) fun k => { k with errs := k.errs + 1 }

/-- A turn that is neither an issue nor an event. (DESIGN CHOICE, notes/assumptions/49.md.) -/
def State.other (s : State) : Turn → State
  | .tick ns => s.tick ns
  | .land c w => s.clocked c (s.land c w)
  | .landV c w n => s.clocked c (s.landV c w n)
  | .drained c n => s.clocked c (s.modCore c fun k => { k with drain := k.drain.eraseIdx n })
  | .evictData c line => s.cdcDrop c line
  | .evictCode c line => s.modCore c fun k => { k with icache := FMap.erase k.icache line, badLines := FMap.erase k.badLines line }
  | .writeBack slice line => s.writeBackLine slice line
  | .snoop line => s.snoopLine line
  | .answer c line => s.clocked c (s.lineAnswer c line)
  | .flit link f => s.receiveFlit link f
  | .evictTlb stage owner page =>
    if stage == 1 then { s with tlb1 := s.tlb1.filter fun t => !(t.owner == owner && t.page == page) }
    else { s with tlb2 := s.tlb2.filter fun t => !(t.owner == owner && t.page == page) }
  | .poison line => { s with poison := if s.poison.contains line then s.poison else line :: s.poison }
  | .padError c word => s.padError c word
  | .registerError c w =>
    match s.wgOf c w with
    | some g => s.killContext g.ctx (g.launch % 2 ^ 32) 0x7F 3 0 0 0
    | none => s
  | .tileError c g =>
    match FMap.get (s.core c).wgs g with
    | some g => s.killContext g.ctx (g.launch % 2 ^ 32) 0x7F 3 0 0 0
    | none => s
  | .corrected d => s.modDie d fun k => { k with errs := k.errs + 1 }
  | .retire c => s.retire c
  | .issue _ _ _ _ => s
  | .event _ => s

end Sys2Proof.Machine
end

