-- ==== Sys2Proof/Machine/IntLib.lean ====
section
/-!
DEFINITION. The integer operations on bit patterns, shared by the scalar and the vector instructions (08 R260, R265,
R269 to R280).
-/
namespace Sys2Proof.Machine

/-- An exact result, wrapped or saturated; V tells that it lies outside the type (08 R265, R268). -/
def aluExact (t : Ty) (sat c : Bool) (x : Int) : Alu := { r := t.result sat x, c := c, v := !t.holds x }

/-- A result that sets neither C nor V. -/
def aluPlain (t : Ty) (x : Int) : Alu := { r := t.wrap x, c := false, v := false }

/-- The low n bits of a pattern (08 R260). -/
def uOf (t : Ty) (x : Dword) : Nat := t.low x.toNat
/-- The value of a pattern in a type (08 R260). -/
def valOf (t : Ty) (x : Dword) : Int := t.val x.toNat
/-- CNT: the count of a 32-bit source (08 R260). -/
def cntOf (t : Ty) (b : Dword) : Nat := b.toNat % 2 ^ 32 % t.width

/-- a + b (08 R269). -/
def aluAdd (t : Ty) (sat : Bool) : AluOp := fun a b _ =>
  aluExact t sat (decide (2 ^ t.width ≤ uOf t a + uOf t b)) (valOf t a + valOf t b)
/-- a − b (08 R269). -/
def aluSub (t : Ty) (sat : Bool) : AluOp := fun a b _ =>
  aluExact t sat (decide (uOf t b ≤ uOf t a)) (valOf t a - valOf t b)
/-- a × b (08 R269). -/
def aluMul (t : Ty) (sat : Bool) : AluOp := fun a b _ => aluExact t sat false (valOf t a * valOf t b)
/-- The high half of a × b (08 R269). -/
def aluMulh (t : Ty) : AluOp := fun a b _ => aluPlain t (Int.fdiv (valOf t a * valOf t b) (2 ^ t.width : Nat))
/-- a × b + c (08 R269). -/
def aluMad (t : Ty) (sat : Bool) : AluOp := fun a b c => aluExact t sat false (valOf t a * valOf t b + valOf t c)

/-- Whether a division is one of the two special cases (08 R265, R270). -/
def divCorner (t : Ty) (a b : Int) : Bool := b == 0 || (t.signed && a == t.least && b == -1)
/-- The quotient (08 R270). -/
def aluDiv (t : Ty) : AluOp := fun a b _ =>
  let x := valOf t a
  let y := valOf t b
  { r := t.wrap (if y = 0 then -1 else Int.tdiv x y), c := false, v := divCorner t x y }
/-- The remainder (08 R270). -/
def aluRem (t : Ty) : AluOp := fun a b _ =>
  let x := valOf t a
  let y := valOf t b
  { r := t.wrap (if y = 0 then x else Int.tmod x y), c := false, v := divCorner t x y }

/-- The lesser (08 R271). -/
def aluMin (t : Ty) : AluOp := fun a b _ => aluPlain t (if valOf t a ≤ valOf t b then valOf t a else valOf t b)
/-- The greater (08 R271). -/
def aluMax (t : Ty) : AluOp := fun a b _ => aluPlain t (if valOf t a ≤ valOf t b then valOf t b else valOf t a)
/-- Bitwise and (08 R271). -/
def aluAnd (t : Ty) : AluOp := fun a b _ => aluPlain t (uOf t a &&& uOf t b : Nat)
/-- Bitwise or (08 R271). -/
def aluOr (t : Ty) : AluOp := fun a b _ => aluPlain t (uOf t a ||| uOf t b : Nat)
/-- Bitwise exclusive or (08 R271). -/
def aluXor (t : Ty) : AluOp := fun a b _ => aluPlain t (uOf t a ^^^ uOf t b : Nat)
/-- Shift left: C is the last bit shifted out (08 R265, R271). -/
def aluShl (t : Ty) (sat : Bool) : AluOp := fun a b _ =>
  let n := cntOf t b
  aluExact t sat (n != 0 && (uOf t a).testBit (t.width - n)) (valOf t a * (2 ^ n : Nat))
/-- Logical shift right (08 R265, R271). -/
def aluShr (t : Ty) : AluOp := fun a b _ =>
  let n := cntOf t b
  { r := t.wrap (uOf t a / 2 ^ n : Nat), c := n != 0 && (uOf t a).testBit (n - 1), v := false }
/-- Arithmetic shift right (08 R265, R271). -/
def aluSra (t : Ty) : AluOp := fun a b _ =>
  let n := cntOf t b
  { r := t.wrap (Int.fdiv (toSigned t.width a.toNat) (2 ^ n : Nat)), c := n != 0 && (uOf t a).testBit (n - 1), v := false }

/-- The position of a bit-field operand (08 R272). -/
def fieldPos (b : Dword) : Nat := (b.extractLsb' 0 5).toNat
/-- The length of a bit-field operand, at most 32 (08 R272). -/
def fieldLen (b : Dword) : Nat := Nat.min 32 (b.extractLsb' 8 6).toNat
/-- The mask of a bit field (08 R272). -/
def fieldMask (b : Dword) : Nat := (2 ^ fieldLen b - 1) * 2 ^ fieldPos b % 2 ^ 32
/-- Bit-field extract (08 R272). -/
def aluBfx (t : Ty) : AluOp := fun a b _ =>
  let x := (a.toNat % 2 ^ 32 &&& fieldMask b) / 2 ^ fieldPos b
  aluPlain t (if fieldLen b = 0 then 0 else if t.signed then toSigned (fieldLen b) x else (x : Nat))
/-- Bit-field insert (08 R272). -/
def aluBfi (t : Ty) : AluOp := fun a b c =>
  let m := fieldMask b
  aluPlain t ((c.toNat % 2 ^ 32 &&& (2 ^ 32 - 1 - m)) ||| (a.toNat * 2 ^ fieldPos b &&& m) : Nat)
/-- A count has no sign, and fits whatever the type (08 R272). -/
def aluCount (n : Nat) : Alu := { r := n, c := false, v := false }
/-- Leading zero bits (08 R272). -/
def aluClz (t : Ty) : AluOp := fun a _ _ =>
  let u := uOf t a
  aluCount (if u = 0 then t.width else t.width - 1 - u.log2)
/-- One bits (08 R272). -/
def aluPop (t : Ty) : AluOp := fun a _ _ =>
  aluCount ((List.range t.width).filter fun i => (uOf t a).testBit i).length

/-- Absolute value (08 R275). -/
def aluAbs (t : Ty) (sat : Bool) : AluOp := fun a _ _ => aluExact t sat false (valOf t a).natAbs
/-- Negation (08 R275). -/
def aluNeg (t : Ty) (sat : Bool) : AluOp := fun a _ _ => aluExact t sat false (-valOf t a)
/-- Bitwise complement (08 R275). -/
def aluNot (t : Ty) : AluOp := fun a _ _ => aluPlain t (2 ^ t.width - 1 - uOf t a : Nat)
/-- Rotation left (08 R275). -/
def aluRot (t : Ty) : AluOp := fun a b _ =>
  let n := cntOf t b
  aluPlain t ((uOf t a * 2 ^ n ||| uOf t a / 2 ^ (t.width - n)) % 2 ^ t.width : Nat)
/-- Bit reversal (08 R275). -/
def aluBrev (t : Ty) : AluOp := fun a _ _ =>
  aluPlain t (sumNat ((List.range t.width).map fun i => if (uOf t a).testBit i then 2 ^ (t.width - 1 - i) else 0) : Nat)

/-- An address of slea and vlea: A + (VAL32(B) << shift), modulo 2^64 (08 R274, R280). -/
def leaOf (t : Ty) (shift : Nat) (a b : Dword) : Dword :=
  let x : Dword := if t.signed then (b.setWidth 32 : Word).signExtend 64 else (b.setWidth 32 : Word).setWidth 64
  a + x <<< shift

/-- The shift of slea and vlea, in C (08 R267). -/
def shiftField (c : Operand) : Nat := c.code.toNat % 8

/-- The condition code in C (08 R266). -/
def condField (c : Operand) : Nat := c.code.toNat % 16

/-- A byte of a 32-bit lane, signed or not (08 R279). -/
def byteVal (signed : Bool) (x : Dword) (j : Nat) : Int :=
  let b := bitsAt x.toNat (8 * j) 8
  if signed then toSigned 8 b else (b : Nat)

/-- vdot4: four byte products added to C (08 R279). -/
def aluDot4 (t : Ty) (sat mix : Bool) : AluOp := fun a b c =>
  let sb := t.signed && !mix
  aluExact t sat false ((List.range 4).foldl (fun x j => x + byteVal t.signed a j * byteVal sb b j) (valOf t c))

end Sys2Proof.Machine
end

