-- ==== Sys2Proof/Machine/ScalarInt.lean ====
section
/-!
DEFINITION. The scalar integer instructions, class 0 (08 R268 to R274).
-/
namespace Sys2Proof.Machine

/-- sadd (08 R269): D := A + B. -/
def execSadd (f : RForm) (s : State) : Answer State :=
  .next (s.onCore fun i => i.aluScalar f 2 f.ty.is64 f.ty.is64 f.ty.is64 f.ty.is64 (aluAdd f.ty f.mod.sat))

/-- ssub (08 R269): D := A − B. -/
def execSsub (f : RForm) (s : State) : Answer State :=
  .next (s.onCore fun i => i.aluScalar f 2 f.ty.is64 f.ty.is64 f.ty.is64 f.ty.is64 (aluSub f.ty f.mod.sat))

/-- smul (08 R269): D := A × B. -/
def execSmul (f : RForm) (s : State) : Answer State :=
  .next (s.onCore fun i => i.aluScalar f 2 f.ty.is64 f.ty.is64 f.ty.is64 f.ty.is64 (aluMul f.ty f.mod.sat))

/-- smulh (08 R269): D := the high half of A × B. -/
def execSmulh (f : RForm) (s : State) : Answer State :=
  .next (s.onCore fun i => i.aluScalar f 2 f.ty.is64 f.ty.is64 f.ty.is64 f.ty.is64 (aluMulh f.ty))

/-- smad (08 R269): D := A × B + C. -/
def execSmad (f : RForm) (s : State) : Answer State :=
  .next (s.onCore fun i => i.aluScalar f 3 f.ty.is64 f.ty.is64 f.ty.is64 f.ty.is64 (aluMad f.ty f.mod.sat))

/-- sdiv (08 R270): D := the quotient of A by B. -/
def execSdiv (f : RForm) (s : State) : Answer State :=
  .next (s.onCore fun i => i.aluScalar f 2 f.ty.is64 f.ty.is64 f.ty.is64 f.ty.is64 (aluDiv f.ty))

/-- srem (08 R270): D := the remainder of A by B. -/
def execSrem (f : RForm) (s : State) : Answer State :=
  .next (s.onCore fun i => i.aluScalar f 2 f.ty.is64 f.ty.is64 f.ty.is64 f.ty.is64 (aluRem f.ty))

/-- smin (08 R271): D := the lesser of A and B. -/
def execSmin (f : RForm) (s : State) : Answer State :=
  .next (s.onCore fun i => i.aluScalar f 2 f.ty.is64 f.ty.is64 f.ty.is64 f.ty.is64 (aluMin f.ty))

/-- smax (08 R271): D := the greater of A and B. -/
def execSmax (f : RForm) (s : State) : Answer State :=
  .next (s.onCore fun i => i.aluScalar f 2 f.ty.is64 f.ty.is64 f.ty.is64 f.ty.is64 (aluMax f.ty))

/-- sand (08 R271): D := A and B. -/
def execSand (f : RForm) (s : State) : Answer State :=
  .next (s.onCore fun i => i.aluScalar f 2 f.ty.is64 f.ty.is64 f.ty.is64 f.ty.is64 (aluAnd f.ty))

/-- sor (08 R271): D := A or B. -/
def execSor (f : RForm) (s : State) : Answer State :=
  .next (s.onCore fun i => i.aluScalar f 2 f.ty.is64 f.ty.is64 f.ty.is64 f.ty.is64 (aluOr f.ty))

/-- sxor (08 R271): D := A exclusive or B. -/
def execSxor (f : RForm) (s : State) : Answer State :=
  .next (s.onCore fun i => i.aluScalar f 2 f.ty.is64 f.ty.is64 f.ty.is64 f.ty.is64 (aluXor f.ty))

/-- sshl (08 R271): D := A × 2^CNT(B). -/
def execSshl (f : RForm) (s : State) : Answer State :=
  .next (s.onCore fun i => i.aluScalar f 2 f.ty.is64 f.ty.is64 false false (aluShl f.ty f.mod.sat))

/-- sshr (08 R271): D := A shifted right logically by CNT(B). -/
def execSshr (f : RForm) (s : State) : Answer State :=
  .next (s.onCore fun i => i.aluScalar f 2 f.ty.is64 f.ty.is64 false false (aluShr f.ty))

/-- ssra (08 R271): D := A shifted right arithmetically by CNT(B). -/
def execSsra (f : RForm) (s : State) : Answer State :=
  .next (s.onCore fun i => i.aluScalar f 2 f.ty.is64 f.ty.is64 false false (aluSra f.ty))

/-- sbfx (08 R272): D := a bit field of A. -/
def execSbfx (f : RForm) (s : State) : Answer State :=
  .next (s.onCore fun i => i.aluScalar f 2 false false false false (aluBfx f.ty))

/-- sbfi (08 R272): D := C with a bit field of A inserted. -/
def execSbfi (f : RForm) (s : State) : Answer State :=
  .next (s.onCore fun i => i.aluScalar f 3 false false false false (aluBfi f.ty))

/-- sclz (08 R272): D := the leading zero bits of A, in 32 bits. -/
def execSclz (f : RForm) (s : State) : Answer State :=
  .next (s.onCore fun i => i.aluScalar f 1 false f.ty.is64 false false (aluClz f.ty))

/-- spop (08 R272): D := the one bits of A, in 32 bits. -/
def execSpop (f : RForm) (s : State) : Answer State :=
  .next (s.onCore fun i => i.aluScalar f 1 false f.ty.is64 false false (aluPop f.ty))

/-- scmp (08 R273): D := 1 where the condition holds on the values, else 0; the flags of A − B, or of A and B. -/
def execScmp (f : RForm) (s : State) : Answer State :=
  .next (s.onCore fun i =>
    let w := f.ty.is64
    i.scalar f.guard [(f.a, regsOf w), (f.b, regsOf w)] fun k =>
      let a := i.scalarSrc w f.a 0
      let b := i.scalarSrc w f.b (imm24 f.ext)
      let fl := if condField f.c < 6 then aluSub f.ty false a b 0 else aluAnd f.ty a b 0
      i.put32 f.d (if condValues (condField f.c) f.ty a.toNat b.toNat then 1 else 0)
        (i.onWarp k fun w => { w with sflags := fl.flags f.ty w.sflags }))

/-- ssel (08 R273): D := A where the condition holds on SFLAGS, else B. -/
def execSsel (f : RForm) (s : State) : Answer State :=
  .next (s.onCore fun i =>
    let w := f.ty.is64
    i.plainScalar f.guard w f.d [(f.a, regsOf w), (f.b, regsOf w)]
      (if condFlags (condField f.c) f.ty.signed i.w.sflags then i.scalarSrc w f.a 0
       else i.scalarSrc w f.b (imm24 f.ext)))

/-- smov (08 R274): D := A. -/
def execSmov (f : RForm) (s : State) : Answer State :=
  .next (s.onCore fun i => i.plainScalar f.guard f.ty.is64 f.d [(f.a, regsOf f.ty.is64)] (i.scalarSrc f.ty.is64 f.a 0))

/-- sli (08 R274): D := IMM32, extended by the type where it is 64 bits wide. -/
def execSli (f : IForm) (s : State) : Answer State :=
  .next (s.onCore fun i => i.plainScalar f.guard f.ty.is64 f.d []
    (if f.ty.signed then f.imm.signExtend 64 else f.imm.setWidth 64))

/-- slea (08 R274): D := A + (B << shift). -/
def execSlea (f : RForm) (s : State) : Answer State :=
  .next (s.onCore fun i => i.plainScalar f.guard true f.d [(f.a, 2), (f.b, 1)]
    (leaOf f.ty (shiftField f.c) (i.scalarSrc true f.a 0) (i.scalarSrc false f.b (imm24 f.ext))))

end Sys2Proof.Machine
end

