-- ==== Sys2Proof/Machine/VectorInt.lean ====
section
/-!
DEFINITION. The vector integer instructions, class 1 (08 R275 to R280).
-/
namespace Sys2Proof.Machine

/-- vadd (08 R275): D := A + B. -/
def execVadd (f : RForm) (s : State) : Answer State :=
  .next (s.onCore fun i => i.aluVector f 2 f.ty.is64 f.ty.is64 f.ty.is64 f.ty.is64 (aluAdd f.ty f.mod.sat))

/-- vsub (08 R275): D := A − B. -/
def execVsub (f : RForm) (s : State) : Answer State :=
  .next (s.onCore fun i => i.aluVector f 2 f.ty.is64 f.ty.is64 f.ty.is64 f.ty.is64 (aluSub f.ty f.mod.sat))

/-- vmul (08 R275): D := A × B. -/
def execVmul (f : RForm) (s : State) : Answer State :=
  .next (s.onCore fun i => i.aluVector f 2 f.ty.is64 f.ty.is64 f.ty.is64 f.ty.is64 (aluMul f.ty f.mod.sat))

/-- vmulh (08 R275): D := the high half of A × B. -/
def execVmulh (f : RForm) (s : State) : Answer State :=
  .next (s.onCore fun i => i.aluVector f 2 f.ty.is64 f.ty.is64 f.ty.is64 f.ty.is64 (aluMulh f.ty))

/-- vmad (08 R275): D := A × B + C. -/
def execVmad (f : RForm) (s : State) : Answer State :=
  .next (s.onCore fun i => i.aluVector f 3 f.ty.is64 f.ty.is64 f.ty.is64 f.ty.is64 (aluMad f.ty f.mod.sat))

/-- vabs (08 R275): D := the absolute value of A. -/
def execVabs (f : RForm) (s : State) : Answer State :=
  .next (s.onCore fun i => i.aluVector f 1 f.ty.is64 f.ty.is64 f.ty.is64 f.ty.is64 (aluAbs f.ty f.mod.sat))

/-- vneg (08 R275): D := −A. -/
def execVneg (f : RForm) (s : State) : Answer State :=
  .next (s.onCore fun i => i.aluVector f 1 f.ty.is64 f.ty.is64 f.ty.is64 f.ty.is64 (aluNeg f.ty f.mod.sat))

/-- vmin (08 R275): D := the lesser of A and B. -/
def execVmin (f : RForm) (s : State) : Answer State :=
  .next (s.onCore fun i => i.aluVector f 2 f.ty.is64 f.ty.is64 f.ty.is64 f.ty.is64 (aluMin f.ty))

/-- vmax (08 R275): D := the greater of A and B. -/
def execVmax (f : RForm) (s : State) : Answer State :=
  .next (s.onCore fun i => i.aluVector f 2 f.ty.is64 f.ty.is64 f.ty.is64 f.ty.is64 (aluMax f.ty))

/-- vand (08 R275): D := A and B. -/
def execVand (f : RForm) (s : State) : Answer State :=
  .next (s.onCore fun i => i.aluVector f 2 f.ty.is64 f.ty.is64 f.ty.is64 f.ty.is64 (aluAnd f.ty))

/-- vor (08 R275): D := A or B. -/
def execVor (f : RForm) (s : State) : Answer State :=
  .next (s.onCore fun i => i.aluVector f 2 f.ty.is64 f.ty.is64 f.ty.is64 f.ty.is64 (aluOr f.ty))

/-- vxor (08 R275): D := A exclusive or B. -/
def execVxor (f : RForm) (s : State) : Answer State :=
  .next (s.onCore fun i => i.aluVector f 2 f.ty.is64 f.ty.is64 f.ty.is64 f.ty.is64 (aluXor f.ty))

/-- vnot (08 R275): D := the complement of A. -/
def execVnot (f : RForm) (s : State) : Answer State :=
  .next (s.onCore fun i => i.aluVector f 1 f.ty.is64 f.ty.is64 f.ty.is64 f.ty.is64 (aluNot f.ty))

/-- vshl (08 R275): D := A × 2^CNT(B). -/
def execVshl (f : RForm) (s : State) : Answer State :=
  .next (s.onCore fun i => i.aluVector f 2 f.ty.is64 f.ty.is64 false false (aluShl f.ty f.mod.sat))

/-- vshr (08 R275): D := A shifted right logically by CNT(B). -/
def execVshr (f : RForm) (s : State) : Answer State :=
  .next (s.onCore fun i => i.aluVector f 2 f.ty.is64 f.ty.is64 false false (aluShr f.ty))

/-- vsra (08 R275): D := A shifted right arithmetically by CNT(B). -/
def execVsra (f : RForm) (s : State) : Answer State :=
  .next (s.onCore fun i => i.aluVector f 2 f.ty.is64 f.ty.is64 false false (aluSra f.ty))

/-- vrot (08 R275): D := A rotated left by CNT(B). -/
def execVrot (f : RForm) (s : State) : Answer State :=
  .next (s.onCore fun i => i.aluVector f 2 f.ty.is64 f.ty.is64 false false (aluRot f.ty))

/-- vbfx (08 R275): D := a bit field of A. -/
def execVbfx (f : RForm) (s : State) : Answer State :=
  .next (s.onCore fun i => i.aluVector f 2 false false false false (aluBfx f.ty))

/-- vbfi (08 R275): D := C with a bit field of A inserted. -/
def execVbfi (f : RForm) (s : State) : Answer State :=
  .next (s.onCore fun i => i.aluVector f 3 false false false false (aluBfi f.ty))

/-- vclz (08 R275): D := the leading zero bits of A, in 32 bits. -/
def execVclz (f : RForm) (s : State) : Answer State :=
  .next (s.onCore fun i => i.aluVector f 1 false f.ty.is64 false false (aluClz f.ty))

/-- vpop (08 R275): D := the one bits of A, in 32 bits. -/
def execVpop (f : RForm) (s : State) : Answer State :=
  .next (s.onCore fun i => i.aluVector f 1 false f.ty.is64 false false (aluPop f.ty))

/-- vbrev (08 R275): D := the bits of A reversed. -/
def execVbrev (f : RForm) (s : State) : Answer State :=
  .next (s.onCore fun i => i.aluVector f 1 f.ty.is64 f.ty.is64 f.ty.is64 f.ty.is64 (aluBrev f.ty))

/-- vcmp (08 R276): bit L of the k register D tells whether the condition holds in active lane L. -/
def execVcmp (f : RForm) (s : State) : Answer State :=
  .next (s.onCore fun i =>
    let w := f.ty.is64
    i.vector f.guard f.lr [(f.a, regsOf w), (f.b, regsOf w)] f.d 1 fun m k =>
      let a := i.src w f.a 0
      let b := i.src w f.b (imm24 f.ext)
      i.putCond f.d m (fun l => condValues (condField f.c) f.ty (a l).toNat (b l).toNat) k)

/-- vsel (08 R277): D := A in active lanes whose bit of the k register C is 1, B in the others. -/
def execVsel (f : RForm) (s : State) : Answer State :=
  .next (s.onCore fun i =>
    let w := f.ty.is64
    i.vector f.guard f.lr [(f.a, regsOf w), (f.b, regsOf w), (f.c, 1)] f.d (regsOf w) fun m k =>
      let a := i.src w f.a 0
      let b := i.src w f.b (imm24 f.ext)
      let p := match f.c with
        | .k n => i.w.readK i.f n.toNat
        | _ => 0
      i.putSrc w f.d m (fun l => if p.getLsbD l then a l else b l) k)

/-- vmov (08 R278): D := A in active lanes. -/
def execVmov (f : RForm) (s : State) : Answer State :=
  .next (s.onCore fun i =>
    i.vector f.guard f.lr [(f.a, regsOf f.ty.is64)] f.d (regsOf f.ty.is64) fun m k =>
      i.putSrc f.ty.is64 f.d m (i.src f.ty.is64 f.a 0) k)

/-- vli (08 R278): D := IMM32 in active lanes. -/
def execVli (f : IForm) (s : State) : Answer State :=
  .next (s.onCore fun i =>
    i.vector f.guard f.lr [] f.d (regsOf f.ty.is64) fun m k =>
      i.putSrc f.ty.is64 f.d m (fun _ => if f.ty.signed then f.imm.signExtend 64 else f.imm.setWidth 64) k)

/-- vlane (08 R278): D := L + B in active lane L. -/
def execVlane (f : RForm) (s : State) : Answer State :=
  .next (s.onCore fun i =>
    i.vector f.guard f.lr [(.none, 1), (f.b, 1)] f.d 1 fun m k =>
      let b := i.src false f.b (imm24 f.ext)
      i.putSrc false f.d m (fun l => BitVec.ofInt 64 (f.ty.wrap ((l : Nat) + f.ty.val (b l).toNat))) k)

/-- vdot4 (08 R279): D := C and the four byte products of A and B. -/
def execVdot4 (f : RForm) (s : State) : Answer State :=
  .next (s.onCore fun i =>
    i.vector f.guard f.lr [(f.a, 1), (f.b, 1), (f.c, 1)] f.d 1 fun m k =>
      let a := i.src false f.a 0
      let b := i.src false f.b 0
      let c := i.src false f.c 0
      i.putSrc false f.d m (fun l => BitVec.ofInt 64 (aluDot4 f.ty f.mod.sat (f.ext.getLsbD 0) (a l) (b l) (c l)).r) k)

/-- vlea (08 R280): D := A + (B << shift) in active lanes. -/
def execVlea (f : RForm) (s : State) : Answer State :=
  .next (s.onCore fun i =>
    i.vector f.guard f.lr [(f.a, 2), (f.b, 1)] f.d 2 fun m k =>
      let a := i.src true f.a 0
      let b := i.src false f.b (imm24 f.ext)
      i.putSrc true f.d m (fun l => leaOf f.ty (shiftField f.c) (a l) (b l)) k)

end Sys2Proof.Machine
end

