-- ==== Sys2Proof/Machine/Dispatch.lean ====
section
/-!
DEFINITION. The dispatcher: one arm for each row of the opcode table, each a call of its meaning.
-/
namespace Sys2Proof.Machine

/-- Run one instruction or event. -/
def exec (i : Instr) (s : State) : Host.Outcome State Fault Refusal :=
  match i with
  | .sadd f => Sys2Proof.Machine.execSadd f s
  | .ssub f => Sys2Proof.Machine.execSsub f s
  | .smul f => Sys2Proof.Machine.execSmul f s
  | .smulh f => Sys2Proof.Machine.execSmulh f s
  | .smad f => Sys2Proof.Machine.execSmad f s
  | .sdiv f => Sys2Proof.Machine.execSdiv f s
  | .srem f => Sys2Proof.Machine.execSrem f s
  | .smin f => Sys2Proof.Machine.execSmin f s
  | .smax f => Sys2Proof.Machine.execSmax f s
  | .sand f => Sys2Proof.Machine.execSand f s
  | .sor f => Sys2Proof.Machine.execSor f s
  | .sxor f => Sys2Proof.Machine.execSxor f s
  | .sshl f => Sys2Proof.Machine.execSshl f s
  | .sshr f => Sys2Proof.Machine.execSshr f s
  | .ssra f => Sys2Proof.Machine.execSsra f s
  | .sbfx f => Sys2Proof.Machine.execSbfx f s
  | .sbfi f => Sys2Proof.Machine.execSbfi f s
  | .sclz f => Sys2Proof.Machine.execSclz f s
  | .spop f => Sys2Proof.Machine.execSpop f s
  | .scmp f => Sys2Proof.Machine.execScmp f s
  | .ssel f => Sys2Proof.Machine.execSsel f s
  | .smov f => Sys2Proof.Machine.execSmov f s
  | .sli f => Sys2Proof.Machine.execSli f s
  | .slea f => Sys2Proof.Machine.execSlea f s
  | .vadd f => Sys2Proof.Machine.execVadd f s
  | .vsub f => Sys2Proof.Machine.execVsub f s
  | .vmul f => Sys2Proof.Machine.execVmul f s
  | .vmulh f => Sys2Proof.Machine.execVmulh f s
  | .vmad f => Sys2Proof.Machine.execVmad f s
  | .vabs f => Sys2Proof.Machine.execVabs f s
  | .vneg f => Sys2Proof.Machine.execVneg f s
  | .vmin f => Sys2Proof.Machine.execVmin f s
  | .vmax f => Sys2Proof.Machine.execVmax f s
  | .vand f => Sys2Proof.Machine.execVand f s
  | .vor f => Sys2Proof.Machine.execVor f s
  | .vxor f => Sys2Proof.Machine.execVxor f s
  | .vnot f => Sys2Proof.Machine.execVnot f s
  | .vshl f => Sys2Proof.Machine.execVshl f s
  | .vshr f => Sys2Proof.Machine.execVshr f s
  | .vsra f => Sys2Proof.Machine.execVsra f s
  | .vrot f => Sys2Proof.Machine.execVrot f s
  | .vbfx f => Sys2Proof.Machine.execVbfx f s
  | .vbfi f => Sys2Proof.Machine.execVbfi f s
  | .vclz f => Sys2Proof.Machine.execVclz f s
  | .vpop f => Sys2Proof.Machine.execVpop f s
  | .vbrev f => Sys2Proof.Machine.execVbrev f s
  | .vcmp f => Sys2Proof.Machine.execVcmp f s
  | .vsel f => Sys2Proof.Machine.execVsel f s
  | .vmov f => Sys2Proof.Machine.execVmov f s
  | .vli f => Sys2Proof.Machine.execVli f s
  | .vdot4 f => Sys2Proof.Machine.execVdot4 f s
  | .vlea f => Sys2Proof.Machine.execVlea f s
  | .vlane f => Sys2Proof.Machine.execVlane f s
  | .fadd f => Sys2Proof.Machine.execFadd f s
  | .fsub f => Sys2Proof.Machine.execFsub f s
  | .fmul f => Sys2Proof.Machine.execFmul f s
  | .ffma f => Sys2Proof.Machine.execFfma f s
  | .fmin f => Sys2Proof.Machine.execFmin f s
  | .fmax f => Sys2Proof.Machine.execFmax f s
  | .fcmp f => Sys2Proof.Machine.execFcmp f s
  | .fclass f => Sys2Proof.Machine.execFclass f s
  | .frcp f => Sys2Proof.Machine.execFrcp f s
  | .frsq f => Sys2Proof.Machine.execFrsq f s
  | .fsqrt f => Sys2Proof.Machine.execFsqrt f s
  | .fexp2 f => Sys2Proof.Machine.execFexp2 f s
  | .flog2 f => Sys2Proof.Machine.execFlog2 f s
  | .fsin f => Sys2Proof.Machine.execFsin f s
  | .fcos f => Sys2Proof.Machine.execFcos f s
  | .ftanh f => Sys2Proof.Machine.execFtanh f s
  | .frnd f => Sys2Proof.Machine.execFrnd f s
  | .fcvt f => Sys2Proof.Machine.execFcvt f s
  | .fscale f => Sys2Proof.Machine.execFscale f s
  | .fxpk f => Sys2Proof.Machine.execFxpk f s
  | .fxup f => Sys2Proof.Machine.execFxup f s
  | .fdiv f => Sys2Proof.Machine.execFdiv f s
  | .ld f => Sys2Proof.Machine.execLd f s
  | .st f => Sys2Proof.Machine.execSt f s
  | .lds f => Sys2Proof.Machine.execLds f s
  | .sts f => Sys2Proof.Machine.execSts f s
  | .atom f => Sys2Proof.Machine.execAtom f s
  | .ldlk f => Sys2Proof.Machine.execLdlk f s
  | .stul f => Sys2Proof.Machine.execStul f s
  | .fenceAcq f => Sys2Proof.Machine.execFenceAcq f s
  | .fenceRel f => Sys2Proof.Machine.execFenceRel f s
  | .fenceSc f => Sys2Proof.Machine.execFenceSc f s
  | .pfm f => Sys2Proof.Machine.execPfm f s
  | .cvta f => Sys2Proof.Machine.execCvta f s
  | .falloc f => Sys2Proof.Machine.execFalloc f s
  | .fallocC f => Sys2Proof.Machine.execFallocC f s
  | .fopen f => Sys2Proof.Machine.execFopen f s
  | .ffree f => Sys2Proof.Machine.execFfree f s
  | .fbind f => Sys2Proof.Machine.execFbind f s
  | .fbindB f => Sys2Proof.Machine.execFbindB f s
  | .fdone f => Sys2Proof.Machine.execFdone f s
  | .frwaitSt f => Sys2Proof.Machine.execFrwaitSt f s
  | .frwaitW f => Sys2Proof.Machine.execFrwaitW f s
  | .frwaitCap f => Sys2Proof.Machine.execFrwaitCap f s
  | .fdrop f => Sys2Proof.Machine.execFdrop f s
  | .fquery f => Sys2Proof.Machine.execFquery f s
  | .nop f => Sys2Proof.Machine.execNop f s
  | .bra f => Sys2Proof.Machine.execBra f s
  | .brs f => Sys2Proof.Machine.execBrs f s
  | .jmp f => Sys2Proof.Machine.execJmp f s
  | .call f => Sys2Proof.Machine.execCall f s
  | .ret f => Sys2Proof.Machine.execRet f s
  | .exit f => Sys2Proof.Machine.execExit f s
  | .bar f => Sys2Proof.Machine.execBar f s
  | .barr f => Sys2Proof.Machine.execBarr f s
  | .barw f => Sys2Proof.Machine.execBarw f s
  | .wcnt f => Sys2Proof.Machine.execWcnt f s
  | .sleep f => Sys2Proof.Machine.execSleep f s
  | .yield f => Sys2Proof.Machine.execYield f s
  | .pfi f => Sys2Proof.Machine.execPfi f s
  | .trap f => Sys2Proof.Machine.execTrap f s
  | .brk f => Sys2Proof.Machine.execBrk f s
  | .brx f => Sys2Proof.Machine.execBrx f s
  | .shfl f => Sys2Proof.Machine.execShfl f s
  | .vote f => Sys2Proof.Machine.execVote f s
  | .bal f => Sys2Proof.Machine.execBal f s
  | .redux f => Sys2Proof.Machine.execRedux f s
  | .scan f => Sys2Proof.Machine.execScan f s
  | .bcast f => Sys2Proof.Machine.execBcast f s
  | .perm f => Sys2Proof.Machine.execPerm f s
  | .kand f => Sys2Proof.Machine.execKand f s
  | .kor f => Sys2Proof.Machine.execKor f s
  | .kxor f => Sys2Proof.Machine.execKxor f s
  | .knot f => Sys2Proof.Machine.execKnot f s
  | .kmov f => Sys2Proof.Machine.execKmov f s
  | .kpop f => Sys2Proof.Machine.execKpop f s
  | .kfst f => Sys2Proof.Machine.execKfst f s
  | .kfrom f => Sys2Proof.Machine.execKfrom f s
  | .kto f => Sys2Proof.Machine.execKto f s
  | .mmac f => Sys2Proof.Machine.execMmac f s
  | .mclr f => Sys2Proof.Machine.execMclr f s
  | .mld f => Sys2Proof.Machine.execMld f s
  | .mst f => Sys2Proof.Machine.execMst f s
  | .mxv f => Sys2Proof.Machine.execMxv f s
  | .mvx f => Sys2Proof.Machine.execMvx f s
  | .qmk f => Sys2Proof.Machine.execQmk f s
  | .qmkM f => Sys2Proof.Machine.execQmkM f s
  | .qinv f => Sys2Proof.Machine.execQinv f s
  | .cpy f => Sys2Proof.Machine.execCpy f s
  | .cpyRa f => Sys2Proof.Machine.execCpyRa f s
  | .cpyg f => Sys2Proof.Machine.execCpyg f s
  | .grinit f => Sys2Proof.Machine.execGrinit f s
  | .grinitRe f => Sys2Proof.Machine.execGrinitRe f s
  | .grget f => Sys2Proof.Machine.execGrget f s
  | .grputRes f => Sys2Proof.Machine.execGrputRes f s
  | .grput f => Sys2Proof.Machine.execGrput f s
  | .grrel f => Sys2Proof.Machine.execGrrel f s
  | .stch f => Sys2Proof.Machine.execStch f s
  | .lnch f => Sys2Proof.Machine.execLnch f s
  | .cnclLaunch f => Sys2Proof.Machine.execCnclLaunch f s
  | .cnclGraph f => Sys2Proof.Machine.execCnclGraph f s
  | .cnclJob f => Sys2Proof.Machine.execCnclJob f s
  | .pwrh f => Sys2Proof.Machine.execPwrh f s
  | .rds f => Sys2Proof.Machine.execRds f s
  | .wrs f => Sys2Proof.Machine.execWrs f s
  | .tret f => Sys2Proof.Machine.execTret f s
  | .cinv f => Sys2Proof.Machine.execCinv f s
  | .cflush f => Sys2Proof.Machine.execCflush f s
  | .tlbinvAddr f => Sys2Proof.Machine.execTlbinvAddr f s
  | .tlbinvCtx f => Sys2Proof.Machine.execTlbinvCtx f s
  | .tlbinvRng f => Sys2Proof.Machine.execTlbinvRng f s
  | .ctxsv f => Sys2Proof.Machine.execCtxsv f s
  | .ctxld f => Sys2Proof.Machine.execCtxld f s
  | .capset f => Sys2Proof.Machine.execCapset f s
  | .blst f => Sys2Proof.Machine.execBlst f s
  | .halt f => Sys2Proof.Machine.execHalt f s
  | .kernelPacket part queue => Sys2Proof.Machine.execKernelPacket part queue s
  | .copyPacket part queue => Sys2Proof.Machine.execCopyPacket part queue s
  | .graphPacket part queue => Sys2Proof.Machine.execGraphPacket part queue s
  | .definePacket part queue => Sys2Proof.Machine.execDefinePacket part queue s
  | .jobendPacket part queue => Sys2Proof.Machine.execJobendPacket part queue s
  | .workgroupDispatch part launch die => Sys2Proof.Machine.execWorkgroupDispatch part launch die s
  | .launchCompletion part launch => Sys2Proof.Machine.execLaunchCompletion part launch s
  | .jobCompletion part job => Sys2Proof.Machine.execJobCompletion part job s
  | .nodeKernelStart part run node => Sys2Proof.Machine.execNodeKernelStart part run node s
  | .nodeCond part run node => Sys2Proof.Machine.execNodeCond part run node s
  | .nodeWhile part run node => Sys2Proof.Machine.execNodeWhile part run node s
  | .whilePassEnd part run node => Sys2Proof.Machine.execWhilePassEnd part run node s
  | .nodeJoin part run node => Sys2Proof.Machine.execNodeJoin part run node s
  | .nodeSignal part run node => Sys2Proof.Machine.execNodeSignal part run node s
  | .rdReadRequest p => Sys2Proof.Machine.execRdReadRequest p s
  | .wrWrite p => Sys2Proof.Machine.execWrWrite p s
  | .atAtomic p => Sys2Proof.Machine.execAtAtomic p s
  | .fenFenceProbe p => Sys2Proof.Machine.execFenFenceProbe p s
  | .barBarrierMessage p => Sys2Proof.Machine.execBarBarrierMessage p s
  | .fltFaultReport p => Sys2Proof.Machine.execFltFaultReport p s
  | .intInterrupt p => Sys2Proof.Machine.execIntInterrupt p s
  | .rdxReadData p => Sys2Proof.Machine.execRdxReadData p s
  | .ackAcknowledgement p => Sys2Proof.Machine.execAckAcknowledgement p s
  | .atrAtomicResult p => Sys2Proof.Machine.execAtrAtomicResult p s
  | .cerEngineRead core op word => Sys2Proof.Machine.execCerEngineRead core op word s
  | .cewEngineWrite core op word => Sys2Proof.Machine.execCewEngineWrite core op word s
  | .ctlContextTransfer p => Sys2Proof.Machine.execCtlContextTransfer p s
  | .abortFlit p => Sys2Proof.Machine.execAbortFlit p s
  | .flitCrcFailure link => Sys2Proof.Machine.execFlitCrcFailure link s
  | .linkFailure link => Sys2Proof.Machine.execLinkFailure link s
  | .linkRetrainComplete link ok => Sys2Proof.Machine.execLinkRetrainComplete link ok s
  | .headerParityError die inH0 p => Sys2Proof.Machine.execHeaderParityError die inH0 p s
  | .payloadError p => Sys2Proof.Machine.execPayloadError p s
  | .walkComplete die walk => Sys2Proof.Machine.execWalkComplete die walk s
  | .faultRecordWrite queue => Sys2Proof.Machine.execFaultRecordWrite queue s
  | .copyCompletion core op => Sys2Proof.Machine.execCopyCompletion core op s
  | .stitchCompletion core op => Sys2Proof.Machine.execStitchCompletion core op s
  | .remoteCompletion core op reply => Sys2Proof.Machine.execRemoteCompletion core op reply s
  | .gatheringReserve core record => Sys2Proof.Machine.execGatheringReserve core record s
  | .mmacComplete core => Sys2Proof.Machine.execMmacComplete core s
  | .speculationResolution core warp record => Sys2Proof.Machine.execSpeculationResolution core warp record s
  | .quantumTimeout core warp => Sys2Proof.Machine.execQuantumTimeout core warp s
  | .lockRetry core warp fragment => Sys2Proof.Machine.execLockRetry core warp fragment s
  | .lockTimeout core bank index => Sys2Proof.Machine.execLockTimeout core bank index s
  | .watchdog part launch => Sys2Proof.Machine.execWatchdog part launch s
  | .splitfullDetection core warp => Sys2Proof.Machine.execSplitfullDetection core warp s
  | .issueAgeExpiry core slot => Sys2Proof.Machine.execIssueAgeExpiry core slot s
  | .waitTimeout core warp fragment => Sys2Proof.Machine.execWaitTimeout core warp fragment s
  | .sleepExpiry core warp fragment => Sys2Proof.Machine.execSleepExpiry core warp fragment s
  | .timeSliceEnd part ctx => Sys2Proof.Machine.execTimeSliceEnd part ctx s
  | .forcedSaveTimeout core wg => Sys2Proof.Machine.execForcedSaveTimeout core wg s
  | .workgroupSave core wg => Sys2Proof.Machine.execWorkgroupSave core wg s
  | .workgroupRestore index core => Sys2Proof.Machine.execWorkgroupRestore index core s
  | .moveStart cluster => Sys2Proof.Machine.execMoveStart cluster s
  | .bankClosePoint core => Sys2Proof.Machine.execBankClosePoint core s
  | .banksDark cluster => Sys2Proof.Machine.execBanksDark cluster s
  | .relockComplete cluster => Sys2Proof.Machine.execRelockComplete cluster s
  | .voltageMoveComplete cluster => Sys2Proof.Machine.execVoltageMoveComplete cluster s
  | .powerControllerPeriod watts targets => Sys2Proof.Machine.execPowerControllerPeriod watts targets s
  | .temperatureTreeReading readings => Sys2Proof.Machine.execTemperatureTreeReading readings s
  | .emergencyDarkening cluster => Sys2Proof.Machine.execEmergencyDarkening cluster s
  | .sewnEmergency cluster => Sys2Proof.Machine.execSewnEmergency cluster s
  | .emergencyHoldRelease cluster => Sys2Proof.Machine.execEmergencyHoldRelease cluster s
  | .byteBudgetInterval cluster => Sys2Proof.Machine.execByteBudgetInterval cluster s
  | .governorWindow core => Sys2Proof.Machine.execGovernorWindow core s
  | .subarrayGate core sub => Sys2Proof.Machine.execSubarrayGate core sub s
  | .wakeSlotOpen core => Sys2Proof.Machine.execWakeSlotOpen core s
  | .ballastLimitExpiry => Sys2Proof.Machine.execBallastLimitExpiry s
  | .telemetryRecord die milliwatts microjoules predicted => Sys2Proof.Machine.execTelemetryRecord die milliwatts microjoules predicted s
  | .illegalOpcode opcode => Sys2Proof.Machine.execIllegalOpcode opcode s
  | .subarrayAwake core => Sys2Proof.Machine.execSubarrayAwake core s
  | .capsetRelightComplete cluster => Sys2Proof.Machine.execCapsetRelightComplete cluster s
  | .packageReset => Sys2Proof.Machine.execPackageReset s
  | .partitionReset part => Sys2Proof.Machine.execPartitionReset part s
  | .functionLevelReset part => Sys2Proof.Machine.execFunctionLevelReset part s
  | .ctxcmdCreate part => Sys2Proof.Machine.execCtxcmdCreate part s
  | .ctxcmdDestroy part => Sys2Proof.Machine.execCtxcmdDestroy part s
  | .ctxcmdResume part => Sys2Proof.Machine.execCtxcmdResume part s
  | .tlbcmdAddr part ctx => Sys2Proof.Machine.execTlbcmdAddr part ctx s
  | .tlbcmdCtx part ctx => Sys2Proof.Machine.execTlbcmdCtx part ctx s
  | .tlbcmdRng part ctx => Sys2Proof.Machine.execTlbcmdRng part ctx s
  | .s2cmdPage part => Sys2Proof.Machine.execS2cmdPage part s
  | .s2cmdPartition part => Sys2Proof.Machine.execS2cmdPartition part s
  | .s2cmdRange part => Sys2Proof.Machine.execS2cmdRange part s
  | .fqreplyRetry queue fid => Sys2Proof.Machine.execFqreplyRetry queue fid s
  | .fqreplyFatal queue fid => Sys2Proof.Machine.execFqreplyFatal queue fid s
  | .fqconsWrite queue value => Sys2Proof.Machine.execFqconsWrite queue value s
  | .precmd part value => Sys2Proof.Machine.execPrecmd part value s
  | .plrel part value => Sys2Proof.Machine.execPlrel part value s
  | .pmove value => Sys2Proof.Machine.execPmove value s
  | .pmapWrite part n value => Sys2Proof.Machine.execPmapWrite part n value s
  | .pcfgWrite part value => Sys2Proof.Machine.execPcfgWrite part value s
  | .vfmboxWrite cluster value => Sys2Proof.Machine.execVfmboxWrite cluster value s
  | .fwload => Sys2Proof.Machine.execFwload s
  | .attgo => Sys2Proof.Machine.execAttgo s
  | .fstateWrite fn value => Sys2Proof.Machine.execFstateWrite fn value s
  | .featackWrite part value => Sys2Proof.Machine.execFeatackWrite part value s
  | .aqiSubmission part aqi pasid whole packet => Sys2Proof.Machine.execAqiSubmission part aqi pasid whole packet s
  | .registerWrite fn offset wide value => Sys2Proof.Machine.execRegisterWrite fn offset wide value s
  | .rsRegisterRead fn offset => Sys2Proof.Machine.execRsRegisterRead fn offset s
  | .hostBarAccess part module ipa len write => Sys2Proof.Machine.execHostBarAccess part module ipa len write s
  | .ucieModuleFailure module => Sys2Proof.Machine.execUcieModuleFailure module s

end Sys2Proof.Machine
end

