-- ==== Sys2Proof/Machine/Arbiter.lean ====
section
/-!
DEFINITION. The default arbiter (notes/assumptions/3.md): where the agenda is empty, results that land, the issue that the arbiters of the cores choose, the events of the
device's own and time take turns. The acts of the host, the power controller and
the environment are none of these: they come from the agenda.
-/
namespace Sys2Proof.Machine

/-- Events of a die's walker, and of the fault queues (01 R41, R50). -/
def State.walkEvents (s : State) : List Instr :=
  (s.dies.flatMap fun d => (FMap.keys d.2.walks).map fun w => .walkComplete d.1 w) ++ (List.range 17).map .faultRecordWrite

/-- Events of an engine operation (12 R379, R380). -/
def EngineOp.events (c n : Nat) (o : EngineOp) : List Instr :=
  let words := List.range (o.words.getD 0)
  (List.range o.reads).map (fun w => .cerEngineRead (.core c) n w) ++ words.map (fun w => .cewEngineWrite (.core c) n w) ++
    [.cerEngineRead (.core c) n 0, .copyCompletion c n, .stitchCompletion c n] ++
    (if o.cls == 2 && o.status.isSome then [.remoteCompletion c n { status := 0, word := 0, data := [] }] else [])

/-- Events of a core's engines (12). -/
def Core.engineEvents (c : Nat) (k : Core) : List Instr :=
  (FMap.keys k.gath).map (fun r => .gatheringReserve c r) ++ (k.ops.flatMap fun o => o.2.events c o.1) ++
    [.mmacComplete c, .subarrayAwake c, .governorWindow c] ++
    (if k.matrix.wantWake.isSome then [.wakeSlotOpen c] else (List.range 4).map fun j => .subarrayGate c j)

/-- Events of a core's warps (02 R73, 03 R102, R104, 04 R147, 05 R199, R201, 06 R212, 11 R343). -/
def Core.warpEvents (c : Nat) (k : Core) : List Instr :=
  (k.warps.flatMap fun w =>
    (FMap.keys w.2.spec).map (fun r => .speculationResolution c w.1 r) ++
      [.quantumTimeout c w.1, .splitfullDetection c w.1] ++
      (FMap.keys w.2.frags).flatMap fun f => [.waitTimeout c w.1 f, .sleepExpiry c w.1 f, .lockRetry c w.1 f]) ++
    ((FMap.keys k.locks).map fun x => .lockTimeout c (x / 64) (x % 64)) ++ (List.range 4).map fun j => .issueAgeExpiry c j

/-- Events of a core's workgroups and of the saved ones (13 R408, R410; 01 R48). -/
def State.saveEvents (s : State) : List Instr :=
  (s.cores.flatMap fun k => (FMap.keys k.2.wgs).flatMap fun g => [.forcedSaveTimeout k.1 g, .workgroupSave k.1 g]) ++
    (List.range s.saved.length).flatMap fun n => match s.saved[n]? with
      | none => []
      | some v => .workgroupRestore n v.core :: (s.part v.part).cores.map fun c => .workgroupRestore n c.2

/-- Events of a partition's queues, launches, jobs, runs and slices (14). -/
def State.partEvents (s : State) (p : Nat) (pt : Part) : List Instr :=
  ((FMap.keys pt.queues).flatMap fun q =>
    [.kernelPacket p q, .copyPacket p q, .graphPacket p q, .definePacket p q, .jobendPacket p q]) ++
    ((s.launches.filter fun l => launchPart l.1 == p && l.2.state != .ended).flatMap fun l =>
      let id := l.1 % 2 ^ 32
      [.launchCompletion p id, .watchdog p id] ++ pt.dies.map fun d => .workgroupDispatch p id d) ++
    ((s.jobs.filter fun j => j.1 / 65536 == p).map fun j => .jobCompletion p (j.1 % 65536)) ++
    ((s.runs.filter fun r => launchPart r.1 == p).flatMap fun r =>
      (List.range (s.runNodes r.1 r.2).length).flatMap fun n =>
        let id := r.1 % 2 ^ 32
        [.nodeKernelStart p id n, .nodeCond p id n, .nodeWhile p id n, .whilePassEnd p id n, .nodeJoin p id n, .nodeSignal p id n]) ++
    ((s.ctxIds p).map fun c => .timeSliceEnd p c)

/-- Events of a cluster's power (15 R442 to R455). -/
def powerEvents (c : Nat) : List Instr :=
  (coresOf c).map (fun k => .bankClosePoint k) ++
    [.moveStart c, .banksDark c, .relockComplete c, .voltageMoveComplete c, .capsetRelightComplete c, .emergencyDarkening c,
      .sewnEmergency c, .emergencyHoldRelease c, .byteBudgetInterval c]

/-- The arrival of a packet in flight (03 R116). -/
def packetEvent (p : Packet) : Instr :=
  match p.opc.toNat with
  | 0x07 => .intInterrupt p
  | 0x08 => .rdxReadData p
  | 0x09 => .ackAcknowledgement p
  | _ => .atrAtomicResult p

/-- The telemetry records of a millisecond that has ended, with what the meters of the dies tell (15 R460, R461). -/
def State.recordEvents (s : State) : List Instr :=
  (List.range 4).map fun d =>
    let n := 4 * (s.refTime / 1000000) + d
    .telemetryRecord d (Config.meter 0 n) (Config.meter 1 n) (BitVec.ofNat 16 (Config.meter 2 n))

/-- The events that the device may bring about itself, in the order in which the default arbiter looks at them. -/
def State.ownEvents (s : State) : List Instr :=
  (s.cores.flatMap fun k => k.2.warpEvents k.1) ++ s.walkEvents ++ (s.cores.flatMap fun k => k.2.engineEvents k.1) ++
    (s.parts.flatMap fun p => s.partEvents p.1 p.2) ++ s.saveEvents ++ (FMap.keys s.clusters).flatMap powerEvents ++
    s.net.map packetEvent ++ [.ballastLimitExpiry] ++ s.recordEvents

/-- Whether an event has an effect now. -/
def State.effective (s : State) (i : Instr) : Bool :=
  match exec i s with
  | .next t => decide (t ≠ s)
  | .fault _ => true
  | .refused _ => false

/-- The first outstanding register write of a core whose clock runs. -/
def State.nextLand (s : State) : Option Turn :=
  s.cores.findSome? fun k =>
    if (s.cluster (clusterOf k.1)).frozen then none
    else if !k.2.drain.isEmpty then some (.drained k.1 0)
    else k.2.warps.findSome? fun w =>
      if !w.2.kpend.isEmpty then some (.land k.1 w.1) else if !w.2.vpend.isEmpty then some (.landV k.1 w.1 0) else none

/-- The answer to the first request that holds an entry of a line class table (03 R120). -/
def State.nextAnswer (s : State) : Option Turn :=
  s.cores.findSome? fun k =>
    if (s.cluster (clusterOf k.1)).frozen then none
    else (k.2.lineClass.find? fun e => e.2.2.2 != 0).map fun e => .answer k.1 e.1

/-- The next event of the device's own that has an effect: the search begins at each of them in turn. -/
def State.nextEvent (s : State) : Option Turn :=
  let l := s.ownEvents
  let n := s.turns / 4 % Nat.max 1 l.length
  ((l.drop n ++ l.take n).find? s.effective).map .event

/-- The default arbiter's turn: a result lands or a response arrives, an instruction issues, an event occurs and a nanosecond passes,
one after the other, so that none of these keeps another off for ever (05 R199). (DESIGN CHOICE, notes/assumptions/3.md.) -/
def State.defaultTurn (s : State) : Turn :=
  (match s.turns % 4 with
    | 0 => (s.nextLand.or s.nextAnswer).or (s.nextEvent.or s.nextIssue)
    | 1 => s.nextIssue.or s.nextEvent
    | 2 => s.nextEvent.or s.nextIssue
    | _ => none).getD (.tick 1)

end Sys2Proof.Machine
end

