-- ==== Sys2Proof/Machine/Placed.lean ====
section
/-!
DEFINITION. A state in which one warp is about to fetch a given instruction: what loading and starting a program leaves
(notes/assumptions/1.md).
-/
namespace Sys2Proof.Machine

/-- A warp of 96 lanes with one fragment at a slot address, at level 2. -/
def placedWarp (pc : SlotAddr) : Warp :=
  { uid := 1, wg := 0, index := 0, privIndex := 0, live := ~~~(0 : Mask)
    frags := [(0, { state := .ready, lvl := 0, rpl := false, held := false, trm := false, pc := pc, rcd := none
                    wait := .none, ptrap := 0, mask := ~~~(0 : Mask), pend := 0, priv := 2, fids := [], notes := []
                    step := false, stepped := false, age := 0, deferred := false, sides := [], entry := none
                    behind := none, quires := none, half := [] })]
    recs := [], s := [], sTrap := [], v := [], vTrap := [], k := [], f := [], sflags := 0, fflags := 0, mprog := 0
    trap := TrapRegs.reset, deferred := []
    counters := { cp := 0, st := 0, rm := 0, cpIssued := 0, stIssued := 0, rmIssued := 0 }
    fails := [], quanta := [], lostQuanta := [], comps := [], reserved := [], revoked := [], spec := []
    lastMask := [], kpend := [], vpend := [], queued := 0, klvl := 2, watchdog := false, lockOut := none, saving := false }

/-- The workgroup of that warp. -/
def placedWg (pc : SlotAddr) : Wg :=
  { launch := 0, ctx := 0, linear := 0, x := 0, y := 0, z := 0, nx := 1, ny := 1, nz := 1, nwarps := 1, g := []
    bars := [], tiles := 4, tile := [], live := 64, entry := pc, handler := 0, privsz := 0, pbase := 0, args := 0
    prio := 0, sewn := none, exited := [], preempt := none, frozen := none, forced := false, saveIpa := none, image := none }

/-- The context of that warp: one MAPPED range over the low addresses, with every permission (01 R27). -/
def placedCtx : Ctx :=
  { root1 := 0, rng1 := 0, frply := false, suph := 0, klvl := 2, pasid := 0, halted := false, quires := []
    ranges := [{ w0 := 0, w1 := 0x7F_FFFF_F000, w2 := 0, w3 := 0x7D }], sliceAt := none, waitsAt := none, rivals := [] }

/-- The line word of a line whose slots are nops but for slot 0, which is a marked target (07 R228, R230). -/
def placedLineWord (w : BitVec 96) : Nat :=
  let p0 := if parityOf 96 w.toNat then 1 else 0
  1 + 2 ^ 16 * (p0 + 0x1E) + 2 ^ 21

/-- A line with a given word in slot 0 and nops after it. -/
def placedLine (w : BitVec 96) : Nat :=
  w.toNat + 2 ^ 96 * 0x200 + 2 ^ 192 * 0x200 + 2 ^ 288 * 0x200 + 2 ^ 384 * 0x200 + 2 ^ 480 * placedLineWord w

/-- Put a word where core 0's warp 0 fetches its next instruction, with nothing else going on.
(DESIGN CHOICE, notes/assumptions/1.md.) -/
def State.placeWord (s : State) (w : Nat) : State :=
  let pc : SlotAddr := 0x80
  let word := BitVec.ofNat 96 w
  let s := { s with agenda := [.issue 0 0 0 false], ctxs := FMap.set s.ctxs 0 placedCtx }
  let s := s.modPart 0 fun p => { p with ena := true, s2en := false, featack := 0x7F }
  let s := s.mwrite 0x400 64 (placedLine word)
  let s := s.modCore 0 fun k => { k with
    warps := [(0, placedWarp pc)], wgs := [(0, placedWg pc)], icache := FMap.erase k.icache 16
    badLines := FMap.erase k.badLines 16, urgent := [] }
  { s with clusters := FMap.erase s.clusters 0 }

end Sys2Proof.Machine
end

