-- ==== Sys2Proof/Machine/Step.lean ====
section
/-!
DEFINITION. One step of the package: the head of the agenda or the default arbiter's turn, an instruction or an event by
`exec`, and then what the step settles.
-/
namespace Sys2Proof.Machine

/-- The state an answer leaves, settled. -/
def settled (old : State) (a : Answer State) : Answer State :=
  match a with
  | .next s => .next (s.settle old)
  | .fault f => .fault f
  | .refused r => .refused r

/-- An answer, with what the instruction performed counted in its cluster's power estimate (15 R451). -/
def counted (old : State) (i : Instr) (a : Answer State) : Answer State :=
  match a with
  | .next s => .next (old.charged i s)
  | .fault f => .fault f
  | .refused r => .refused r

/-- Issue a fragment: prepare it, and run what its slot holds. -/
def issueTurn (s : State) (cur : Cur) : Answer State :=
  match s.prepare cur with
  | .done t => .next t
  | .run i t => counted t i (exec i t)

/-- Take one turn: an issue is that of a fragment which its slot's arbiter may choose (05 R199, 14 R432). -/
def turn (s : State) (t : Turn) : Answer State :=
  match t with
  | .issue c w f late =>
    if s.mayChoose c w f then issueTurn (s.ageSlot c w f) { core := c, warp := w, frag := f, late := late } else .next s
  | .event i => if i.parts.isNone then counted s i (exec i s) else .next s
  | t => .next (s.other t)

/-- One step (notes/assumptions/3.md). -/
def step (s : State) : Host.Outcome State Fault Refusal :=
  match s.agenda with
  | [] => settled s (turn { s with turns := s.turns + 1 } s.defaultTurn)
  | t :: rest => settled s (turn { s with agenda := rest } t)

/-- The state with an instruction placed where the next step fetches it (notes/assumptions/1.md). -/
def State.withFetchWord (s : State) (_nbits w : Nat) : State := s.placeWord w

end Sys2Proof.Machine
end

