-- ==== Sys2Proof/Safety.lean ====
section
/-!
DEFINITION. The terms that claims use: what a safe run is, which fragment issues, and what may differ between the state
before an instruction and the state after it.
-/
namespace Sys2Proof

/-- The machine goes on from a state. -/
def Runs (s : Machine.State) : Prop := ∃ t, Machine.step s = .next t

/-- The package's memory is in its canonical form. -/
def MemoryOk (s : Machine.State) : Prop := Machine.Memory.wf s.mem = true

namespace Machine

/-- A fragment issues that is not speculative and descends from no speculation record, in a workgroup of its core, with
every outstanding register write of its warp landed. -/
structure Issued (s : State) (i : Iss) : Prop where
  iss : s.iss = some i
  spec : i.spec = false
  sides : i.f.sides = []
  kpend : i.w.kpend = []
  vpend : i.w.vpend = []
  wg : i.wg.isSome = true

/-- Every byte of memory and of every scratchpad reads as before. -/
def SameBytes (s t : State) : Prop :=
  (∀ a, Memory.read t.mem a = Memory.read s.mem a) ∧
    ∀ c a, Memory.read (t.core c).pad a = Memory.read (s.core c).pad a

/-- Nothing differs but one core. -/
def OnlyCore (s t : State) (c : Nat) : Prop :=
  t = { s with cores := t.cores } ∧ ∀ c', c ≠ c' → t.core c' = s.core c'

/-- Nothing differs but one warp of one core. -/
def OnlyWarp (s t : State) (c w : Nat) : Prop :=
  OnlyCore s t c ∧ t.core c = { s.core c with warps := (t.core c).warps } ∧ ∀ w', w ≠ w' → t.warp c w' = s.warp c w'

/-- Nothing differs but one warp and the g registers of its workgroup (05 R181). -/
def OnlyWarpG (s t : State) (c w g : Nat) : Prop :=
  OnlyCore s t c ∧ t.core c = { s.core c with warps := (t.core c).warps, wgs := (t.core c).wgs } ∧
    (∀ w', w ≠ w' → t.warp c w' = s.warp c w') ∧
    (∀ g', g ≠ g' → FMap.get (t.core c).wgs g' = FMap.get (s.core c).wgs g') ∧
    (FMap.get (t.core c).wgs g).map (fun x => { x with g := [] }) =
      (FMap.get (s.core c).wgs g).map fun x => { x with g := [] }

/-- A scalar destination that no mask is: an s register below s61, in an even pair where it is wide, or a single
register of another kind, or none (07 R243, 08 R258). -/
def scalarDst (wide : Bool) (d : Operand) : Prop :=
  match d with
  | .s n => if wide then n.toNat % 2 = 0 ∧ n.toNat < 60 else n.toNat < 61
  | .g _ | .f _ => wide = false
  | .none => True
  | _ => False

/-- Whether a register is none of those that a destination takes. -/
def apart (wide : Bool) (d o : Operand) : Prop :=
  o ≠ d ∧ match wide, d, o with
    | true, .s n, .s m => m.toNat ≠ n.toNat + 1
    | _, _, _ => True

/-- A register holds a value; `none` holds nothing. -/
def Iss.Holds (j : Iss) (wide : Bool) (d : Operand) (v : Dword) : Prop :=
  match d with
  | .none => True
  | _ => if wide then j.s64 d 0 = v else j.s32 d 0 = v.setWidth 32

/-- A scalar instruction has completed: its destination holds the value, SFLAGS the flags, every other scalar register
what it held, and nothing else has changed but the fragment's slot (07 R236, 08 R258). -/
def ScalarDone (s : State) (i : Iss) (wide : Bool) (d : Operand) (v : Dword) (flags : Word) (t : State) : Prop :=
  ∃ j, t.iss = some j ∧ j.f = i.f.finish ∧ j.Holds wide d v ∧ j.w.sflags = flags ∧
    (∀ o, apart wide d o → j.s32 o 0 = i.s32 o 0) ∧
    j.w = { i.w with
      frags := FMap.set i.w.frags i.fi i.f.finish, s := j.w.s, sTrap := j.w.sTrap, f := j.w.f, sflags := flags } ∧
    OnlyWarpG s t i.c i.wi i.w.wg ∧ SameBytes s t

/-- A vector destination of one or two registers: a v register, in an even pair where it is wide, a g register, or none
(07 R243, 08 R262). -/
def vectorDst (wide : Bool) (d : Operand) : Prop :=
  match d with
  | .v n => wide = true → n.toNat % 2 = 0
  | .g _ => wide = false
  | .none => True
  | _ => False

/-- There is room below the live peak for the registers of a destination: it has them, with no operand marked as read
for the last time, or it can allocate them (05 R175). -/
def Iss.room (i : Iss) (lr : BitVec 3) (wide : Bool) (d : Operand) : Prop :=
  (lr = 0 ∧ ∀ n ∈ dstNames d (regsOf wide), FMap.has i.w.v n = true) ∨
    ∀ g, i.wg = some g → i.w.v.length + regsOf wide ≤ g.live

/-- A vector instruction has completed for the lanes of a mask: they hold the value in the destination, and a g register
the value of the highest of them (05 R181, 08 R262); where no operand is marked as read for the last time every other
lane and register holds what it held; SFLAGS and FFLAGS hold given values; nothing else has changed but the fragment's
slot. -/
def VectorDone (s : State) (i : Iss) (lr : BitVec 3) (wide : Bool) (d : Operand) (m : Mask) (r : Nat → Dword)
    (sf ff : Word) (t : State) : Prop :=
  ∃ j, t.iss = some j ∧ j.f = i.f.finish ∧
    (match d with
      | .v n => ∀ l, l < 96 → m.getLsbD l = true →
          (j.w.readV j.f n.toNat).at l = (r l).setWidth 32 ∧
            (wide = true → (j.w.readV j.f (n.toNat + 1)).at l = (r l).extractLsb' 32 32)
      | .g n => ∀ h, highLane m = some h → j.readG n.toNat = (r h).setWidth 32
      | _ => True) ∧
    (lr = 0 → ∀ n l, l < 96 → ¬(m.getLsbD l = true ∧ n ∈ dstNames d (regsOf wide)) →
      (j.w.readV j.f n).at l = (i.w.readV i.f n).at l) ∧
    (∀ o, o ≠ d → j.s32 o 0 = i.s32 o 0) ∧
    j.w = { i.w with
      frags := FMap.set i.w.frags i.fi i.f.finish, v := j.w.v, vTrap := j.w.vTrap, sflags := sf, fflags := ff } ∧
    OnlyWarpG s t i.c i.wi i.w.wg ∧ SameBytes s t

/-- A k register has been written for the lanes of a mask: at once, or where the issue is late as an outstanding write
(05 R173); every other lane and k register holds what it held, and nothing else has changed but the marks of last reads,
SFLAGS, FFLAGS and the fragment's slot. -/
def KDone (s : State) (i : Iss) (n : Nat) (m bits : Mask) (fast : Bool) (sf ff : Word) (t : State) : Prop :=
  ∃ j, t.iss = some j ∧ j.f = i.f.finish ∧
    (if i.late && fast then
      j.w.k = i.w.k ∧ j.w.kpend = [{ frag := i.fi, owner := i.f.mask, k := n, lanes := m, bits := bits &&& m, record := none }]
    else
      j.w.kpend = [] ∧ ∀ n' l, (j.w.readK j.f n').getLsbD l =
        if n' = n ∧ m.getLsbD l = true then bits.getLsbD l else (i.w.readK i.f n').getLsbD l) ∧
    (∀ o, j.s32 o 0 = i.s32 o 0) ∧
    j.w = { i.w with
      frags := FMap.set i.w.frags i.fi i.f.finish, v := j.w.v, vTrap := j.w.vTrap, k := j.w.k, kpend := j.w.kpend
      sflags := sf, fflags := ff } ∧
    OnlyWarpG s t i.c i.wi i.w.wg ∧ SameBytes s t

end Machine

end Sys2Proof
end

