-- ==== Sys2Proof/Certificates/Slice0/Obligations.lean ====
section
/-!
DEFINITION. The statements about the model, each a proposition for the provers. A statement's docstring says which rule of
the spec it formalises; where a clause rests on the model's own choice it names the log entry.
-/
open Sys2Proof Sys2Proof.Machine

namespace Sys2Proof.Claims

/-! The tables of what an instruction computes, by constructor. -/

/-- A scalar integer instruction that sets SFLAGS: its fields, whether D, A, B and C are 64 bits wide, and its operation
(08 R269 to R272). -/
def scalarAlu : Instr → Option (RForm × (Bool × Bool × Bool × Bool) × AluOp)
  | .sadd f => some (f, (f.ty.is64, f.ty.is64, f.ty.is64, f.ty.is64), aluAdd f.ty f.mod.sat)
  | .ssub f => some (f, (f.ty.is64, f.ty.is64, f.ty.is64, f.ty.is64), aluSub f.ty f.mod.sat)
  | .smul f => some (f, (f.ty.is64, f.ty.is64, f.ty.is64, f.ty.is64), aluMul f.ty f.mod.sat)
  | .smulh f => some (f, (f.ty.is64, f.ty.is64, f.ty.is64, f.ty.is64), aluMulh f.ty)
  | .smad f => some (f, (f.ty.is64, f.ty.is64, f.ty.is64, f.ty.is64), aluMad f.ty f.mod.sat)
  | .sdiv f => some (f, (f.ty.is64, f.ty.is64, f.ty.is64, f.ty.is64), aluDiv f.ty)
  | .srem f => some (f, (f.ty.is64, f.ty.is64, f.ty.is64, f.ty.is64), aluRem f.ty)
  | .smin f => some (f, (f.ty.is64, f.ty.is64, f.ty.is64, f.ty.is64), aluMin f.ty)
  | .smax f => some (f, (f.ty.is64, f.ty.is64, f.ty.is64, f.ty.is64), aluMax f.ty)
  | .sand f => some (f, (f.ty.is64, f.ty.is64, f.ty.is64, f.ty.is64), aluAnd f.ty)
  | .sor f => some (f, (f.ty.is64, f.ty.is64, f.ty.is64, f.ty.is64), aluOr f.ty)
  | .sxor f => some (f, (f.ty.is64, f.ty.is64, f.ty.is64, f.ty.is64), aluXor f.ty)
  | .sshl f => some (f, (f.ty.is64, f.ty.is64, false, false), aluShl f.ty f.mod.sat)
  | .sshr f => some (f, (f.ty.is64, f.ty.is64, false, false), aluShr f.ty)
  | .ssra f => some (f, (f.ty.is64, f.ty.is64, false, false), aluSra f.ty)
  | .sbfx f => some (f, (false, false, false, false), aluBfx f.ty)
  | .sbfi f => some (f, (false, false, false, false), aluBfi f.ty)
  | .sclz f => some (f, (false, f.ty.is64, false, false), aluClz f.ty)
  | .spop f => some (f, (false, f.ty.is64, false, false), aluPop f.ty)
  | _ => none

/-- What a scalar integer instruction writes and leaves in SFLAGS: fields, whether D is wide, the value, the flags
(08 R269 to R274). -/
def scalarResult (i : Iss) : Instr → Option (Guard × Bool × Operand × Dword × Word)
  | .scmp f =>
    let a := i.scalarSrc f.ty.is64 f.a 0
    let b := i.scalarSrc f.ty.is64 f.b (imm24 f.ext)
    let fl := if condField f.c < 6 then aluSub f.ty false a b 0 else aluAnd f.ty a b 0
    some (f.guard, false, f.d, if condValues (condField f.c) f.ty a.toNat b.toNat then 1 else 0, fl.flags f.ty i.w.sflags)
  | .ssel f => some (f.guard, f.ty.is64, f.d,
      if condFlags (condField f.c) f.ty.signed i.w.sflags then i.scalarSrc f.ty.is64 f.a 0
      else i.scalarSrc f.ty.is64 f.b (imm24 f.ext), i.w.sflags)
  | .smov f => some (f.guard, f.ty.is64, f.d, i.scalarSrc f.ty.is64 f.a 0, i.w.sflags)
  | .sli f => some (f.guard, f.ty.is64, f.d, if f.ty.signed then f.imm.signExtend 64 else f.imm.setWidth 64, i.w.sflags)
  | .slea f => some (f.guard, true, f.d,
      leaOf f.ty (shiftField f.c) (i.scalarSrc true f.a 0) (i.scalarSrc false f.b (imm24 f.ext)), i.w.sflags)
  | x => (scalarAlu x).map fun p =>
      let r := p.2.2 (i.scalarSrc p.2.1.2.1 p.1.a 0) (i.scalarSrc p.2.1.2.2.1 p.1.b (imm24 p.1.ext))
        (i.scalarSrc p.2.1.2.2.2 p.1.c 0)
      (p.1.guard, p.2.1.1, p.1.d, BitVec.ofInt 64 r.r, r.flags p.1.ty i.w.sflags)

/-- A vector integer instruction of the common form: its fields, the widths of D, A, B and C, and its operation
(08 R275). -/
def vectorAlu : Instr → Option (RForm × (Bool × Bool × Bool × Bool) × AluOp)
  | .vadd f => some (f, (f.ty.is64, f.ty.is64, f.ty.is64, f.ty.is64), aluAdd f.ty f.mod.sat)
  | .vsub f => some (f, (f.ty.is64, f.ty.is64, f.ty.is64, f.ty.is64), aluSub f.ty f.mod.sat)
  | .vmul f => some (f, (f.ty.is64, f.ty.is64, f.ty.is64, f.ty.is64), aluMul f.ty f.mod.sat)
  | .vmulh f => some (f, (f.ty.is64, f.ty.is64, f.ty.is64, f.ty.is64), aluMulh f.ty)
  | .vmad f => some (f, (f.ty.is64, f.ty.is64, f.ty.is64, f.ty.is64), aluMad f.ty f.mod.sat)
  | .vabs f => some (f, (f.ty.is64, f.ty.is64, f.ty.is64, f.ty.is64), aluAbs f.ty f.mod.sat)
  | .vneg f => some (f, (f.ty.is64, f.ty.is64, f.ty.is64, f.ty.is64), aluNeg f.ty f.mod.sat)
  | .vmin f => some (f, (f.ty.is64, f.ty.is64, f.ty.is64, f.ty.is64), aluMin f.ty)
  | .vmax f => some (f, (f.ty.is64, f.ty.is64, f.ty.is64, f.ty.is64), aluMax f.ty)
  | .vand f => some (f, (f.ty.is64, f.ty.is64, f.ty.is64, f.ty.is64), aluAnd f.ty)
  | .vor f => some (f, (f.ty.is64, f.ty.is64, f.ty.is64, f.ty.is64), aluOr f.ty)
  | .vxor f => some (f, (f.ty.is64, f.ty.is64, f.ty.is64, f.ty.is64), aluXor f.ty)
  | .vnot f => some (f, (f.ty.is64, f.ty.is64, f.ty.is64, f.ty.is64), aluNot f.ty)
  | .vshl f => some (f, (f.ty.is64, f.ty.is64, false, false), aluShl f.ty f.mod.sat)
  | .vshr f => some (f, (f.ty.is64, f.ty.is64, false, false), aluShr f.ty)
  | .vsra f => some (f, (f.ty.is64, f.ty.is64, false, false), aluSra f.ty)
  | .vrot f => some (f, (f.ty.is64, f.ty.is64, false, false), aluRot f.ty)
  | .vbfx f => some (f, (false, false, false, false), aluBfx f.ty)
  | .vbfi f => some (f, (false, false, false, false), aluBfi f.ty)
  | .vclz f => some (f, (false, f.ty.is64, false, false), aluClz f.ty)
  | .vpop f => some (f, (false, f.ty.is64, false, false), aluPop f.ty)
  | .vbrev f => some (f, (f.ty.is64, f.ty.is64, f.ty.is64, f.ty.is64), aluBrev f.ty)
  | _ => none

/-- What a vector instruction writes without a flag: guard, last-read marks, whether D is wide, D, and its lanes
(08 R275 to R280, 11 R351). -/
def vectorResult (i : Iss) : Instr → Option (Guard × BitVec 3 × Bool × Operand × (Nat → Dword))
  | .vsel f => some (f.guard, f.lr, f.ty.is64, f.d, fun l =>
      if (i.kBits f.c).getLsbD l then i.src f.ty.is64 f.a 0 l else i.src f.ty.is64 f.b (imm24 f.ext) l)
  | .vmov f => some (f.guard, f.lr, f.ty.is64, f.d, i.src f.ty.is64 f.a 0)
  | .vli f => some (f.guard, f.lr, f.ty.is64, f.d, fun _ =>
      if f.ty.signed then f.imm.signExtend 64 else f.imm.setWidth 64)
  | .vlane f => some (f.guard, f.lr, false, f.d, fun l =>
      BitVec.ofInt 64 (f.ty.wrap ((l : Nat) + f.ty.val (i.src false f.b (imm24 f.ext) l).toNat)))
  | .vdot4 f => some (f.guard, f.lr, false, f.d, fun l =>
      BitVec.ofInt 64 (aluDot4 f.ty f.mod.sat (f.ext.getLsbD 0) (i.src false f.a 0 l) (i.src false f.b 0 l)
        (i.src false f.c 0 l)).r)
  | .vlea f => some (f.guard, f.lr, true, f.d, fun l =>
      leaOf f.ty (shiftField f.c) (i.src true f.a 0 l) (i.src false f.b (imm24 f.ext) l))
  | .bcast f => some (f.guard, f.lr, f.ty.is64, f.d, fun _ =>
      i.otherLane f.ty.is64 f.a (i.scalarSrc false f.b (imm24 f.ext)).toNat)
  | .perm f => some (f.guard, f.lr, f.ty.is64, f.d, fun l => i.otherLane f.ty.is64 f.a (i.src false f.b 0 l).toNat)
  | x => (vectorAlu x).map fun p => (p.1.guard, p.1.lr, p.2.1.1, p.1.d, fun l =>
      BitVec.ofInt 64 (p.2.2 (i.src p.2.1.2.1 p.1.a 0 l) (i.src p.2.1.2.2.1 p.1.b (imm24 p.1.ext) l)
        (i.src p.2.1.2.2.2 p.1.c 0 l)).r)

/-- A float instruction of the common form: its fields and its operation on the bits of A, B and C (09 R295 to R301). -/
def floatOf : Instr → Option (RForm × (Nat → Nat → Nat → FRes))
  | .fadd f => let t := FloatFmt.of f.ty; some (f, fun a b _ => t.add f.mod.rnd.toNat (t.value a) (t.value b))
  | .fsub f => let t := FloatFmt.of f.ty; some (f, fun a b _ => t.add f.mod.rnd.toNat (t.value a) (t.value b).negate)
  | .fmul f => let t := FloatFmt.of f.ty; some (f, fun a b _ => t.mul f.mod.rnd.toNat (t.value a) (t.value b))
  | .ffma f => let t := FloatFmt.of f.ty; some (f, fun a b c => t.fma f.mod.rnd.toNat (t.value a) (t.value b) (t.value c))
  | .fdiv f => let t := FloatFmt.of f.ty; some (f, fun a b _ => t.div f.mod.rnd.toNat (t.value a) (t.value b))
  | .fmin f => some (f, fun a b _ => (FloatFmt.of f.ty).minMax false a b)
  | .fmax f => some (f, fun a b _ => (FloatFmt.of f.ty).minMax true a b)
  | .fclass f => some (f, fun a _ _ => { bits := (FloatFmt.of f.ty).classOf a, flags := 0 })
  | .frcp f => let t := FloatFmt.of f.ty; some (f, fun a _ _ => t.rcp (t.value a))
  | .frsq f => let t := FloatFmt.of f.ty; some (f, fun a _ _ => t.rsq (t.value a))
  | .fsqrt f => let t := FloatFmt.of f.ty; some (f, fun a _ _ => t.sqrt f.mod.rnd.toNat (t.value a))
  | .fexp2 f => let t := FloatFmt.of f.ty; some (f, fun a _ _ => t.exp2 (t.value a))
  | .flog2 f => let t := FloatFmt.of f.ty; some (f, fun a _ _ => t.log2 (t.value a))
  | .fsin f => let t := FloatFmt.of f.ty; some (f, fun a _ _ => t.trig false (t.value a))
  | .fcos f => let t := FloatFmt.of f.ty; some (f, fun a _ _ => t.trig true (t.value a))
  | .ftanh f => let t := FloatFmt.of f.ty; some (f, fun a _ _ => t.tanh (t.value a))
  | .frnd f => let t := FloatFmt.of f.ty; some (f, fun a _ _ => t.rint f.mod.rnd.toNat (t.value a) a)
  | _ => none

/-- What a float instruction gives in each lane, with its flags: the fields, the widths, and the lanes' results for a
mask of active lanes (09 R295 to R304). -/
def floatResult (i : Iss) : Instr → Option (RForm × Bool × (Mask → Nat → FRes))
  | .fscale f => let t := FloatFmt.of f.ty
    some (f, false, fun _ l => t.scale f.mod.rnd.toNat (t.value (i.fsrc f.ty f.a f.mod.absa f.mod.nega 0 l))
      (toSigned 32 (i.src false f.b (imm24 f.ext) l).toNat))
  | .fcvt f =>
    let sty := Ty.ofCode (f.ext.extractLsb' 0 4)
    some (f, f.ty.is64, fun _ l => convertOp f.ty sty f.mod.rnd.toNat (i.src sty.is64 f.a 0 l) f.mod.absa f.mod.nega)
  | .fxpk f =>
    some (f, false, fun m l => packLane (f.ext.extractLsb' 0 4).toNat (blockLen (f.ext.extractLsb' 4 2).toNat) m
      (fun x => (FloatFmt.of f.ty).value (i.fsrc f.ty f.a false false 0 x)) l)
  | .fxup f =>
    let m := (f.ext.extractLsb' 0 4).toNat
    some (f, false, fun _ l =>
      let a := (i.src false f.a 0 l).toNat
      (FloatFmt.of f.ty).unpack f.mod.rnd.toNat m (bitsAt a 8 8) (toSigned m a))
  | x => (floatOf x).map fun p => (p.1, false, fun _ l =>
      p.2 (i.fsrc p.1.ty p.1.a p.1.mod.absa p.1.mod.nega 0 l) (i.fsrc p.1.ty p.1.b p.1.mod.absb p.1.mod.negb p.1.ext l)
        (i.fsrc p.1.ty p.1.c false p.1.mod.negc 0 l))

/-- The FFLAGS bits that the lanes of a mask raise (09 R286). -/
def raised (m : Mask) (r : Nat → FRes) : Word :=
  (List.range 5).foldl (fun x b =>
    if (lanesOf m).any fun l => (r l).flags.testBit b then x ||| BitVec.ofNat 32 (2 ^ b) else x) 0

/-- A predicate instruction of the active lanes: its fields and the bits it gives (11 R352). -/
def predicateOf (i : Iss) : Instr → Option (RForm × Mask)
  | .kand f => some (f, i.kArg f.a f.mod.nega &&& i.kArg f.b f.mod.negb)
  | .kor f => some (f, i.kArg f.a f.mod.nega ||| i.kArg f.b f.mod.negb)
  | .kxor f => some (f, i.kArg f.a f.mod.nega ^^^ i.kArg f.b f.mod.negb)
  | .knot f => some (f, ~~~(i.kBits f.a))
  | .kmov f => some (f, i.kBits f.a)
  | .kfrom f => some (f, match f.a with
      | .s n => maskFrom (i.w.readS i.f n.toNat) (i.w.readS i.f (n.toNat + 1)) (i.w.readS i.f (n.toNat + 2))
      | _ => 0)
  | _ => none

/-- A mask has been written to three s registers, and no other s register has changed (11 R349, R352). -/
def PlanesDone (s : State) (i : Iss) (n : Nat) (m : Mask) (t : State) : Prop :=
  ∃ j, t.iss = some j ∧ j.f = i.f.finish ∧ (∀ q, q < 3 → j.w.readS j.f (n + q) = maskWord m q) ∧
    (∀ q, q < n ∨ n + 3 ≤ q → j.w.readS j.f q = i.w.readS i.f q) ∧
    j.w = { i.w with
      frags := FMap.set i.w.frags i.fi i.f.finish, s := j.w.s, sTrap := j.w.sTrap, v := j.w.v, vTrap := j.w.vTrap } ∧
    OnlyWarp s t i.c i.wi ∧ SameBytes s t

end Sys2Proof.Claims

open Sys2Proof.Claims

/-! Classes 0 and 1: the integer instructions. -/

/-- 08 R269 to R274, R265, 07 R236: every scalar integer instruction whose guard lets it act completes: D holds its result, SFLAGS
its flags where it sets them, and nothing else changes. -/
def Sys2Proof.Claims.ScalarActs : Prop :=
  ∀ (s : State) (i : Iss) (x : Instr) (g : Guard) (wide : Bool) (d : Operand) (v : Dword) (fl : Word),
    Issued s i → scalarResult i x = some (g, wide, d, v, fl) → scalarDst wide d → i.scalarGo g = true →
    ∃ t, exec x s = .next t ∧ ScalarDone s i wide d v fl t

/-- 07 R236: a scalar integer instruction none of whose lanes passes the guard only moves the fragment to the next slot. -/
def Sys2Proof.Claims.ScalarSkips : Prop :=
  ∀ (s : State) (i : Iss) (x : Instr) (g : Guard) (wide : Bool) (d : Operand) (v : Dword) (fl : Word),
    Issued s i → scalarResult i x = some (g, wide, d, v, fl) → i.scalarGo g = false →
    ∃ t, exec x s = .next t ∧ ScalarDone s i false .none 0 i.w.sflags t

/-- The lanes that a scalar result leaves a fragment which it writes as a mask: those of the words it writes (05 R172). -/
def Sys2Proof.Claims.keepOf (wide : Bool) (n : Nat) (v : Dword) : Mask :=
  let word (q : Nat) : Word :=
    if n ≤ q ∧ q < n + regsOf wide then (v >>> (32 * (q - n))).setWidth 32 else ~~~0
  maskFrom (word 61) (word 62) (word 63)

/-- 05 R172: a scalar result in s61, s62 or s63 takes the lanes it does not name from the fragment. Where it takes none nothing but
the flags and the other register of a pair changes; without a record it traps MASKWRITE; without a free entry it stands; and else the
lanes arrive at the record in the lowest free entry, and a fragment left with none frees its own. -/
def Sys2Proof.Claims.MaskWrites : Prop :=
  ∀ (s : State) (i : Iss) (x : Instr) (g : Guard) (wide : Bool) (n : BitVec 6) (v : Dword) (fl : Word),
    Issued s i → scalarResult i x = some (g, wide, .s n, v, fl) → i.scalarGo g = true → (wide = true → n.toNat % 2 = 0) →
    61 < n.toNat + regsOf wide →
    let keep := keepOf wide n.toNat v
    let gone := i.f.mask &&& ~~~keep
    (gone = 0 → ∃ t j, exec x s = .next t ∧ t.iss = some j ∧ j.f = i.f.finish ∧ j.w.sflags = fl ∧ SameBytes s t ∧
      ∀ q : BitVec 6, q ≠ n → j.s32 (.s q) 0 = i.s32 (.s q) 0) ∧
    (gone ≠ 0 → i.f.rcd = none → exec x s = .next (s.takeTrap i.c i.wi i.fi
      (i.trapReq Cause.illegalConvergence 2 i.f.mask 0 0))) ∧
    ∀ r y, gone ≠ 0 → i.f.rcd = some r → FMap.get i.w.recs r = some y →
      (i.w.freeEntry = none → ∃ t j, exec x s = .next t ∧ t.iss = some j ∧ j.f = i.f ∧ j.w = i.w ∧ SameBytes s t) ∧
      ∀ e, i.w.freeEntry = some e → FMap.sorted i.w.frags = true →
        subMask (y.expect &&& i.w.live) (y.arrive ||| gone) = false →
        ∃ t w o, exec x s = .next t ∧ t.warp i.c i.wi = some w ∧ SameBytes s t ∧
          FMap.get w.recs r = some { y with arrive := y.arrive ||| gone } ∧ FMap.get w.frags e = some o ∧
          o.state = .waiting ∧ o.wait = .record ∧ o.pc = y.addr ∧ o.mask = gone ∧ o.rcd = some r ∧
          FMap.get w.frags i.fi = if i.f.mask &&& keep = 0 then none else some { i.f.finish with mask := i.f.mask &&& keep }

/-- 07 R236, 08 R269 to R274, 05 R172: every scalar integer instruction completes: with its result where its guard lets it act, and
with no effect but the next slot where it does not; a result in a mask register takes lanes from the fragment, or traps.
The model's choices in it: notes/assumptions/133.md. -/
def Obligations.ScalarCompletes : Prop := Claims.ScalarActs ∧ Claims.ScalarSkips ∧ Claims.MaskWrites

/-- 08 R275 to R280, R262, 11 R351: every vector integer instruction and bcast and perm completes for its active lanes. -/
def Sys2Proof.Claims.VectorActs : Prop :=
  ∀ (s : State) (i : Iss) (x : Instr) (g : Guard) (lr : BitVec 3) (wide : Bool) (d : Operand) (r : Nat → Dword),
    Issued s i → vectorResult i x = some (g, lr, wide, d, r) → vectorDst wide d → i.room lr wide d →
    ∃ t, exec x s = .next t ∧ VectorDone s i lr wide d (i.active g) r i.w.sflags i.w.fflags t

/-- 05 R177: a first write of a register that would give the warp more than its live peak traps LIVE_PEAK with the register's number
for its active lanes: the first of a pair's registers for which there is no room. -/
def Sys2Proof.Claims.VectorPeaks : Prop :=
  ∀ (s : State) (i : Iss) (x : Instr) (g : Guard) (wide : Bool) (n : BitVec 6) (r : Nat → Dword) (wg : Wg) (q : Nat),
    Issued s i → vectorResult i x = some (g, 0, wide, .v n, r) → vectorDst wide (.v n) → i.active g ≠ 0 → i.wg = some wg →
    (i.f.trm = true → n.toNat < 56) →
    ((dstNames (.v n) (regsOf wide)).filter fun y => !FMap.has i.w.v y)[wg.live - i.w.v.length]? = some q →
    exec x s = .next (s.takeTrap i.c i.wi i.fi (i.trapReq Cause.accessViolation 0x10 (i.active g) (BitVec.ofNat 32 q) 0))

/-- 05 R177, 08 R275 to R280, R262, 11 R351: every vector integer instruction and bcast and perm completes for its active lanes, or
traps where the result would pass the warp's live peak. -/
def Obligations.VectorCompletes : Prop := Claims.VectorActs ∧ Claims.VectorPeaks

/-- 09 R286, R295 to R304: every float instruction with a vector result completes for its active lanes and raises their
flags in FFLAGS. -/
def Obligations.FloatCompletes : Prop :=
  ∀ (s : State) (i : Iss) (x : Instr) (f : RForm) (wide : Bool) (r : Mask → Nat → FRes),
    Issued s i → floatResult i x = some (f, wide, r) → vectorDst wide f.d → i.room f.lr wide f.d →
    ∃ t, exec x s = .next t ∧
      VectorDone s i f.lr wide f.d (i.active f.guard) (fun l => BitVec.ofNat 64 (r (i.active f.guard) l).bits) i.w.sflags
        (i.w.fflags ||| raised (i.active f.guard) (r (i.active f.guard))) t

/-- 08 R276, 09 R297, 05 R173: vcmp and fcmp write the bits of a k register for their active lanes. -/
def Obligations.CompareCompletes : Prop :=
  (∀ (s : State) (i : Iss) (f : RForm) (n : BitVec 4), Issued s i → f.d = .k n →
    ∃ t, exec (.vcmp f) s = .next t ∧
      KDone s i n.toNat (i.active f.guard)
        (maskOf fun l => (i.active f.guard).getLsbD l && condValues (condField f.c) f.ty (i.src f.ty.is64 f.a 0 l).toNat
          (i.src f.ty.is64 f.b (imm24 f.ext) l).toNat) true i.w.sflags i.w.fflags t) ∧
  ∀ (s : State) (i : Iss) (f : RForm) (n : BitVec 4), Issued s i → f.d = .k n →
    ∃ t, exec (.fcmp f) s = .next t ∧
      let v (l : Nat) := fcmpOp (f.c.code.toNat % 16)
        ((FloatFmt.of f.ty).value (i.fsrc f.ty f.a f.mod.absa f.mod.nega 0 l))
        ((FloatFmt.of f.ty).value (i.fsrc f.ty f.b f.mod.absb f.mod.negb f.ext l))
      KDone s i n.toNat (i.active f.guard) (maskOf fun l => (i.active f.guard).getLsbD l && (v l).1) true i.w.sflags
        (i.w.fflags ||| raised (i.active f.guard) fun l => { bits := 0, flags := if (v l).2 then flagIV else 0 }) t

/-- 11 R352: kand, kor, kxor, knot, kmov and kfrom write the bits of a k register for their active lanes, kpop and kfst an
s register and Z, kto three s registers. -/
def Obligations.PredicateCompletes : Prop :=
  (∀ (s : State) (i : Iss) (x : Instr) (f : RForm) (bits : Mask) (n : BitVec 4),
    Issued s i → predicateOf i x = some (f, bits) → f.d = .k n → i.active f.guard ≠ 0 →
    ∃ t, exec x s = .next t ∧ KDone s i n.toNat (i.active f.guard) bits true i.w.sflags i.w.fflags t) ∧
  (∀ (s : State) (i : Iss) (f : RForm), Issued s i → scalarDst false f.d →
    let m := i.kBits f.a &&& i.active f.guard
    (∃ t, exec (.kpop f) s = .next t ∧
      ScalarDone s i false f.d (BitVec.ofNat 64 (countLanes m)) (setZ i.w.sflags (countLanes m == 0)) t) ∧
    ∃ t, exec (.kfst f) s = .next t ∧
      ScalarDone s i false f.d (BitVec.ofNat 64 ((lowLane m).getD 96)) (setZ i.w.sflags ((lowLane m).getD 96 == 96)) t) ∧
  ∀ (s : State) (i : Iss) (f : RForm) (n : BitVec 6), Issued s i → f.d = .s n → n.toNat < 59 →
    ∃ t, exec (.kto f) s = .next t ∧ PlanesDone s i n.toNat (i.kBits f.a) t

/-- 11 R347 to R350, 05 R191, R197: a collective that holds every live lane is performed: shfl, vote, bal, redux and scan. -/
def Sys2Proof.Claims.CollectivesAct : Prop :=
  (∀ (s : State) (i : Iss) (f : RForm), Issued s i → i.f.mask = i.w.live → vectorDst f.ty.is64 f.d → i.room f.lr f.ty.is64 f.d →
    ∃ t, exec (.shfl f) s = .next t ∧
      VectorDone s i f.lr f.ty.is64 f.d i.w.live
        (fun l => i.src f.ty.is64 f.a 0 (shflLane (f.c.code.toNat % 4) (segLen (f.c.code.toNat / 4 % 8)) l
          (i.src false f.b (imm24 f.ext) l).toNat)) i.w.sflags i.w.fflags t) ∧
  (∀ (s : State) (i : Iss) (f : RForm), Issued s i → i.f.mask = i.w.live →
    let r := voteOf (f.c.code.toNat % 4) (i.kBits f.a) i.w.live
    (∀ n, f.d = .k n → ∃ t, exec (.vote f) s = .next t ∧
      KDone s i n.toNat (~~~(0 : Mask)) (if r then i.w.live else 0) true (setZ i.w.sflags !r) i.w.fflags t) ∧
    (scalarDst false f.d → ∃ t, exec (.vote f) s = .next t ∧
      ScalarDone s i false f.d (if r then 1 else 0) (setZ i.w.sflags !r) t)) ∧
  (∀ (s : State) (i : Iss) (f : RForm), Issued s i → i.f.mask = i.w.live →
    let m := maskOf fun l => i.w.live.getLsbD l &&
      (i.src false f.a 0 l).getLsbD ((i.scalarSrc false f.b (imm24 f.ext)).toNat % 32)
    (∀ n, f.d = .k n → ∃ t, exec (.bal f) s = .next t ∧
      KDone s i n.toNat (~~~(0 : Mask)) m true i.w.sflags i.w.fflags t) ∧
    ∀ n, f.d = .s n → n.toNat < 59 → ∃ t, exec (.bal f) s = .next t ∧ PlanesDone s i n.toNat m t) ∧
  (∀ (s : State) (i : Iss) (f : RForm), Issued s i → i.f.mask = i.w.live → vectorDst f.ty.is64 f.d → i.room f.lr f.ty.is64 f.d →
    let r := reduceOf (reduceOp f) f.ty f.mod.sat f.mod.rnd.toNat
      ((lanesOf (i.selected f)).map fun l => (i.src f.ty.is64 f.a 0 l).toNat)
    ∃ t, exec (.redux f) s = .next t ∧
      VectorDone s i f.lr f.ty.is64 f.d i.w.live (fun _ => BitVec.ofNat 64 r.bits) (setE i.w.sflags (i.selected f == 0))
        (i.w.fflags ||| BitVec.ofNat 32 r.flags) t) ∧
  (∀ (s : State) (i : Iss) (f : RForm) (n : BitVec 6), Issued s i → i.f.mask = i.w.live → f.d = .s n →
    scalarDst f.ty.is64 f.d →
    let r := reduceOf (reduceOp f) f.ty f.mod.sat f.mod.rnd.toNat
      ((lanesOf (i.selected f)).map fun l => (i.src f.ty.is64 f.a 0 l).toNat)
    ∃ t j, exec (.redux f) s = .next t ∧ t.iss = some j ∧ j.f = i.f.finish ∧
      j.Holds f.ty.is64 f.d (BitVec.ofNat 64 r.bits) ∧ j.w.sflags = setE i.w.sflags (i.selected f == 0) ∧
      j.w.fflags = i.w.fflags ||| BitVec.ofNat 32 r.flags ∧ (∀ o, apart f.ty.is64 f.d o → j.s32 o 0 = i.s32 o 0) ∧
      OnlyWarp s t i.c i.wi ∧ SameBytes s t) ∧
  ∀ (s : State) (i : Iss) (f : RForm), Issued s i → i.f.mask = i.w.live → vectorDst f.ty.is64 f.d → i.room f.lr f.ty.is64 f.d →
    let r (l : Nat) := reduceOf (reduceOp f) f.ty f.mod.sat f.mod.rnd.toNat
      (((lanesOf (i.selected f)).filter fun j => decide (j < l) || (j == l && !f.ext.getLsbD 4)).map fun j =>
        (i.src f.ty.is64 f.a 0 j).toNat)
    ∃ t, exec (.scan f) s = .next t ∧
      VectorDone s i f.lr f.ty.is64 f.d (i.selected f) (fun l => BitVec.ofNat 64 (r l).bits)
        (setE i.w.sflags (i.selected f == 0))
        ((lanesOf (i.selected f)).foldl (fun x l => x ||| BitVec.ofNat 32 (r l).flags) i.w.fflags) t

/-- 05 R191, R192: a collective that does not hold every live lane waits where the other fragments are parked or replays,
and is an ILLEGAL_CONVERGENCE trap otherwise. -/
def Sys2Proof.Claims.CollectivesWait : Prop :=
  ∀ (s : State) (i : Iss) (f : RForm) (x : Instr), Issued s i → x ∈ [Instr.shfl f, .vote f, .bal f, .redux f, .scan f] →
    i.f.mask ≠ i.w.live →
    ((∀ p ∈ i.w.frags, p.1 = i.fi ∨ p.2.state = .parked ∨ p.2.rpl = true) →
      exec x s = .next (s.setWarp i.c i.wi
        (i.w.setFrag i.fi { i.f with state := .waiting, wait := .collective, age := 0 }))) ∧
    ((∃ p ∈ i.w.frags, p.1 ≠ i.fi ∧ p.2.state ≠ .parked ∧ p.2.rpl = false) →
      exec x s = .next (s.takeTrap i.c i.wi i.fi
        (i.trapReq Cause.illegalConvergence 1 i.f.mask (BitVec.ofNat 32 i.w.frags.length) 0)))

/-- 05 R190 to R192, 11 R347 to R352: a collective completes for a fragment of every live lane, and otherwise waits or traps.
The model's choices in it: notes/assumptions/133.md. -/
def Obligations.CollectiveCompletes : Prop := Claims.CollectivesAct ∧ Claims.CollectivesWait

namespace Sys2Proof.Claims

/-! What an access to memory touches, computed with the functions that its meaning uses. -/

/-- The warp owes nothing: no quantum, no discarded quantum, no compensation (04 R147, R148). -/
def Quiet (w : Warp) : Prop := w.quanta = [] ∧ w.lostQuanta = [] ∧ w.comps = []

/-- No store or atomic that the warp issued before this release is still queued (04 R149). -/
def NoneQueued (i : Iss) : Prop := i.queueBefore (i.f.behind.getD i.w.queued) = false

/-- Where an ORD is a release, it has nothing to apply and nothing to wait for. -/
def Released (i : Iss) (ord : BitVec 2) : Prop := ordRel ord = true → Quiet i.w ∧ NoneQueued i

/-- A byte of memory that the parts of an access store to, or that holds a D bit their write sets (01 R31). -/
def touched (l : List Piece) (a : Nat) : Prop :=
  ∃ p ∈ l, (∃ pa, p.loc = .global pa ∧ pa ≤ a ∧ a < pa + p.bytes) ∨ ∃ d ∈ p.dirty, d ≤ a ∧ a < d + 8

/-- A byte of a core's scratchpad that the parts of an access store to. -/
def touchedPad (k : Core) (l : List Piece) (a : Nat) : Prop :=
  ∃ p ∈ l, ∃ slot off, p.loc = .folio slot off ∧ (k.folio slot).padAddr off ≤ a ∧ a < (k.folio slot).padAddr off + p.bytes

/-- Every byte of memory and of every scratchpad outside an access reads as before. -/
def OutsideSame (s t : State) (c : Nat) (l : List Piece) : Prop :=
  (∀ a, ¬touched l a → Memory.read t.mem a = Memory.read s.mem a) ∧
    (∀ a, ¬touchedPad (s.core c) l a → Memory.read (t.core c).pad a = Memory.read (s.core c).pad a) ∧
    ∀ c' a, c ≠ c' → Memory.read (t.core c').pad a = Memory.read (s.core c').pad a

/-- The parts of an access in the order in which they are performed, each with its lane and its place in the lane's value. -/
def partsOf (go : List (Nat × List Piece)) : List (Nat × Nat × Piece) :=
  go.flatMap fun l => (l.2.foldl (fun (a : Nat × List (Nat × Nat × Piece)) p => (a.1 + p.bytes, a.2 ++ [(l.1, a.1, p)])) (0, [])).2

/-- None of some later parts writes a byte of a part. -/
def Kept (k : Core) (p : Piece) (later : List Piece) : Prop :=
  match p.loc with
  | .global pa => ∀ x, pa ≤ x → x < pa + p.bytes → ¬touched later x
  | .folio slot o => ∀ x, (k.folio slot).padAddr o ≤ x → x < (k.folio slot).padAddr o + p.bytes → ¬touchedPad k later x

/-- A part of an access, of whose bytes no later part writes any. -/
def LastWrite (k : Core) (go : List (Nat × List Piece)) (l off : Nat) (p : Piece) : Prop :=
  ∃ a b, partsOf go = a ++ (l, off, p) :: b ∧ Kept k p (b.map (·.2.2))

/-- Every lane of an access passes its checks; a lane whose folio's claim is lost makes none, and loads zero
(10 R307, 02 R71). -/
def Granted (outs : List (Nat × LaneOut)) : Prop := ∀ o ∈ outs, (∃ l, o.2 = LaneOut.go l) ∨ o.2 = .gone

/-- Nothing keeps an access in a class from being performed now: its lines have room in the line class table (03 R120), a class
below urgent has a grant (15 R455), and no pending quantum of the warp lies on its bytes (04 R147). -/
structure Free (s : State) (i : Iss) (acc : Acc) (bulk : Option Nat) (outs : List (Nat × LaneOut)) : Prop where
  lines : i.core.linesFit (requestLines (goLanes outs)) = true
  grant : s.waitsGrant i.c acc bulk (allPieces (goLanes outs)) = false
  quanta : ∀ q ∈ i.w.quanta, ∀ p ∈ allPieces (goLanes outs), q.loc.overlaps q.bytes p.loc p.bytes = false

/-- The issuing fragment has gone on to the next slot, with its vector banks and what is outstanding on them, k registers and s
registers the only ones of its warp that may differ; elsewhere only the bytes charged to clusters (15 R455), the waits that end
(17 R495) and what memory holds may. -/
def Moved (s : State) (i : Iss) (j : Iss) (t : State) : Prop :=
  t.iss = some j ∧ j.f = i.f.finish ∧
    j.w = { i.w with
      frags := FMap.set i.w.frags i.fi i.f.finish, v := j.w.v, vTrap := j.w.vTrap, vpend := j.w.vpend, k := j.w.k
      s := j.w.s, sTrap := j.w.sTrap } ∧
    t.parts = s.parts ∧ t.ctxs = s.ctxs ∧ t.launches = s.launches ∧ t.cur = s.cur ∧
    (∀ c, t.cluster c = { s.cluster c with charge := (t.cluster c).charge }) ∧
    (∀ w', i.wi ≠ w' → t.warp i.c w' = s.warp i.c w') ∧ (t.core i.c).wgs = (s.core i.c).wgs ∧
    (t.core i.c).folios = (s.core i.c).folios ∧ ∀ c', i.c ≠ c' → t.core c' = s.core c'

/-- The issuing fragment waits at its instruction. -/
def Waits (i : Iss) (w : Wait) (t : State) : Prop :=
  ∃ j, t.iss = some j ∧ j.f = { i.f with state := .waiting, wait := w, age := 0 }

/-- A v register holds, in each active lane, a word of a value of several words. -/
def HoldsWords (j : Iss) (n count : Nat) (m : Mask) (val : Nat → Nat) : Prop :=
  ∀ q l, q < count → l < 96 → m.getLsbD l = true →
    (j.w.readV j.f (n + q)).at l = BitVec.ofNat 32 (val l / 2 ^ (32 * q))

/-- A late result of several words for the lanes of a mask: the registers hold it, or, where the issue is late, its writes are
outstanding (05 R178, R180). -/
def Lands (i j : Iss) (n count : Nat) (m : Mask) (val : Nat → Nat) : Prop :=
  if i.late = true ∧ m ≠ 0 then
    ∀ q l, q < count → l < 96 → m.getLsbD l = true → ∃ p ∈ j.w.vpend,
      p.name = i.f.vName (n + q) ∧ p.lanes = m ∧ p.record = none ∧ p.val.at l = BitVec.ofNat 32 (val l / 2 ^ (32 * q))
  else HoldsWords j n count m val

/-- There is room for some v registers. -/
def roomFor (i : Iss) (count : Nat) : Prop := ∀ g, i.wg = some g → i.w.v.length + count ≤ g.live

/-- Every lane of an access. -/
def everyLane (outs : List (Nat × LaneOut)) : Mask := lanesWhere outs fun _ => true

end Sys2Proof.Claims

/-! Class 3: memory. -/

/-- 10 R310 to R312, 03 R95: a load whose lanes all pass their checks completes: D holds the loaded values, extended, and
no byte of memory or scratchpad changes. -/
def Sys2Proof.Claims.LoadActs : Prop :=
  (∀ (s : State) (i : Iss) (f : MForm) (n : BitVec 6), Issued s i → f.d = .v n →
    let outs := s.probes i f .load f.bytes (i.active f.guard)
    let r := (s.setCore i.c i.begin).loadLanes i f.scope.toNat (i.remaining (goLanes outs))
    Granted outs → Free s i .load (plainClass f) outs → i.splits f outs = false →
    s.poisoned i.c f.scope.toNat (allPieces (goLanes outs)) = false → roomFor i (regsFor f.bytes) →
    ∃ t j, exec (.ld f) s = .next t ∧ Moved s i j t ∧ SameBytes s t ∧
      Lands i j n.toNat (regsFor f.bytes) (everyLane outs)
        fun l => extendLoad f.bytes f.sx (i.joined l (FMap.getD r.1 l 0))) ∧
  ∀ (s : State) (i : Iss) (f : MForm) (n : BitVec 6), Issued s i → f.d = .s n → n.toNat + regsFor f.bytes ≤ 61 →
    (i.scalarGo f.guard = true →
      let outs := s.scalarProbe i f .load
      let r := (s.setCore i.c i.begin).loadLanes i f.scope.toNat (i.remaining (goLanes outs))
      Granted outs → Free s i .load (plainClass f) outs → i.splits f outs = false →
      s.poisoned i.c f.scope.toNat (allPieces (goLanes outs)) = false →
      ∃ t j, exec (.lds f) s = .next t ∧ Moved s i j t ∧ SameBytes s t ∧
        ∀ q, q < regsFor f.bytes → j.w.readS j.f (n.toNat + q) = BitVec.ofNat 32
          (extendLoad f.bytes f.sx (i.joined (i.scalarLane f.guard) (FMap.getD r.1 (i.scalarLane f.guard) 0)) / 2 ^ (32 * q))) ∧
    (i.scalarGo f.guard = false → ∃ t j, exec (.lds f) s = .next t ∧ Moved s i j t ∧ SameBytes s t ∧
      ∀ o, j.s32 o 0 = i.s32 o 0)

/-- 03 R95: a load of a part at .pk or .sy is the bytes of memory; at a narrower scope it is the copy that the core's data
cache holds, or the bytes of memory, and the cache then holds their line. -/
def Sys2Proof.Claims.LoadedPart : Prop :=
  ∀ (s : State) (c scope : Nat) (p : Piece) (pa : Nat), p.loc = .global pa →
    (3 ≤ scope → (s.loadPiece c scope p).1 = s.mread pa p.bytes) ∧
    (scope ≤ 2 → ∀ line, FMap.get (s.core c).cdc (pa / 64) = some line →
      (s.loadPiece c scope p).1 = leOf ((line.drop (pa % 64)).take p.bytes)) ∧
    (scope ≤ 2 → FMap.get (s.core c).cdc (pa / 64) = none →
      (s.loadPiece c scope p).1 = s.mread pa p.bytes ∧
        FMap.get ((s.loadPiece c scope p).2.core c).cdc (pa / 64) = some (s.lineBytes (pa / 64)))

/-- 04 R130: a load of 16 bytes whose halves are performed apart keeps the lower ones and stands at its instruction for the
upper ones. -/
def Sys2Proof.Claims.LoadHalves : Prop :=
  ∀ (s : State) (i : Iss) (f : MForm), Issued s i →
    let outs := s.probes i f .load f.bytes (i.active f.guard)
    let low := (goLanes outs).map fun l => (l.1, l.2.map Piece.low)
    i.splits f outs = true → s.budgetSpent i.c = false → i.w.quanta = [] →
    s.poisoned i.c f.scope.toNat (allPieces (goLanes outs)) = false →
    ∃ t j, exec (.ld f) s = .next t ∧ t.iss = some j ∧ SameBytes s t ∧
      j.f = { i.f with half := (s.loadLanes i f.scope.toNat low).1 } ∧ j.w = { i.w with frags := j.w.frags }

/-- 03 R95, 10 R310 to R312, R317: the loads complete with the values their parts give, and a part's value is what its scope reads.
The model's choices in it: notes/assumptions/122.md, notes/assumptions/138.md. -/
def Obligations.LoadCompletes : Prop := Claims.LoadActs ∧ Claims.LoadedPart ∧ Claims.LoadHalves

/-- 10 R310 to R312, 04 R129, 01 R31: a store whose lanes all pass their checks completes: the bytes of each part that no later part
writes hold its lane's value, and no byte outside the stored ones and the D bits changes. A scalar store that no lane passes the
guard of stores nothing. -/
def Obligations.StoreCompletes : Prop :=
  (∀ (s : State) (i : Iss) (f : MForm), Issued s i → Released i f.ord →
    let outs := s.probes i f .store f.bytes (i.active f.guard)
    let go := i.remaining (goLanes outs)
    Granted outs → Free s i .store (plainClass f) outs → i.splits f outs = false →
    ∃ t j, exec (.st f) s = .next t ∧ Moved s i j t ∧ OutsideSame s t i.c (allPieces go) ∧
      ∀ l off p, LastWrite i.core go l off p →
        t.locRead i.c p.loc p.bytes = i.unstored (i.words f.c (regsFor f.bytes)) l / 2 ^ (8 * off) % 2 ^ (8 * p.bytes)) ∧
  ∀ (s : State) (i : Iss) (f : MForm), Issued s i → Released i f.ord →
    (i.scalarGo f.guard = true →
      let outs := s.scalarProbe i f .store
      let go := i.remaining (goLanes outs)
      Granted outs → Free s i .store (plainClass f) outs → i.splits f outs = false →
      ∃ t j, exec (.sts f) s = .next t ∧ Moved s i j t ∧ OutsideSame s t i.c (allPieces go) ∧
        ∀ l off p, LastWrite i.core go l off p →
          t.locRead i.c p.loc p.bytes = i.unstored (i.words f.c (regsFor f.bytes)) l / 2 ^ (8 * off) % 2 ^ (8 * p.bytes)) ∧
    (i.scalarGo f.guard = false → ∃ t j, exec (.sts f) s = .next t ∧ Moved s i j t ∧ SameBytes s t)

/-- 10 R313 to R315, 04 R129: an atomic whose lanes pass their checks completes: D holds the values read and the bytes the new
values, lane after lane; of one lane, D holds the value the bytes had and the bytes hold the new one. No other byte but the D
bits changes. -/
def Sys2Proof.Claims.AtomicActs : Prop :=
  ∀ (s : State) (i : Iss) (f : MForm), Issued s i → Released i f.ord → f.use ≠ 4 →
    let outs := s.probes i f .atomic (if f.aop = 7 then 2 * f.bytes else f.bytes) (i.active f.guard)
    let count := regsFor f.bytes
    let c := i.words f.c count
    let c1 := i.words (Operand.plus f.c count) count
    let r := (s.setCore i.c i.begin).atomLanes i.c f (goLanes outs) c c1
    Granted outs → Free s i .atomic none outs → i.lockedBank (i.padKeys f (goLanes outs)) = none → roomFor i count →
    ∃ t j, exec (.atom f) s = .next t ∧ Moved s i j t ∧ SameBytes r.2 t ∧ OutsideSame s t i.c (allPieces (goLanes outs)) ∧
      (∀ n, f.d = .v n → Lands i j n.toNat count (everyLane outs) fun l => FMap.getD r.1 l 0) ∧
      ∀ l p, outs = [(l, .go [p])] → l < 96 →
        (∀ pa d, p.loc = .global pa → d ∈ p.dirty → d + 8 ≤ pa ∨ pa + p.bytes ≤ d) →
        let old := s.locRead i.c p.loc p.bytes
        t.locRead i.c p.loc p.bytes = aopValue f.aop.toNat f.sx p.bytes old (c l) (c1 l) % 2 ^ (8 * p.bytes) ∧
          ∀ n, f.d = .v n → Lands i j n.toNat count (1#96 <<< l) fun _ => old

/-- The quantum that one lane of a .qnt atomic enters (04 R147). -/
def Sys2Proof.Claims.quantumOf (s : State) (i : Iss) (f : MForm) (l : Nat) (p : Piece) : Quantum :=
  { loc := p.loc, target := i.targetSlot f l, aop := f.aop.toNat, bytes := p.bytes, scope := pieceScope f.scope.toNat p, sx := f.sx
    value := i.words f.c (regsFor f.bytes) l % 2 ^ (8 * p.bytes), since := s.refTime, dirty := p.dirty }

/-- 04 R147: a .qnt atomic of one lane enters a quantum where none is pending, and combines its value with the one pending on
the same bytes for the same operation: memory does not change. -/
def Sys2Proof.Claims.QuantumEnters : Prop :=
  ∀ (s : State) (i : Iss) (f : MForm) (l : Nat) (p : Piece), Issued s i → f.use = 4 →
    s.probes i f .atomic (if f.aop = 7 then 2 * f.bytes else f.bytes) (i.active f.guard) = [(l, .go [p])] →
    i.core.linesFit (requestLines [(l, [p])]) = true → s.waitsGrant i.c .atomic none [p] = false →
    (∀ slot, i.targetSlot f l = some slot → (i.core.folio slot).state ≠ .closing) →
    let new := quantumOf s i f l p
    (i.w.quanta = [] → ∃ t j, exec (.atom f) s = .next t ∧ t.iss = some j ∧ j.f = i.f.finish ∧ SameBytes s t ∧
      j.w.quanta = [new]) ∧
    ∀ q, i.w.quanta = [q] → q.merges f p.loc = true → ∃ t j, exec (.atom f) s = .next t ∧ t.iss = some j ∧ j.f = i.f.finish ∧
      SameBytes s t ∧ j.w.quanta = [{ q with
        value := aopValue q.aop q.sx q.bytes q.value new.value 0, scope := Nat.min q.scope new.scope
        dirty := q.dirty ++ new.dirty.filter fun d => !q.dirty.contains d }]

/-- 04 R147, 10 R313, R314: an atomic is performed at once, or with .qnt enters a quantum.
The model's choices in it: notes/assumptions/30.md, notes/assumptions/130.md. -/
def Obligations.AtomicCompletes : Prop := Claims.AtomicActs ∧ Claims.QuantumEnters

/-- 10 R317, 03 R101: an ldlk whose lanes pass their checks and whose lines' lock bits no other warp holds sets every bit for the
warp, its owner the lowest lane that names it, and loads each lane's bytes from their home. -/
def Sys2Proof.Claims.LockAcquires : Prop :=
  ∀ (s : State) (i : Iss) (f : MForm) (n : BitVec 6), Issued s i → f.d = .v n →
    let outs := s.probes i f .load f.bytes (i.active f.guard)
    let keys := i.lockKeys f (goLanes outs)
    Granted outs → Free s i .load (plainClass f) outs → s.poisoned i.c 3 (allPieces (goLanes outs)) = false →
    i.lockedBank (keys.map (·.1)) = none → roomFor i (regsFor f.bytes) →
    ∃ t j, exec (.ldlk f) s = .next t ∧ Moved s i j t ∧ SameBytes s t ∧
      (∀ k, FMap.get j.core.locks k = match keys.find? fun x => x.1 == k with
        | some x => some { warp := i.wi, lane := x.2, since := (s.cluster (clusterOf i.c)).rawcyc }
        | none => FMap.get i.core.locks k) ∧
      Lands i j n.toNat (regsFor f.bytes) (everyLane outs) fun l => match FMap.get outs l with
        | some (.go p) => (p.getLast?.map fun p => s.locRead i.c p.loc p.bytes).getD 0
        | _ => 0

/-- 03 R101, R102: an ldlk one of whose lines' lock bits another warp holds takes no bit and waits for that bit's bank. -/
def Sys2Proof.Claims.LockWaits : Prop :=
  ∀ (s : State) (i : Iss) (f : MForm) (bank : Nat), Issued s i →
    let outs := s.probes i f .load f.bytes (i.active f.guard)
    (∀ o ∈ outs, o.2.isMiss = false ∧ o.2.isBad = false) →
    i.lockedBank ((i.lockKeys f (goLanes outs)).map (·.1)) = some bank →
    ∃ t, exec (.ldlk f) s = .next t ∧ Waits i (.lock bank) t ∧ (t.core i.c).locks = i.core.locks ∧ OnlyWarp s t i.c i.wi ∧
      SameBytes s t

/-- Whether the warp holds a lock bit (03 R100). -/
def Sys2Proof.Claims.holdsLock (i : Iss) (key : Nat) : Bool :=
  match FMap.get i.core.locks key with
  | some x => x.warp == i.wi
  | none => false

/-- 10 R318, 03 R103: a stul whose lanes pass their checks stores for the lanes whose bit the warp holds, tells so in D, and
releases the bits of every active lane's line that it holds. -/
def Sys2Proof.Claims.LockReleases : Prop :=
  ∀ (s : State) (i : Iss) (f : MForm), Issued s i → Released i f.ord →
    let outs := s.probes i f .store f.bytes (i.active f.guard)
    let go := goLanes outs
    let mine := go.filter fun l => l.2.all fun p => holdsLock i (i.lockKey f l.1 p)
    Granted outs → Free s i .store (plainClass f) outs → f.d = .none ∨ (∃ n, f.d = .k n) →
    ∃ t j, exec (.stul f) s = .next t ∧ Moved s i j t ∧ OutsideSame s t i.c (allPieces mine) ∧
      (∀ l off p, LastWrite i.core mine l off p →
        t.locRead i.c p.loc p.bytes = i.words f.c (regsFor f.bytes) l / 2 ^ (8 * off) % 2 ^ (8 * p.bytes)) ∧
      (∀ k ∈ (i.lockKeys f go).map (·.1), holdsLock j k = false) ∧
      (∀ k, holdsLock i k = false ∨ k ∉ (i.lockKeys f go).map (·.1) → FMap.get j.core.locks k = FMap.get i.core.locks k) ∧
      ∀ n, f.d = .k n → ∀ l, l < 96 → (j.w.readK j.f n.toNat).getLsbD l =
        if (everyLane outs).getLsbD l then mine.any (fun g => g.1 == l) else (i.w.readK i.f n.toNat).getLsbD l

/-- 10 R317, R318, 03 R101 to R103: ldlk acquires the lock bits of the active lanes' lines, all or none, and loads, or waits; stul
stores for the lanes whose bit the warp holds, tells so in D and releases the bits.
The model's choices in it: notes/assumptions/29.md, notes/assumptions/33.md. -/
def Obligations.LockCompletes : Prop := Claims.LockAcquires ∧ Claims.LockWaits ∧ Claims.LockReleases

/-- 10 R320, 03 R95, 04 R149: fence.acq at .pk or .sy empties the data cache of the core; at a narrower scope it only goes on. -/
def Sys2Proof.Claims.AcquireFences : Prop :=
  ∀ (s : State) (i : Iss) (f : RForm), Issued s i →
    ∃ t j, exec (.fenceAcq f) s = .next t ∧ Moved s i j t ∧ SameBytes s t ∧
      (t.core i.c).cdc = (if 3 ≤ fenceScope f then [] else i.core.cdc) ∧ j.w.v = i.w.v ∧ j.w.k = i.w.k ∧ j.w.s = i.w.s

/-- 10 R320, R315, R330, 04 R147 to R149: fence.rel and fence.sc wait, standing at the instruction, while a store or atomic issued
before them is queued; wait for the lock bit on the line of a quantum; and otherwise apply the warp's quanta of their scope, keep
the others and the discarded ones, for which they raise no trap, perform its compensations and go on. fence.sc at .pk or .sy also
empties the data cache. -/
def Sys2Proof.Claims.ReleaseFences : Prop :=
  ∀ (s : State) (i : Iss) (f : RForm) (x : Instr), Issued s i → x ∈ [Instr.fenceRel f, .fenceSc f] →
    let sc := fenceScope f
    let mark := i.f.behind.getD i.w.queued
    (i.queueBefore mark = true → ∃ t j, exec x s = .next t ∧ t.iss = some j ∧ j.f = { i.f with behind := some mark } ∧
      j.w = { i.w with frags := j.w.frags } ∧ OnlyWarp s t i.c i.wi ∧ SameBytes s t) ∧
    (i.queueBefore mark = false →
      (∀ bank, i.quantumLock (fun q => decide (q.scope ≤ sc)) = some bank →
        ∃ t, exec x s = .next t ∧ Waits i (.lock bank) t ∧ OnlyWarp s t i.c i.wi ∧ SameBytes s t) ∧
      (i.quantumLock (fun q => decide (q.scope ≤ sc)) = none → i.core.padBad = [] →
        ∃ t j, exec x s = .next t ∧ t.iss = some j ∧ j.f = i.f.finish ∧
          j.w = { i.w with
            frags := j.w.frags, comps := [], quanta := i.w.quanta.filter fun q => !decide (q.scope ≤ sc) } ∧
          (x = .fenceSc f → 3 ≤ sc → (t.core i.c).cdc = []) ∧ (∀ c', i.c ≠ c' → t.core c' = s.core c') ∧
          ((∀ q ∈ i.w.quanta, sc < q.scope) → i.w.comps = [] → SameBytes s t) ∧
          (∀ q pa, i.w.quanta = [q] → q.scope ≤ sc → q.loc = .global pa → q.dirty = [] → i.w.comps = [] →
            t.mread pa q.bytes = aopValue q.aop q.sx q.bytes (s.mread pa q.bytes) q.value 0 % 2 ^ (8 * q.bytes)) ∧
          ∀ p pa, i.w.quanta = [] → i.w.comps = [p] → p.loc = .global pa →
            t.mread pa p.bytes = (if p.isXor then aopValue 5 false p.bytes (s.mread pa p.bytes) p.value 0
              else aopValue 0 false p.bytes (s.mread pa p.bytes) ((2 ^ (8 * p.bytes) - p.value) % 2 ^ (8 * p.bytes)) 0) %
                2 ^ (8 * p.bytes)))

/-- 10 R320, R315, R330, 03 R95, 04 R147 to R149: fence.acq empties the data cache at .pk and .sy; fence.rel applies the warp's
quanta of its scope and performs its compensations, or waits; fence.sc does both.
The model's choices in it: notes/assumptions/28.md, notes/assumptions/30.md, notes/assumptions/147.md. -/
def Obligations.FenceCompletes : Prop := Claims.AcquireFences ∧ Claims.ReleaseFences

/-- 10 R321, R322, 01 R23: pfm only moves on and keeps every register that it does not mark as read for the last time; cvta
converts the address of each active lane, and for an s register that of the lowest active lane, if there is one.
The model's choices in it: notes/assumptions/34.md, notes/assumptions/131.md. -/
def Obligations.ConvertCompletes : Prop :=
  (∀ (s : State) (i : Iss) (f : MForm), Issued s i → ∃ t j, exec (.pfm f) s = .next t ∧ Moved s i j t ∧ SameBytes s t ∧
    (∀ o, j.s32 o 0 = i.s32 o 0) ∧ j.w.k = i.w.k ∧ (f.lr = 0 → j.w.v = i.w.v ∧ j.w.vTrap = i.w.vTrap)) ∧
  (∀ (s : State) (i : Iss) (f : RForm) (n : BitVec 6), Issued s i → f.d = .v n → n.toNat % 2 = 0 → i.room f.lr true f.d →
    ∃ t, exec (.cvta f) s = .next t ∧
      VectorDone s i f.lr true f.d (i.active f.guard) (fun l => i.convertAddr (i.src true f.a 0 l) l) i.w.sflags
        i.w.fflags t) ∧
  ∀ (s : State) (i : Iss) (f : RForm) (n : BitVec 6), Issued s i → f.d = .s n → n.toNat % 2 = 0 → n.toNat < 60 →
    ∃ t j, exec (.cvta f) s = .next t ∧ Moved s i j t ∧ SameBytes s t ∧ (∀ o, apart true f.d o → j.s32 o 0 = i.s32 o 0) ∧
      match lowLane (i.active f.guard) with
      | some l => j.Holds true f.d (i.convertAddr (i.src true f.a 0 l) l)
      | none => j.s64 f.d 0 = i.s64 f.d 0

/-- 10 R307, 01 R15: an access some of whose lanes fail a check, where none waits for a walk and none finds an error in a
folio, is the trap of the lowest such lane, which TRAPMASK tells with every other; a scalar access's trap tells the whole
fragment. The trap is taken on the state before the access: no part of it is performed.
The model's choices in it: notes/assumptions/24.md. -/
def Obligations.AccessTraps : Prop :=
  ∀ (s : State) (i : Iss) (f : MForm) (t : TrapReq), Issued s i →
    (∀ x acc align, (x = .ld f ∧ acc = Acc.load ∧ align = f.bytes) ∨ (x = .ldlk f ∧ acc = .load ∧ align = f.bytes) ∨
        (x = .st f ∧ acc = .store ∧ align = f.bytes) ∨ (x = .stul f ∧ acc = .store ∧ align = f.bytes) ∨
        (x = .atom f ∧ acc = .atomic ∧ align = if f.aop = 7 then 2 * f.bytes else f.bytes) →
      let outs := s.probes i f acc align (i.active f.guard)
      (∀ o ∈ outs, o.2.isMiss = false ∧ ∀ a b, o.2 ≠ .broken a b) → i.checkTrap outs = some t →
      exec x s = .next (s.takeTrap i.c i.wi i.fi t)) ∧
    ∀ x acc, (x = .lds f ∧ acc = Acc.load) ∨ (x = .sts f ∧ acc = .store) → i.scalarGo f.guard = true →
      let outs := s.scalarProbe i f acc
      (∀ o ∈ outs, o.2.isMiss = false ∧ ∀ a b, o.2 ≠ .broken a b) → i.checkTrap outs = some t →
      exec x s = .next (s.takeTrap i.c i.wi i.fi { t with mask := i.f.mask })

namespace Sys2Proof.Claims

/-- After a scalar instruction that acts on more than its warp: the fragment stands at the next slot, READY; D holds a
value, SFLAGS a value; every other scalar, vector and k register, FFLAGS and the engine counters are as before. -/
def After (i j : Iss) (wide : Bool) (d : Operand) (v : Dword) (sf : Word) : Prop :=
  j.f = i.f.endWait ∧ j.Holds wide d v ∧ j.w.sflags = sf ∧ (∀ o, apart wide d o → j.s32 o 0 = i.s32 o 0) ∧
    j.w.v = i.w.v ∧ j.w.vTrap = i.w.vTrap ∧ j.w.k = i.w.k ∧ j.w.fflags = i.w.fflags ∧ j.w.counters = i.w.counters

/-- The folio table of a core differs in one slot at most. -/
def OnlyFolio (k k' : Core) (slot : Nat) : Prop := ∀ n, slot ≠ n → k'.folio n = k.folio n

/-- A pair of the four registers of a falloc's A operand. -/
def fallocPair (i : Iss) (f : IForm) (n : Nat) : Dword :=
  match f.a with
  | .s a => i.w.readS i.f (a.toNat + n + 1) ++ i.w.readS i.f (a.toNat + n)
  | _ => 0

/-- falloc, or falloc.c. -/
def fallocInstr (keyed : Bool) (f : IForm) : Instr := if keyed then .fallocC f else .falloc f

/-- No warp of a core has a quantum pending. -/
def NoQuanta (k : Core) : Prop := ∀ w ∈ k.warps, w.2.quanta = []

end Sys2Proof.Claims

/-! Class 3: folios. -/

/-- 02 R66, R67, R72, R92, 10 R324: falloc and falloc.c with operands that pass the checks complete: an existing persistent
folio answers its handle with Z; a free slot, in the core that making room leaves, becomes a BOUND folio of zeros with the operands'
rank, size, handler and backing; without a place D is 0, NOCAP is set and nothing is displaced. -/
def Sys2Proof.Claims.FallocActs : Prop :=
  ∀ (s : State) (i : Iss) (f : IForm) (keyed : Bool), Issued s i → i.scalarGo f.guard = true → scalarDst false f.d →
    let rank := (f.ext8.extractLsb' 0 3).toNat
    let units := f.imm.toNat / 512
    let key := i.s32 f.b 0
    let owner := if keyed then none else some i.w.wg
    sizeOk rank f.imm.toNat = true → (keyed = true → key ≠ 0) → backingSub (fallocPair i f 2) = 0 →
    (keyed = true → i.core.keyedBefore s.coreClock i key = false) →
    (∀ slot fo, keyed = true → i.core.keyed i.ctx key = some (slot, fo) →
      ∃ t j, exec (fallocInstr keyed f) s = .next t ∧ t.iss = some j ∧ SameBytes s t ∧
        After i j false f.d ((handleOf slot fo.gen).setWidth 64) (setZ (setNocap i.w.sflags false) true)) ∧
    (∀ u inside k, (keyed = true → i.core.keyed i.ctx key = none) → i.core.freeSlots ≠ [] →
      i.core.capacityFor owner rank units = some (u, inside, k) →
      ∃ t j slot, exec (fallocInstr keyed f) s = .next t ∧ t.iss = some j ∧ slot ∈ i.core.freeSlots ∧
        After i j false f.d ((handleOf slot (k.folio slot).gen).setWidth 64) (setZ (setNocap i.w.sflags false) false) ∧
        OnlyFolio k j.core slot ∧
        j.core.folio slot = {
          gen := (k.folio slot).gen, state := .bound, rank := rank, pers := keyed, clm := none, own := owner
          size := units, start := u, handler := fallocPair i f 0, backing := fallocPair i f 2
          key := if keyed then key else 0, ctx := i.ctx, inSewn := inside } ∧
        ∀ a, Memory.read j.core.pad a =
          if 512 * u ≤ a ∧ a < 512 * (u + units) then Memory.blank else Memory.read k.pad a) ∧
    ((keyed = true → i.core.keyed i.ctx key = none) →
      i.core.freeSlots = [] ∨ i.core.capacityFor owner rank units = none →
      ∃ t j, exec (fallocInstr keyed f) s = .next t ∧ t.iss = some j ∧ SameBytes s t ∧
        (∀ n, j.core.folio n = i.core.folio n) ∧ After i j false f.d 0 (setZ (setNocap i.w.sflags true) false))

/-- 02 R62: where a core's units are as they are after some folios have been displaced. -/
def Sys2Proof.Claims.displaced (k : Core) (slots : List Nat) : Core := slots.foldl Core.loseFolio k

/-- 02 R63: the runs that compaction for a rank packs against unit 0: higher ranks, and the rank itself when it is 4 or more. -/
def Sys2Proof.Claims.packsLow (r : Nat) (x : Span) : Bool := decide (r < x.rank) || (x.rank == r && decide (4 ≤ r))

/-- 02 R63, R64: how room is made. Compaction keeps each CLOSING run where it is, packs each run of the bottom group above those
before it, and each of the top group below those after it, under the lowest CLOSING run and the top of the region; and where no
compaction does, the folios of lower rank that hold capacity become LOST, the highest-addressed first, no more of them than it
takes. -/
def Sys2Proof.Claims.RoomIsMade : Prop :=
  (∀ (region r : Nat) (l new : List Span), compact region r l = some new →
    let free := l.filter fun x => !x.fixed
    let ceil := (l.filter (·.fixed)).foldl (fun m x => Nat.min m x.start) region
    new.length = l.length ∧ (∀ x ∈ l, x.fixed = true → x ∈ new) ∧
      (∀ a x b, free.filter (packsLow r) = a ++ x :: b → { x with start := sumNat (a.map (·.len)) } ∈ new) ∧
      ∀ a x b, (free.filter fun x => !packsLow r x) = a ++ x :: b →
        { x with start := ceil - sumNat ((x :: b).map (·.len)) } ∈ new) ∧
  ∀ (k k' : Core) (r n u : Nat), k.settleIn r n = none → k.obtain r n = some (u, k') →
    let lower := (k.holders.filter fun p => decide (p.2.rank < r)).foldr insertFolio []
    (∀ p, p ∈ lower ↔ p ∈ k.holders ∧ p.2.rank < r) ∧ lower.Pairwise (fun p q => q.2.start ≤ p.2.start) ∧
      ∃ a b, lower.map (·.1) = a ++ b ∧ a ≠ [] ∧ (displaced k a).settleIn r n = some (u, k') ∧
        ∀ c d, a = c ++ d → d ≠ [] → (displaced k c).settleIn r n = none

/-- 02 R63, R64, R66, R67, R72, 10 R324: falloc and falloc.c complete, and how room is made for a folio.
The model's choices in it: notes/assumptions/36.md, notes/assumptions/38.md. -/
def Obligations.FallocCompletes : Prop := Claims.FallocActs ∧ Claims.RoomIsMade

/-- 02 R66, R67, R92, 10 R324, 17 R494: a falloc whose size its rank does not allow, or a falloc.c with key 0, traps FOLIO_BOUNDS, with
TRAPINFO values that the spec does not give; one whose BACKING is not canonical or not a multiple of 512 traps as MISALIGNED, with
the address; and a falloc.c stands at its instruction where that of a warp in a higher slot has been performed for its key in the
same core clock. -/
def Sys2Proof.Claims.FallocFails : Prop :=
  ∀ (s : State) (i : Iss) (f : IForm) (keyed : Bool), Issued s i → i.scalarGo f.guard = true →
    let backing := fallocPair i f 2
    let fits := sizeOk (f.ext8.extractLsb' 0 3).toNat f.imm.toNat
    (fits = false ∨ (keyed = true ∧ i.s32 f.b 0 = 0) → ∃ a b n, exec (fallocInstr keyed f) s =
      .next ({ s with freeCount := n }.takeTrap i.c i.wi i.fi (i.trapReq Cause.folioBounds 0 i.f.mask a b))) ∧
    (fits = true → (keyed = true → i.s32 f.b 0 ≠ 0) →
      (backingSub backing ≠ 0 → exec (fallocInstr keyed f) s = .next (s.takeTrap i.c i.wi i.fi
        (i.trapReq Cause.misaligned (backingSub backing) i.f.mask (backing.extractLsb' 0 32) (backing.extractLsb' 32 32)))) ∧
      (backingSub backing = 0 → keyed = true → i.core.keyedBefore s.coreClock i (i.s32 f.b 0) = true →
        exec (fallocInstr keyed f) s = .next s))

/-- 02 R57, R58, R68, 10 R325, R329: fopen answers the handle of the context's persistent folio with the key, or 0 with Z;
fquery answers a word of the entry of a slot, with Z where the handle is not live. -/
def Sys2Proof.Claims.FolioAnswers : Prop :=
  (∀ (s : State) (i : Iss) (f : RForm), Issued s i → i.scalarGo f.guard = true → scalarDst false f.d →
    let r := i.core.keyed i.ctx (i.s32 f.b (f.ext.signExtend 32))
    ∃ t, exec (.fopen f) s = .next t ∧
      ScalarDone s i false f.d (((r.map fun p => handleOf p.1 p.2.gen).getD 0).setWidth 64) (setZ i.w.sflags r.isNone) t) ∧
  ∀ (s : State) (i : Iss) (f : RForm) (n : BitVec 6), Issued s i → i.scalarGo f.guard = true → f.d = .s n →
    scalarDst true f.d →
    let h := i.s32 f.a 0
    let fo := i.core.folio (handleSlot h)
    handleSlot h < Config.folioSlots → handleGen h ≠ 0 →
    ∃ t, exec (.fquery f) s = .next t ∧
      ScalarDone s i true f.d
        (if fo.state ≠ .free ∧ fo.ctx ≠ i.ctx then 0 else fo.word (f.ext.extractLsb' 0 2).toNat)
        (setZ i.w.sflags (i.core.liveFolio i.ctx h).isNone) t

/-- 02 R58, R70, 10 R326: ffree makes a live folio's slot FREE with the next generation; fdrop makes it LOST, without
capacity or claim. -/
def Sys2Proof.Claims.FolioEnds : Prop :=
  ∀ (s : State) (i : Iss) (f : RForm) (slot : Nat) (fo : Folio), Issued s i → i.scalarGo f.guard = true →
    i.core.liveFolio i.ctx (i.s32 f.a 0) = some (slot, fo) → i.core.padBad = [] → i.core.folioLock i.wi slot = none →
    (∃ t j, exec (.ffree f) s = .next t ∧ t.iss = some j ∧ j.f = i.f.finish ∧ OnlyFolio i.core j.core slot ∧
      j.core.folio slot = { Folio.fresh with gen := nextGen fo.gen }) ∧
    ∃ t j, exec (.fdrop f) s = .next t ∧ t.iss = some j ∧ j.f = i.f.finish ∧ OnlyFolio i.core j.core slot ∧
      j.core.folio slot = if fo.state = .lost then fo
        else { fo with state := .lost, clm := none, start := 0, inSewn := false }

/-- 02 R58, R70, 10 R325, R326: what the queries of a folio answer, and what freeing and dropping one do. -/
def Obligations.FolioQueriesAndEnds : Prop := Claims.FolioAnswers ∧ Claims.FolioEnds

/-- 02 R58, 10 R323: an instruction on a folio whose handle is not live is a STALE_HANDLE trap with the handle. -/
def Sys2Proof.Claims.StaleHandles : Prop :=
  ∀ (s : State) (i : Iss) (f : RForm) (x : Instr), Issued s i → i.scalarGo f.guard = true →
    x ∈ [Instr.ffree f, .fdrop f, .fbind f, .fbindB f, .fdone f, .frwaitSt f] →
    i.core.liveFolio i.ctx (i.s32 f.a 0) = none →
    exec x s = .next (s.takeTrap i.c i.wi i.fi (i.trapReq Cause.staleHandle 0 i.f.mask (i.s32 f.a 0) 0))

/-- 02 R58, R66, R67, R92, 10 R323, R324: where falloc and falloc.c trap, and the trap of a handle that is not live.
The model's choices in it: notes/assumptions/39.md. -/
def Obligations.FolioTraps : Prop := Claims.FallocFails ∧ Claims.StaleHandles

/-- 02 R62, R70, R72, R89, 10 R327: fbind claims a LOST or BACKED folio for which room can be made, with fresh capacity of zeros in
the core that making it leaves, and answers 0; it answers 2 for a BOUND or CLOSING folio, 0 or 1 for a claimed one, and 3 with NOCAP without a place.
The model's choices in it: notes/assumptions/36.md, notes/assumptions/41.md. -/
def Obligations.FbindCompletes : Prop :=
  ∀ (s : State) (i : Iss) (f : RForm) (slot : Nat) (fo : Folio), Issued s i → i.scalarGo f.guard = true →
    scalarDst false f.d → i.core.liveFolio i.ctx (i.s32 f.a 0) = some (slot, fo) → NoQuanta i.core →
    (∀ code, (code = 2 ∧ (fo.state = .bound ∨ fo.state = .closing)) ∨
        (code = 0 ∧ fo.state = .rebinding ∧ fo.clm = some i.wi) ∨ (code = 1 ∧ fo.state = .rebinding ∧ fo.clm ≠ some i.wi) ∨
        (code = 3 ∧ (fo.state = .lost ∨ fo.state = .backed) ∧ i.core.obtain fo.rank fo.size = none) →
      ∃ t j, exec (.fbind f) s = .next t ∧ t.iss = some j ∧ (∀ n, j.core.folio n = i.core.folio n) ∧ SameBytes s t ∧
        After i j false f.d (BitVec.ofNat 64 code) (setNocap i.w.sflags (code == 3))) ∧
    ∀ u k, fo.state = .lost ∨ fo.state = .backed → i.core.obtain fo.rank fo.size = some (u, k) →
      ∃ t j, exec (.fbind f) s = .next t ∧ t.iss = some j ∧ After i j false f.d 0 (setNocap i.w.sflags false) ∧
        j.core.folio slot = { k.folio slot with state := .rebinding, clm := some i.wi, start := u, inSewn := false } ∧
        OnlyFolio k j.core slot ∧
        ∀ a, Memory.read j.core.pad a =
          if 512 * u ≤ a ∧ a < 512 * (u + fo.size) then Memory.blank else Memory.read k.pad a

/-- 02 R70, R72, R89, 10 R327: fbind.b makes a LOST folio, or one the warp has claimed, BACKED and answers 0; it answers 1 for
another's claim, 2 for a BOUND, CLOSING or BACKED folio, 4 without a backing. fdone makes the warp's claimed folio BOUND and
answers 0, and 5 otherwise.
The model's choices in it: notes/assumptions/41.md. -/
def Obligations.FbackAndFdoneComplete : Prop :=
  ∀ (s : State) (i : Iss) (f : RForm) (slot : Nat) (fo : Folio), Issued s i → i.scalarGo f.guard = true →
    scalarDst false f.d → i.core.liveFolio i.ctx (i.s32 f.a 0) = some (slot, fo) → NoQuanta i.core →
    (∀ code fo', (code = 2 ∧ fo' = fo ∧ (fo.state = .bound ∨ fo.state = .closing ∨ fo.state = .backed)) ∨
        (code = 1 ∧ fo' = fo ∧ fo.state = .rebinding ∧ fo.clm ≠ some i.wi) ∨
        (code = 4 ∧ fo' = fo ∧ fo.backing = 0 ∧ (fo.state = .lost ∨ (fo.state = .rebinding ∧ fo.clm = some i.wi))) ∨
        (code = 0 ∧ fo.backing ≠ 0 ∧ fo.state = .lost ∧ fo' = { fo with state := .backed }) ∨
        (code = 0 ∧ fo.backing ≠ 0 ∧ fo.state = .rebinding ∧ fo.clm = some i.wi ∧
          fo' = { fo with state := .backed, clm := none, start := 0, inSewn := false }) →
      ∃ t j, exec (.fbindB f) s = .next t ∧ t.iss = some j ∧ j.core.folio slot = fo' ∧ SameBytes s t ∧
        After i j false f.d (BitVec.ofNat 64 code) (setNocap i.w.sflags false)) ∧
    ∀ code fo', (code = 0 ∧ fo.state = .rebinding ∧ fo.clm = some i.wi ∧ fo' = { fo with state := .bound, clm := none }) ∨
        (code = 5 ∧ fo' = fo ∧ (fo.state ≠ .rebinding ∨ fo.clm ≠ some i.wi)) →
      ∃ t j, exec (.fdone f) s = .next t ∧ t.iss = some j ∧ j.core.folio slot = fo' ∧ SameBytes s t ∧
        After i j false f.d (BitVec.ofNat 64 code) i.w.sflags

/-- 02 R73, 10 R328: frwait.st answers the state of a folio that is not REBINDING, and waits for one that is; frwait.w
answers 0 where the word differs and waits where it does not; frwait.cap waits on ALLOC as it is at issue, and a wait on an ALLOC that has
been exceeded ends with the new one.
The model's choices in it: notes/assumptions/40.md. -/
def Obligations.FrwaitCompletes : Prop :=
  (∀ (s : State) (i : Iss) (f : RForm) (slot : Nat) (fo : Folio), Issued s i → i.scalarGo f.guard = true →
    scalarDst false f.d → i.core.liveFolio i.ctx (i.s32 f.a 0) = some (slot, fo) →
    (fo.state ≠ .rebinding → ∃ t j, exec (.frwaitSt f) s = .next t ∧ t.iss = some j ∧ SameBytes s t ∧
      After i j false f.d (BitVec.ofNat 64 fo.state.code) i.w.sflags) ∧
    (fo.state = .rebinding → exec (.frwaitSt f) s =
      .next (s.keepWaiting i (.folioState (i.s32 f.a 0) f.d (s.deadline (waitLimit f)))))) ∧
  (∀ (s : State) (i : Iss) (f : RForm) (p : Piece), Issued s i → i.scalarGo f.guard = true → scalarDst false f.d →
    let off := (i.s32 f.b 0).toNat
    s.probeLocal i .load false (i.s32 f.a 0) off (BitVec.ofNat 64 off) 4 4 = .go [p] → p.poisonedHome s = false →
    (∀ q ∈ i.w.quanta, q.loc.overlaps q.bytes p.loc p.bytes = false) →
    (BitVec.ofNat 32 (s.locRead i.c p.loc 4) ≠ i.s32 f.c 0 →
      ∃ t j, exec (.frwaitW f) s = .next t ∧ t.iss = some j ∧ SameBytes s t ∧ After i j false f.d 0 i.w.sflags) ∧
    (BitVec.ofNat 32 (s.locRead i.c p.loc 4) = i.s32 f.c 0 →
      ∃ t j, exec (.frwaitW f) s = .next t ∧ t.iss = some j ∧ SameBytes s t ∧ j.f.state = .waiting ∧
        j.f.wait = .folioWord (i.s32 f.a 0) off (i.s32 f.c 0) f.d (s.deadline (waitLimit f)))) ∧
  ∀ (s : State) (i : Iss), Issued s i →
    (∀ f, i.scalarGo f.guard = true → exec (.frwaitCap f) s =
      .next (s.keepWaiting i (.capacity i.core.cap.alloc f.d (s.deadline (waitLimit f))))) ∧
    ∀ base d limit, scalarDst false d → base < i.core.cap.alloc →
      ∃ j, (s.tryCapacity i base d limit).iss = some j ∧
        After i j false d (BitVec.ofNat 64 i.core.cap.alloc) i.w.sflags

namespace Sys2Proof.Claims

/-- The whole fragment has gone to a slot address, and nothing else of its warp has changed but the last mask that the
predictor's training keeps (13 R404). -/
def Gone (s : State) (i : Iss) (p : SlotAddr) (t : State) : Prop :=
  ∃ j, t.iss = some j ∧ j.f.pc = p ∧ j.f.mask = i.f.mask ∧ j.f.state = i.f.state ∧ j.f.lvl = i.f.lvl ∧
    j.f.rcd = i.f.rcd ∧ j.w = { i.w with frags := j.w.frags, lastMask := j.w.lastMask } ∧
    (∀ n, i.fi ≠ n → FMap.get j.w.frags n = FMap.get i.w.frags n) ∧ OnlyCore s t i.c ∧
    (∀ w', i.wi ≠ w' → t.warp i.c w' = s.warp i.c w') ∧ SameBytes s t

/-- Control has gone to a slot address with the whole fragment: the line judged is kept, the predictor may have been trained, and
an operand marked as read for the last time may be free; nothing else has changed. -/
def Sent (s : State) (i : Iss) (lr : BitVec 3) (p : SlotAddr) (t : State) : Prop :=
  ∃ j, t.iss = some j ∧ j.f.pc = p ∧ j.f.mask = i.f.mask ∧ j.f.state = i.f.state ∧ j.f.lvl = i.f.lvl ∧ j.f.rcd = i.f.rcd ∧
    j.f.priv = i.f.priv ∧ j.f.entry = none ∧
    j.w = { i.w with frags := j.w.frags, lastMask := j.w.lastMask, v := j.w.v, vTrap := j.w.vTrap } ∧
    (lr = 0 → j.w.v = i.w.v ∧ j.w.vTrap = i.w.vTrap) ∧ (∀ n, i.fi ≠ n → FMap.get j.w.frags n = FMap.get i.w.frags n) ∧
    t.core i.c = { s.core i.c with
      warps := (t.core i.c).warps, icache := (t.core i.c).icache, badLines := (t.core i.c).badLines
      events := (t.core i.c).events, predictor := (t.core i.c).predictor } ∧
    (∀ w', i.wi ≠ w' → t.warp i.c w' = s.warp i.c w') ∧ (∀ c', i.c ≠ c' → t.core c' = s.core c') ∧ t.parts = s.parts ∧
    t.ctxs = s.ctxs ∧ t.launches = s.launches ∧ SameBytes s t

/-- The issuing fragment is as it was, and so is its warp. -/
def Stands (s : State) (i : Iss) (t : State) : Prop :=
  ∃ j, t.iss = some j ∧ j.f = i.f ∧ j.w = i.w ∧ (∀ w', i.wi ≠ w' → t.warp i.c w' = s.warp i.c w') ∧ SameBytes s t

/-- The state in which a fragment that has been chosen fetches: its slot aged, PTRAP cleared (05 R188, R199). -/
def chosen (s : State) (c w f : Nat) (late : Bool) : State :=
  ({ s.ageSlot c w f with cur := { core := c, warp := w, frag := f, late := late } }).modFrag c w f
    fun x => { x with ptrap := if x.trm then x.ptrap else 0 }

/-- The transfers of a whole fragment to one slot address, each with that address (11 R333 to R336). -/
def goesTo (i : Iss) (x : Instr) (p : SlotAddr) : Prop :=
  (∃ f : BForm, p = i.rel f.tgt ∧ ((x = .bra f ∧ f.guard.e = false ∧ i.f.mask ≠ 0) ∨ x = .call f ∨
    (x = .brs f ∧ brsTaken f.cond.toNat i.w.sflags i.f.mask (i.guardMask f.guard) = true))) ∨
  ∃ f : RForm, (∀ n, f.a ≠ .v n) ∧ i.s64 f.a 0 = p.setWidth 64 ∧ (x = .jmp f ∨ x = .ret f ∨ x = .brx f)

/-- The guard of a scalar instruction that acts on folios, engines, gatherings, queues, special registers or the context engine. -/
def scalarGuard : Instr → Option Guard
  | .falloc f | .fallocC f => some f.guard
  | .fopen f | .ffree f | .fdrop f | .fbind f | .fbindB f | .fdone f | .fquery f => some f.guard
  | .frwaitSt f | .frwaitW f | .frwaitCap f | .rds f | .wrs f | .ctxsv f | .ctxld f | .capset f => some f.guard
  | .qmk f | .qmkM f | .qinv f | .cpy f | .cpyRa f | .cpyg f | .stch f | .grinit f | .grinitRe f | .grget f => some f.guard
  | .grputRes f | .grput f | .grrel f | .lnch f | .cnclLaunch f | .cnclGraph f | .cnclJob f => some f.guard
  | _ => none

/-- The fragment's own SOFTWARE trap, TRAPPC at the slot after the trap (11 R344). -/
def softwareReq (i : Iss) (f : RForm) : TrapReq :=
  { (i.trapReq Cause.software 0 (i.f.mask &&& i.guardMask f.guard) (codeOf f) (i.s32 f.a 0)) with pc := nextSlot i.f.pc }

end Sys2Proof.Claims

/-! Class 4: control. -/

/-- 07 R228, 11 R343: nop and the hints yield and pfi only move the fragment to the next slot.
The model's choices in it: notes/assumptions/34.md. -/
def Sys2Proof.Claims.HintsPass : Prop :=
  ∀ (s : State) (i : Iss) (f : RForm) (b : BForm) (x : Instr), Issued s i → x ∈ [Instr.nop f, .yield f, .pfi b] →
    ∃ t, exec x s = .next t ∧ Gone s i (nextSlot i.f.pc) t

/-- 07 R236: an instruction on folios, engines, gatherings, queues, special registers or the context engine whose guard no lane
passes only moves the fragment to the next slot: no register and no byte changes. -/
def Sys2Proof.Claims.GuardSkips : Prop :=
  ∀ (s : State) (i : Iss) (x : Instr) (g : Guard), Issued s i → scalarGuard x = some g → i.scalarGo g = false →
    ∃ t j, exec x s = .next t ∧ Moved s i j t ∧ SameBytes s t ∧ (∀ o, j.s32 o 0 = i.s32 o 0) ∧ j.w.v = i.w.v ∧ j.w.k = i.w.k

/-- 07 R228, R236, 11 R343: nop and the hints only move the fragment to the next slot, and so does a scalar instruction that no lane
passes the guard of.
The model's choices in it: notes/assumptions/34.md. -/
def Obligations.HintsComplete : Prop := Claims.HintsPass ∧ Claims.GuardSkips

/-- 11 R333 to R335, 07 R232: bra without a guard or with one that all or no lanes pass, brs, jmp, ret and call take the
whole fragment to the target where it is a marked slot; call leaves the next slot address in D. -/
def Sys2Proof.Claims.TransfersGoOn : Prop :=
  (∀ (s : State) (i : Iss) (f : BForm), Issued s i → s.target i (i.rel f.tgt) = some true →
    (f.guard.e = false ∨ (((i.rel f.rcv).extractLsb' 0 3).toNat ≤ 4 ∧ i.f.mask &&& i.guardMask f.guard = i.f.mask) →
      i.f.mask ≠ 0 → ∃ t, exec (.bra f) s = .next t ∧ Sent s i 0 (i.rel f.tgt) t) ∧
    (f.guard.e = true → ((i.rel f.rcv).extractLsb' 0 3).toNat ≤ 4 → i.f.mask ≠ 0 →
      i.f.mask &&& i.guardMask f.guard = 0 → ∃ t, exec (.bra f) s = .next t ∧ Sent s i 0 (nextSlot i.f.pc) t) ∧
    ∃ t, exec (.brs f) s = .next t ∧
      Sent s i 0 (if brsTaken f.cond.toNat i.w.sflags i.f.mask (i.guardMask f.guard) then i.rel f.tgt else nextSlot i.f.pc) t) ∧
  (∀ (s : State) (i : Iss) (f : RForm) (p : SlotAddr) (x : Instr), Issued s i → x = .jmp f ∨ x = .ret f →
    (∀ n, f.a ≠ .v n) → i.s64 f.a 0 = p.setWidth 64 → s.target i p = some true →
    ∃ t, exec x s = .next t ∧ Sent s i 0 p t) ∧
  (∀ (s : State) (i : Iss) (f : RForm) (p : SlotAddr) (n : BitVec 6), Issued s i → f.a = .v n →
    (∀ l ∈ lanesOf i.f.mask, i.src true f.a 0 l = p.setWidth 64) → i.f.mask ≠ 0 → s.target i p = some true →
    ∃ t, exec (.ret f) s = .next t ∧ Sent s i f.lr p t) ∧
  ∀ (s : State) (i : Iss) (f : BForm), Issued s i → s.target i (i.rel f.tgt) = some true →
    (∀ n, f.d = .s n → scalarDst true f.d → ∃ t j, exec (.call f) s = .next t ∧ t.iss = some j ∧
      j.f.pc = i.rel f.tgt ∧ j.f.mask = i.f.mask ∧ j.s64 f.d 0 = (nextSlot i.f.pc).setWidth 64 ∧
      (∀ o, apart true f.d o → j.s32 o 0 = i.s32 o 0) ∧ SameBytes s t) ∧
    ∀ n, f.d = .v n → roomFor i 2 → ∃ t j, exec (.call f) s = .next t ∧ t.iss = some j ∧ j.f.pc = i.rel f.tgt ∧
      j.f.mask = i.f.mask ∧ SameBytes s t ∧
      ∀ l, l < 96 → i.f.mask.getLsbD l = true →
        (j.w.readV j.f (n.toNat + 1)).at l ++ (j.w.readV j.f n.toNat).at l = (nextSlot i.f.pc).setWidth 64

/-- 05 R168: a fragment whose slot is its record's address arrives there and waits. Where every expected live lane has arrived the
fragments that wait at the record become one, in the lowest of their entries, READY at the address with the lanes that arrived and
live and under the outer record, and the record is free. -/
def Sys2Proof.Claims.RecordsMeet : Prop :=
  (∀ (s : State) (i : Iss) (late : Bool) (rest : List Turn) (r : Nat),
    s.agenda = .issue i.c i.wi i.fi late :: rest →
    let u := chosen { s with agenda := rest } i.c i.wi i.fi late
    { s with agenda := rest }.mayChoose i.c i.wi i.fi = true →
    ({ s with agenda := rest }.ageSlot i.c i.wi i.fi).mayIssue i.c i.wi i.fi = true → u.iss = some i → i.spec = false →
    (i.f.stepped = true → i.w.trap.mode = true) → i.f.entry = none → i.w.atRecord i.f = some r →
    step s = settled s (.next (u.setWarp i.c i.wi (i.w.reach i.fi i.f r)))) ∧
  ∀ (w : Warp) (fi r : Nat) (f : Frag) (x : Rec), FMap.sorted w.frags = true → FMap.sorted w.recs = true →
    FMap.get w.frags fi = some f → f.rcd = some r → FMap.get w.recs r = some x → r < Config.fragEntries →
    let w' := w.reach fi f r
    let all := x.arrive ||| f.mask
    let meets (e : Nat) : Prop := e = fi ∨ ∃ g, FMap.get w.frags e = some g ∧ g.atRec r = true
    (subMask (x.expect &&& w.live) all = false → FMap.get w'.recs r = some { x with arrive := all } ∧
      FMap.get w'.frags fi = some { f with state := .waiting, wait := .record, age := 0, pend := 0 }) ∧
    (subMask (x.expect &&& w.live) all = true → FMap.get w'.recs r = none ∧
      ∀ e, meets e → (∀ d, meets d → e ≤ d) → (∀ d, meets d → d ≠ e → FMap.get w'.frags d = none) ∧
        ∃ g, FMap.get w'.frags e = some g ∧ g.state = .ready ∧ g.pc = x.addr ∧ g.mask = all &&& w.live ∧ g.rcd = x.outer)

/-- 05 R167, 11 R333: a bra whose guard some lanes pass and others do not, with its target and its reconvergence slot marked, splits
where an entry and, if its own record is not at that slot, a record is free: the passing lanes go to the target in the
fragment's own entry, the others to the next slot in a new one, both under the record, which a new one expects them all at. For
want of an entry or a record it stands. -/
def Sys2Proof.Claims.Splits : Prop :=
  ∀ (s : State) (i : Iss) (f : BForm), Issued s i → f.guard.e = true →
    s.target i (i.rel f.tgt) = some true → (s.judge i i.f.priv (i.rel f.tgt)).2.target i (i.rel f.rcv) = some true →
    ((i.rel f.rcv).extractLsb' 0 3).toNat ≤ 4 →
    let taken := i.f.mask &&& i.guardMask f.guard
    taken ≠ 0 → taken ≠ i.f.mask →
    (∀ e r w, i.w.freeEntry = some e → i.w.meetAt i.f (i.rel f.rcv) i.f.mask = some (w, r) →
      ∃ t j o, exec (.bra f) s = .next t ∧ t.iss = some j ∧ FMap.get j.w.frags e = some o ∧
        j.f.pc = i.rel f.tgt ∧ j.f.mask = taken ∧ j.f.rcd = some r ∧ j.f.state = i.f.state ∧
        o.pc = nextSlot i.f.pc ∧ o.mask = i.f.mask &&& ~~~taken ∧ o.rcd = some r ∧ o.state = i.f.state ∧
        j.w.recs = w.recs ∧ j.w.v = i.w.v ∧ j.w.s = i.w.s ∧ j.w.k = i.w.k ∧ SameBytes s t ∧
        ((∀ q x, i.f.rcd = some q → FMap.get i.w.recs q = some x → x.addr ≠ i.rel f.rcv) →
          i.w.freeRec = some r ∧
          FMap.get j.w.recs r = some { addr := i.rel f.rcv, expect := i.f.mask, arrive := 0, outer := i.f.rcd })) ∧
    (i.w.freeEntry = none ∨ i.w.meetAt i.f (i.rel f.rcv) i.f.mask = none →
      ∃ t, exec (.bra f) s = .next t ∧ Stands s i t)

/-- 05 R167, R168, 11 R333: a bra that lanes disagree on splits its fragment under a record, and the fragments that arrive at a record
become one when all it expects are there.
The model's choices in it: notes/assumptions/133.md. -/
def Obligations.BranchSplits : Prop := Claims.Splits ∧ Claims.RecordsMeet

/-- What the walks of the targets' lines and the lanes' targets let a vector brx do (11 R336): no walk runs, and no lane
names a slot that is none or no marked target. -/
def Sys2Proof.Claims.brxClear (s : State) (i : Iss) (a : Nat → Dword) : Prop :=
  let r := (s.judgeAll i ((brxGroups i.f.mask a).map (·.1))).1
  (∀ l ∈ lanesOf i.f.mask, (a l).extractLsb' 54 10 = 0) ∧ ∀ g ∈ r, g.2 ≠ .walking ∧ g.2 ≠ .judged false

/-- 11 R336: the groups of a vector brx whose targets are good. One goes on whole. Of several, one goes in the fragment's own entry
and the others, by lowest lane, in free ones, all under a record at the reconvergence address; where the entries run out the
lanes left stay at the instruction, and where no record is free it stands. -/
def Sys2Proof.Claims.BrxGroups : Prop :=
  ∀ (s : State) (i : Iss) (f : RForm) (n : BitVec 6), Issued s i → f.a = .v n → brxClear s i (i.src true f.a 0) →
    let groups := brxGroups i.f.mask (i.src true f.a 0)
    (∀ p m, groups = [(p, m)] → ∃ t j, exec (.brx f) s = .next t ∧ t.iss = some j ∧ j.f.pc = p ∧ j.f.mask = i.f.mask ∧
      j.f.rcd = i.f.rcd ∧ j.f.state = i.f.state ∧ (f.lr = 0 → j.w.v = i.w.v) ∧ j.w.s = i.w.s ∧ SameBytes s t ∧
      (s.target i p = some true → Sent s i f.lr p t)) ∧
    ∀ g rest, groups = g :: rest → rest ≠ [] →
      (i.w.meetAt i.f (i.rel f.ext) i.f.mask = none → ∃ t, exec (.brx f) s = .next t ∧ Stands s i t) ∧
      ∀ w r, i.w.meetAt i.f (i.rel f.ext) i.f.mask = some (w, r) →
        let k := i.w.freeEntries.length
        ∃ t j, exec (.brx f) s = .next t ∧ t.iss = some j ∧ j.f.rcd = some r ∧ j.w.recs = w.recs ∧ SameBytes s t ∧
          (∀ h ∈ rest.take k, ∃ e o, e ∈ i.w.freeEntries ∧ FMap.get j.w.frags e = some o ∧ o.pc = h.1 ∧ o.mask = h.2 ∧
            o.rcd = some r ∧ o.state = .ready) ∧
          (rest.length ≤ k → j.f.pc = g.1 ∧ j.f.mask = g.2) ∧
          (k < rest.length → j.f.pc = i.f.pc ∧ j.f.mask = (g :: rest.drop k).foldl (fun m h => m ||| h.2) 0)

/-- 11 R336: what else a brx does. A scalar A takes the whole fragment to its slot; while the walk of a target's line runs the
instruction stays; a lane's slot that is none, or no marked target, is the trap of the lowest such lane, before any split. -/
def Sys2Proof.Claims.BrxElse : Prop :=
  (∀ (s : State) (i : Iss) (f : RForm) (p : SlotAddr), Issued s i → (∀ n, f.a ≠ .v n) → i.s64 f.a 0 = p.setWidth 64 →
    s.target i p = some true → ∃ t, exec (.brx f) s = .next t ∧ Sent s i 0 p t) ∧
  ∀ (s : State) (i : Iss) (f : RForm) (n : BitVec 6), Issued s i → f.a = .v n →
    let a := i.src true f.a 0
    let r := s.judgeAll i ((brxGroups i.f.mask a).map (·.1))
    ((∃ g ∈ r.1, g.2 = .walking) → exec (.brx f) s = .next r.2) ∧
    ((∀ g ∈ r.1, g.2 ≠ .walking) →
      ∀ l, (lanesOf i.f.mask).find? (fun l => (a l).extractLsb' 54 10 != 0 ||
          r.1.any fun g => g.1 == (a l).setWidth 54 && g.2 == .judged false) = some l →
        exec (.brx f) s = .next (s.takeTrap i.c i.wi i.fi (i.badTarget ((a l).setWidth 54))))

/-- 11 R336, 05 R167, 07 R232: a brx takes each group of lanes with one target to it, under one record.
The model's choices in it: notes/assumptions/14.md, notes/assumptions/43.md. -/
def Obligations.BrxCompletes : Prop := Claims.BrxGroups ∧ Claims.BrxElse

/-- 07 R232, R249: a transfer to a slot that is no marked target is an ILLEGAL_TARGET trap at the instruction, with the
target in TRAPINFO. -/
def Sys2Proof.Claims.BadTargets : Prop :=
  ∀ (s : State) (i : Iss), Issued s i →
    (∀ f : BForm, s.target i (i.rel f.tgt) = some false → i.f.mask ≠ 0 →
      (f.guard.e = false → exec (.bra f) s = .next (s.takeTrap i.c i.wi i.fi (i.badTarget (i.rel f.tgt)))) ∧
      (brsTaken f.cond.toNat i.w.sflags i.f.mask (i.guardMask f.guard) = true →
        exec (.brs f) s = .next (s.takeTrap i.c i.wi i.fi (i.badTarget (i.rel f.tgt)))) ∧
      exec (.call f) s = .next (s.takeTrap i.c i.wi i.fi (i.badTarget (i.rel f.tgt)))) ∧
    (∀ (f : RForm) (p : SlotAddr), (∀ n, f.a ≠ .v n) → i.s64 f.a 0 = p.setWidth 64 → s.target i p = some false →
      ∀ x ∈ [Instr.jmp f, .ret f, .brx f], exec x s = .next (s.takeTrap i.c i.wi i.fi (i.badTarget p))) ∧
    (∀ (f : RForm), (∀ n, f.a ≠ .v n) → (i.s64 f.a 0).extractLsb' 54 10 ≠ 0 →
      ∀ x ∈ [Instr.jmp f, .ret f, .brx f],
        exec x s = .next (s.takeTrap i.c i.wi i.fi (i.badTarget ((i.s64 f.a 0).setWidth 54)))) ∧
    ∀ (f : RForm) (n : BitVec 6), f.a = .v n →
      (∃ l ∈ lanesOf i.f.mask, i.src true f.a 0 l ≠ i.src true f.a 0 ((lowLane i.f.mask).getD 0)) →
      exec (.ret f) s = .next (s.takeTrap i.c i.wi i.fi (i.trapReq Cause.illegalConvergence 4 i.f.mask 0 0))

/-- 07 R229, R232: a transfer stays at its instruction while the walk of its target's line runs; where the line cannot be fetched
the fragment goes there, and the failure and the check of the target are left for its fetch, which knows where it came from. -/
def Sys2Proof.Claims.TransfersWait : Prop :=
  ∀ (s : State) (i : Iss) (x : Instr) (p : SlotAddr), Issued s i → goesTo i x p →
    let r := s.judge i i.f.priv p
    (r.1 = .walking → exec x s = .next r.2) ∧
    (r.1.late = true → (∀ f n, x = .call f → f.d = .s n → n.toNat < 60) → (∀ f n, x = .call f → f.d = .v n → roomFor i 2) →
      ∃ t j, exec x s = .next t ∧ t.iss = some j ∧ j.f.pc = p ∧ j.f.entry = some i.f.pc ∧ j.f.mask = i.f.mask ∧
        SameBytes s t)

/-- 05 R171, 07 R229, R232, 11 R333 to R336: what each transfer does, the trap of one to a slot that is no marked target, and a
transfer whose target's line is not there.
The model's choices in it: notes/assumptions/14.md. -/
def Obligations.TransfersComplete : Prop := Claims.TransfersGoOn ∧ Claims.BadTargets ∧ Claims.TransfersWait

/-- 05 R195, 11 R337, R338: exit outside trap mode takes the active lanes out of the live mask; with no active lane it only goes on;
while others are live, those of the fragment that stay go on at the next slot; with the last live lane the warp leaves its
core, and with its last warp the workgroup, no byte changing where the warp owes nothing; but while a bank on which one of its
quanta is pending is locked by another warp, it waits for the lock bit (10 R315). In trap mode exit, bar, barr and barw are
ILLEGAL_CONVERGENCE traps. -/
def Obligations.ExitCompletes : Prop :=
  (∀ (s : State) (i : Iss) (f : RForm), Issued s i → i.w.trap.mode = false →
    let m := i.active f.guard
    (m = 0 → ∃ t, exec (.exit f) s = .next t ∧ Gone s i (nextSlot i.f.pc) t) ∧
    (m ≠ 0 → i.w.live &&& ~~~m ≠ 0 → ∃ t x, exec (.exit f) s = .next t ∧ t.warp i.c i.wi = some x ∧
      x.live = i.w.live &&& ~~~m ∧ SameBytes s t ∧
      (i.f.state = .ready → (∀ p ∈ i.w.frags, p.1 = i.fi → p.2 = i.f) → i.f.mask &&& ~~~m ≠ 0 →
        FMap.get x.frags i.fi = some { i.f.finish with mask := i.f.mask &&& ~~~m })) ∧
    (m ≠ 0 → i.w.live &&& ~~~m = 0 →
      (∀ bank, i.quantumLock (fun _ => true) = some bank → exec (.exit f) s = .next (s.lockWait i bank)) ∧
      (i.quantumLock (fun _ => true) = none → ∃ t, exec (.exit f) s = .next t ∧ t.warp i.c i.wi = none ∧
        (Quiet i.w → i.w.fails = [] → SameBytes s t) ∧
        ((∀ w ∈ i.core.warps, w.2.wg = i.w.wg → w.1 = i.wi) → FMap.get (t.core i.c).wgs i.w.wg = none)))) ∧
  ∀ (s : State) (i : Iss) (f : RForm) (x : Instr), Issued s i → i.w.trap.mode = true →
    x ∈ [Instr.exit f, .bar f, .barr f, .barw f] → exec x s = .next (s.takeTrap i.c i.wi i.fi i.trapMode)

/-- 11 R340, R341, 05 R193: bar, barr and barw of a warp that does not complete the phase: bar arrives and waits, barr arrives and goes
on, barw waits while the warp's arrival is pending and otherwise goes on. -/
def Sys2Proof.Claims.BarrierArrivals : Prop :=
  ∀ (s : State) (i : Iss) (g : Wg) (f : RForm), Issued s i → Quiet i.w → NoneQueued i → i.w.trap.mode = false →
    i.wg = some g →
    let b := barOf f
    (FMap.getD (g.bar b).mask i.w.index 0 &&& i.f.mask = 0 →
      (∃ w ∈ i.core.wgWarps i.w.wg, w.1 ≠ i.wi ∧ w.2.live ≠ 0 ∧ (g.bar b).arr.contains w.2.index = false ∧
        w.2.index ≠ i.w.index ∧ subMask w.2.live (FMap.getD (g.bar b).mask w.2.index 0) = false) →
      (∃ t, exec (.bar f) s = .next t ∧ Waits i (.bar b) t ∧ ∃ g', FMap.get (t.core i.c).wgs i.w.wg = some g' ∧
        (g'.bar b).phase = (g.bar b).phase ∧
        FMap.getD (g'.bar b).mask i.w.index 0 = FMap.getD (g.bar b).mask i.w.index 0 ||| i.f.mask) ∧
      ∃ t j, exec (.barr f) s = .next t ∧ t.iss = some j ∧ j.f = i.f.finish ∧
        ∃ g', FMap.get (t.core i.c).wgs i.w.wg = some g' ∧ (g'.bar b).phase = (g.bar b).phase ∧
          FMap.getD (g'.bar b).mask i.w.index 0 = FMap.getD (g.bar b).mask i.w.index 0 ||| i.f.mask) ∧
    (FMap.getD (g.bar b).mask i.w.index 0 = 0 → ∃ t, exec (.barw f) s = .next t ∧ Gone s i (nextSlot i.f.pc) t) ∧
    (FMap.getD (g.bar b).mask i.w.index 0 ≠ 0 → ∃ t, exec (.barw f) s = .next t ∧ Waits i (.barw b) t)

/-- A barrier's phase has completed in a workgroup, the issuing warp having changed: the phase counts up with no arrival, no other
barrier has changed, and every warp of the workgroup, and no other, leaves the barrier (11 R340). -/
def Sys2Proof.Claims.PhaseDone (s : State) (i : Iss) (g : Wg) (b : Nat) (own : Warp) (t : State) : Prop :=
  ∃ g', FMap.get (t.core i.c).wgs i.w.wg = some g' ∧ g'.bar b = { phase := (g.bar b).phase + 1, arr := [], mask := [] } ∧
    (∀ b', b' ≠ b → g'.bar b' = g.bar b') ∧ t.warp i.c i.wi = some (own.leaveBar b) ∧ SameBytes s t ∧
    ∀ n w, n ≠ i.wi → s.warp i.c n = some w → t.warp i.c n = some (if w.wg = i.w.wg then w.leaveBar b else w)

/-- 05 R193, 11 R340: the last arrival that a phase needs, every live lane of the warp having arrived with it and every other warp of
the workgroup having all its live lanes arrived, completes the phase and releases every warp of the workgroup. A warp that leaves
has no fragment that waits at the barrier; its only fragment, waiting in bar, goes on at the next slot. -/
def Sys2Proof.Claims.BarrierPhases : Prop :=
  (∀ (s : State) (i : Iss) (g : Wg) (f : RForm), Issued s i → Quiet i.w → NoneQueued i → i.w.trap.mode = false →
    i.wg = some g → i.w.live ≠ 0 →
    let b := barOf f
    let here := FMap.getD (g.bar b).mask i.w.index 0
    here &&& i.f.mask = 0 → subMask i.w.live (here ||| i.f.mask) = true →
    (∀ w ∈ i.core.wgWarps i.w.wg, w ≠ (i.wi, i.w) → w.2.live ≠ 0 ∧
      ((g.bar b).arr.contains w.2.index = true ∨ subMask w.2.live (FMap.getD (g.bar b).mask w.2.index 0) = true)) →
    (∃ t, exec (.bar f) s = .next t ∧
      PhaseDone s i g b (i.w.modFrag i.fi fun x => { x with state := .waiting, wait := .bar b, age := 0 }) t) ∧
    ∃ t, exec (.barr f) s = .next t ∧ PhaseDone s i g b (i.w.modFrag i.fi Frag.finish) t) ∧
  ∀ (w : Warp) (b n : Nat) (f : Frag),
    (FMap.sorted w.frags = true → FMap.get (w.leaveBar b).frags n = some f → f.state = .waiting →
      f.wait ≠ .bar b ∧ f.wait ≠ .barAgain b ∧ f.wait ≠ .barw b) ∧
    (w.frags = [(n, f)] → f.state = .waiting → f.wait = .bar b → ∃ o, (w.leaveBar b).frags = [(n, o)] ∧
      o.pc = nextSlot f.pc ∧ o.state = .ready ∧ o.mask = f.mask ∧ o.rcd = f.rcd ∧ o.held = f.held ∧ o.wait = .none)

/-- 05 R193, 11 R340: an arrival at a barrier that completes no phase, and one that does and releases its workgroup's warps.
The model's choices in it: notes/assumptions/42.md. -/
def Obligations.BarriersComplete : Prop := Claims.BarrierArrivals ∧ Claims.BarrierPhases

/-- 11 R342, R343: wcnt goes on where the class counter is at most n and no failed operation is covered, and waits where it
is more; sleep of no time goes on, and of some time waits until REFTIME has advanced by it. -/
def Sys2Proof.Claims.WaitsEnd : Prop :=
  ∀ (s : State) (i : Iss) (f : RForm), Issued s i →
    let cls := (f.ext.extractLsb' 0 2).toNat
    let n := (f.ext.extractLsb' 2 6).toNat
    let ns := (i.s32 f.b (f.ext.setWidth 32)).toNat
    ((i.w.counters.ofClass cls).1 ≤ n → i.w.covered cls n = [] →
      ∃ t j, exec (.wcnt f) s = .next t ∧ t.iss = some j ∧ j.f = i.f.endWait ∧ SameBytes s t) ∧
    (n < (i.w.counters.ofClass cls).1 → ∃ t, exec (.wcnt f) s = .next t ∧ Waits i (.wcnt cls n) t) ∧
    (ns = 0 → ∃ t, exec (.sleep f) s = .next t ∧ Gone s i (nextSlot i.f.pc) t) ∧
    (ns ≠ 0 → ∃ t, exec (.sleep f) s = .next t ∧ Waits i (.sleep (s.refTime + ns)) t)

/-- 11 R342, 02 R83, 12 R378: a wcnt outside trap mode that covers a failed engine operation is its trap, and the failure is
consumed; one in trap mode consumes covered failures with status LOST and goes on. -/
def Sys2Proof.Claims.WcntFails : Prop :=
  ∀ (s : State) (i : Iss) (f : RForm), Issued s i →
    let cls := (f.ext.extractLsb' 0 2).toNat
    let n := (f.ext.extractLsb' 2 6).toNat
    (i.w.counters.ofClass cls).1 ≤ n →
    (∀ e rest, i.f.trm = false → i.f.held = false → i.w.covered cls n = e :: rest →
      exec (.wcnt f) s = .next ((s.modWarp i.c i.wi fun w =>
        { w with fails := w.fails.filter fun x => !([e] : List EngineFail).contains x }).takeTrap
        i.c i.wi i.fi (i.engineTrap e))) ∧
    (i.f.trm = true → (∀ e ∈ i.w.covered cls n, e.status = 1) →
      ∃ t j, exec (.wcnt f) s = .next t ∧ t.iss = some j ∧ j.f = i.f.endWait ∧
        j.w.fails = i.w.fails.filter (fun x => !(i.w.covered cls n).contains x) ∧ SameBytes s t)

/-- 11 R342, R343: wcnt and sleep go on, wait, or take the trap of a failed engine operation. -/
def Obligations.WaitsComplete : Prop := Claims.WaitsEnd ∧ Claims.WcntFails

/-- 11 R344 to R346, 05 R183: trap outside trap mode is a SOFTWARE trap of the lanes that pass, with the code, A, and
TRAPPC past it; brk is a BREAKPOINT trap at itself. Entered where no relock or voltage move runs and the kernel handler
is a marked slot, the trap saves its cause and place and the fragment goes to the handler in trap mode. -/
def Obligations.TrapsComplete : Prop :=
  (∀ (s : State) (i : Iss) (f : RForm), Issued s i → i.w.trap.mode = false →
    (i.f.mask &&& i.guardMask f.guard ≠ 0 → exec (.trap f) s = .next (s.takeTrap i.c i.wi i.fi (softwareReq i f))) ∧
    (i.f.mask &&& i.guardMask f.guard = 0 → ∃ t, exec (.trap f) s = .next t ∧ Gone s i (nextSlot i.f.pc) t) ∧
    exec (.brk f) s = .next (s.takeTrap i.c i.wi i.fi (i.trapReq Cause.breakpoint 0 i.f.mask (codeOf f) 0))) ∧
  ∀ (s : State) (i : Iss) (g : Wg) (q : TrapReq), Issued s i → i.wg = some g → i.w.trap.mode = false → g.handler ≠ 0 →
    q.cause = Cause.software ∨ q.cause = Cause.breakpoint ∨ q.cause = Cause.accessViolation →
    (s.cluster (clusterOf i.c)).moving = false → s.targetOk i.c g.ctx i.f.priv g.handler = some true →
    ∃ t j, s.takeTrap i.c i.wi i.fi q = t ∧ t.iss = some j ∧ j.f.pc = g.handler ∧ j.f.trm = true ∧ j.f.mask = i.f.mask ∧
      j.f.priv = i.f.priv ∧ j.w.trap.mode = true ∧ j.w.trap.handler = .kernel ∧ j.w.trap.pc = q.pc ∧
      j.w.trap.cause = q.cause ∧ j.w.trap.sub = q.sub ∧ j.w.trap.mask = q.mask ∧ j.w.trap.info0 = q.info0 ∧
      j.w.trap.info1 = q.info1 ∧ j.w.trap.elvl = i.f.priv ∧
      (∀ n o, n ≠ i.fi → FMap.get j.w.frags n = some o → o.held = true) ∧ SameBytes s t

namespace Sys2Proof.Claims

/-- A fragment that holds every live lane issues a collective of the matrix engine on a tile that its workgroup has and
that no compute phase holds (12 R354, R355, R365). -/
structure Engaged (s : State) (i : Iss) (g : Wg) (f : XForm) : Prop where
  issued : Issued s i
  wg : i.wg = some g
  whole : i.f.mask = i.w.live
  tile : i.noTile f = false
  free : i.tileBusy f = false

/-- A tile of the issuing warp's workgroup holds given elements, and the other tiles and the rest of the workgroup what they
held. -/
def TileDone (i : Iss) (g : Wg) (n : Nat) (el : Nat → Nat → Word) (t : State) : Prop :=
  ∃ g', FMap.get (t.core i.c).wgs i.w.wg = some g' ∧ { g' with tile := [] } = { g with tile := [] } ∧
    (∀ r q, r < 32 → q < 32 → g'.elem n r q = el r q) ∧
    ∀ n' r q, n ≠ n' → r < 32 → q < 32 → g'.elem n' r q = g.elem n' r q

/-- MPROG no longer tells of a tile (12 R357). -/
def ProgOff (i j : Iss) (tile : Nat) : Prop := j.w.mprog = clearProg i.w.mprog tile

/-- The element of a tile that an mvx has written: A's lane in one of its three rows, for a live lane (12 R376). -/
def rowsFrom (i : Iss) (g : Wg) (f : XForm) (r q : Nat) : Word :=
  let l := 32 * (r - f.row) + q
  if f.row ≤ r ∧ r < f.row + 3 ∧ i.w.live.getLsbD l = true then (i.src false f.a 0 l).setWidth 32 else g.elem f.t r q

/-- The registers of a qmk's A operand. -/
def qmkReg (i : Iss) (f : XForm) (j : Nat) : Word :=
  match f.a with
  | .s n => i.w.readS i.f (n.toNat + j)
  | _ => 0

/-- The generation a quire slot gets when a record is written to it (12 R361). -/
def nextQuire (s : State) (i : Iss) (slot : Nat) : BitVec 16 :=
  let old := s.quire i.ctx slot
  if old.valid then nextGen old.gen else old.gen

end Sys2Proof.Claims

/-! Class 6: the matrix engine. -/

/-- 12 R354, R355, R357, R373, R376: mclr makes every element of its tile +0; mxv writes three rows of the tile to D's live lanes, late
where its issue is; mvx writes the live lanes of A to three rows of the tile. No other tile, register or byte changes; mclr and mvx
clear MPROG's V for the tile. -/
def Obligations.TileMovesComplete : Prop :=
  (∀ (s : State) (i : Iss) (g : Wg) (f : XForm), Engaged s i g f →
    ∃ t j, exec (.mclr f) s = .next t ∧ t.iss = some j ∧ j.f = i.f.endWait ∧ ProgOff i j f.t ∧
      TileDone i g f.t (fun _ _ => 0) t ∧ (∀ o, j.s32 o 0 = i.s32 o 0) ∧ j.w.v = i.w.v ∧ SameBytes s t) ∧
  (∀ (s : State) (i : Iss) (g : Wg) (f : XForm) (n : BitVec 6), Engaged s i g f → f.d = .v n → i.room 0 false f.d →
    ∃ t j, exec (.mxv f) s = .next t ∧ t.iss = some j ∧ j.f = i.f.endWait ∧ j.w.mprog = i.w.mprog ∧
      TileDone i g f.t (g.elem f.t) t ∧ (∀ o, j.s32 o 0 = i.s32 o 0) ∧ SameBytes s t ∧
      Lands i j n.toNat 1 i.w.live (fun l => (g.elem f.t (f.row + l / 32) (l % 32)).toNat) ∧
      ∀ n' l, l < 96 → ¬(i.w.live.getLsbD l = true ∧ n' = n.toNat) → (j.w.readV j.f n').at l = (i.w.readV i.f n').at l) ∧
  ∀ (s : State) (i : Iss) (g : Wg) (f : XForm), Engaged s i g f → f.row ≤ 29 →
    ∃ t j, exec (.mvx f) s = .next t ∧ t.iss = some j ∧ j.f = i.f.endWait ∧ ProgOff i j f.t ∧
      TileDone i g f.t (rowsFrom i g f) t ∧ (∀ o, j.s32 o 0 = i.s32 o 0) ∧ SameBytes s t

/-- 12 R374, R375: an mld whose words all pass their checks fills its tile from memory and changes no byte; an mst writes the
tile to the words it names, each of which holds its part where no later word lies on it, and changes no other byte but the
D bits. -/
def Sys2Proof.Claims.TileMoves : Prop :=
  (∀ (s : State) (i : Iss) (g : Wg) (f : XForm) (l : List Piece), Engaged s i g f → s.probeRows i f .load = .go l →
    Free s i .load (some 0) [(0, .go l)] → s.poisoned i.c 0 l = false →
    let words := (l.foldl (fun (a : List Nat × State) q =>
      ((a.2.loadPiece i.c 0 q).1 :: a.1, (a.2.loadPiece i.c 0 q).2)) ([], s.setCore i.c i.begin)).1.reverse
    let byte (r j : Nat) : Nat := bitsAt (words.getD ((r * rowBytes (rowFmt f) + j) / 4) 0) (8 * (j % 4)) 8
    ∃ t j, exec (.mld f) s = .next t ∧ t.iss = some j ∧ j.f = i.f.finish ∧ ProgOff i j f.t ∧
      TileDone i g f.t (fun r q => BitVec.ofNat 32 (rowElem (rowFmt f) (rowBlock f) (byte r) q)) t ∧
      (∀ o, j.s32 o 0 = i.s32 o 0) ∧ j.w.v = i.w.v ∧ SameBytes s t) ∧
  ∀ (s : State) (i : Iss) (g : Wg) (f : XForm) (l : List Piece), Engaged s i g f → s.probeRows i f .store = .go l →
    Free s i .store (some 0) [(0, .go l)] →
    let bytes := ((List.range 32).flatMap fun r =>
      packRow (rowFmt f) (rowBlock f) fun e => (g.elem f.t r e).toNat).toArray
    ∃ t j, exec (.mst f) s = .next t ∧ t.iss = some j ∧ j.f = i.f.finish ∧ j.w.mprog = i.w.mprog ∧
      TileDone i g f.t (g.elem f.t) t ∧ (∀ o, j.s32 o 0 = i.s32 o 0) ∧ j.w.v = i.w.v ∧ OutsideSame s t i.c l ∧
      ∀ a q b, l = a ++ q :: b → Kept i.core q b →
        t.locRead i.c q.loc q.bytes =
          leOf ((List.range 4).map fun j => bytes.getD (4 * a.length + j) 0) % 2 ^ (8 * q.bytes)

/-- 12 R375, 01 R15: an mld or mst one of whose words fails a check, where none waits for a walk, is the trap of the first, for the
whole fragment: no part of it is performed. -/
def Sys2Proof.Claims.TileMoveTraps : Prop :=
  ∀ (s : State) (i : Iss) (g : Wg) (f : XForm) (x : Instr) (acc : Acc) (t : TrapReq), Engaged s i g f →
    (x = .mld f ∧ acc = .load) ∨ (x = .mst f ∧ acc = .store) →
    let o := s.probeRows i f acc
    o.isMiss = false → (∀ a b, o ≠ .broken a b) → i.checkTrap [((lowLane i.f.mask).getD 0, o)] = some t →
    exec x s = .next (s.takeTrap i.c i.wi i.fi { t with mask := i.f.mask })

/-- 12 R374, R375: mld and mst move a tile, or trap.
The model's choices in it: notes/assumptions/51.md. -/
def Obligations.TileMemoryCompletes : Prop := Claims.TileMoves ∧ Claims.TileMoveTraps

/-- 12 R363 to R365, R369, R370: an mmac that the engine, the governor and the sub-arrays let start, with live operands of one
kind whose rows can all be read, enters its compute phase with the rows it has computed, is charged its cost, and goes on; one
that they do not let start stays, with the records it read; MMAC_COMPLETE, while the core's clock runs, writes the rows to the
tile and frees the engine. -/
def Obligations.MmacCompletes : Prop :=
  (∀ (s : State) (i : Iss) (g : Wg) (f : XForm) (qa qb : Quire) (cols : List (List FVal)) (rows : FMap Word) (s1 s2 : State),
    Engaged s i g f → s.mmacRecords i f = (some qa, some qb) →
    qa.isXb = qb.isXb → i.core.matrix.compute = none →
    let now := (s.cluster (clusterOf i.c)).rawcyc
    let sel := (i.s32 f.c 0).toNat
    let start := startRow i.w.mprog f.t
    let p : Product := { old := fun a b => if f.xfl.getLsbD 0 then 0 else (g.elem f.t a b).toNat, cols := cols }
    i.core.matrix.mustWait now start = false → i.core.matrix.admits now qa.cost = true →
    (s.modCore i.c fun k => { k with matrix := k.matrix.awake start }).readB i qb (32 * bitsAt sel 12 12) (bitsAt sel 24 8)
      (List.range 32) [] = .inr (cols, s1) →
    s1.rowsOfA i qa (32 * bitsAt sel 0 12) (bitsAt sel 24 8) p ((List.range 32).drop start) [] = (rows, none, s2) →
    ∃ t j, exec (.mmac f) s = .next t ∧ t.iss = some j ∧ j.f = i.f.endWait ∧ j.w.mprog = i.w.mprog &&& 0x7FFF_FFFF ∧
      j.core.matrix.compute = some { wg := i.w.wg, tile := f.t, rows := rows } ∧
      j.core.matrix.charge = i.core.matrix.chargeAt now + qa.cost) ∧
  (∀ (s : State) (i : Iss) (g : Wg) (f : XForm) (qa qb : Quire), Engaged s i g f → s.mmacRecords i f = (some qa, some qb) →
    qa.isXb = qb.isXb →
    let now := (s.cluster (clusterOf i.c)).rawcyc
    i.core.matrix.compute.isSome = true ∨ i.core.matrix.mustWait now (startRow i.w.mprog f.t) = true ∨
      i.core.matrix.admits now qa.cost = false →
    ∃ t j, exec (.mmac f) s = .next t ∧ t.iss = some j ∧ j.f = { i.f with quires := some (qa, qb) } ∧
      j.core.matrix.compute = i.core.matrix.compute ∧ TileDone i g f.t (g.elem f.t) t ∧ OnlyCore s t i.c ∧ SameBytes s t) ∧
  ∀ (s : State) (core : Nat) (c : Compute) (g : Wg), (s.core core).matrix.compute = some c →
    (s.cluster (clusterOf core)).frozen = false → FMap.get (s.core core).wgs c.wg = some g →
    ∃ t, exec (.mmacComplete core) s = .next t ∧ (t.core core).matrix.compute = none ∧
      FMap.get (t.core core).wgs c.wg = some (g.putElems c.tile c.rows) ∧ (t.core core).warps = (s.core core).warps ∧
      OnlyCore s t core ∧ SameBytes s t

/-- 12 R361, R362, R372: qmk and qmk.m write a record that breaks no rule to a slot of the context's quire table, VALID with the
slot's next generation where it was valid, and answer its handle; qinv makes a live slot invalid with the next generation;
pwrh changes nothing.
The model's choices in it: notes/assumptions/52.md. -/
def Obligations.QuiresComplete : Prop :=
  (∀ (s : State) (i : Iss) (f : XForm) (c : Ctx), Issued s i → i.scalarGo f.guard = true → scalarDst false f.d →
    FMap.get s.ctxs i.ctx = some c →
    let slot := (i.s32 f.b 0).toNat
    let q := quireOf (qmkWords f (qmkReg i f))
    quireBad q slot = none →
    ∃ t j, exec (.qmk f) s = .next t ∧ t.iss = some j ∧ SameBytes s t ∧
      After i j false f.d ((handleOf slot (nextQuire s i slot)).setWidth 64) i.w.sflags ∧
      t.quire i.ctx slot = { q with gen := nextQuire s i slot, valid := true } ∧
      ∀ n, n ≠ slot → t.quire i.ctx n = s.quire i.ctx n) ∧
  (∀ (s : State) (i : Iss) (f : XForm) (c : Ctx) (p : Piece) (l : List Piece), Issued s i → i.scalarGo f.guard = true →
    scalarDst false f.d → FMap.get s.ctxs i.ctx = some c → (i.s64 f.a 0).extractLsb' 0 6 = 0 →
    (List.range 8).foldl (fun (o : LaneOut) j =>
      o.join (s.probeGlobal i .load (i.s64 f.a 0 + BitVec.ofNat 64 (8 * j)) 8 8)) (.go []) = .go (p :: l) →
    Free s i .load (some 0) [(0, .go (p :: l))] → s.poisoned i.c 0 (p :: l) = false →
    let slot := (i.s32 f.b 0).toNat
    let words := ((p :: l).foldl (fun (a : List Dword × State) q =>
      (a.1 ++ [BitVec.ofNat 64 (a.2.loadPiece i.c 0 q).1], (a.2.loadPiece i.c 0 q).2)) ([], s.setCore i.c i.begin)).1
    quireBad (quireOf words) slot = none →
    ∃ t j, exec (.qmkM f) s = .next t ∧ t.iss = some j ∧ SameBytes s t ∧ j.f = i.f.finish ∧
      j.Holds false f.d ((handleOf slot (nextQuire s i slot)).setWidth 64) ∧
      t.quire i.ctx slot = { quireOf words with gen := nextQuire s i slot, valid := true }) ∧
  (∀ (s : State) (i : Iss) (f : XForm) (c : Ctx) (q : Quire), Issued s i → i.scalarGo f.guard = true →
    FMap.get s.ctxs i.ctx = some c → s.liveQuire i.ctx (i.s32 f.a 0) = some q →
    ∃ t j, exec (.qinv f) s = .next t ∧ t.iss = some j ∧ j.f = i.f.finish ∧ SameBytes s t ∧
      t.quire i.ctx (handleSlot (i.s32 f.a 0)) = { q with valid := false, gen := nextGen q.gen }) ∧
  ∀ (s : State) (i : Iss) (f : XForm), Issued s i → ∃ t, exec (.pwrh f) s = .next t ∧ Gone s i (nextSlot i.f.pc) t

/-- 12 R355, R358, R361, R364: an instruction on a tile that the workgroup does not have is an ACCESS_VIOLATION with sub-code
TILE, an mmac with an operand that is not live or with operands of two kinds and a qmk of a record that breaks a rule are
the traps of those rules.
The model's choices in it: notes/assumptions/50.md. -/
def Obligations.MatrixTraps : Prop :=
  (∀ (s : State) (i : Iss) (f : XForm) (x : Instr), Issued s i → i.f.mask = i.w.live → i.noTile f = true →
    x ∈ [Instr.mclr f, .mxv f, .mvx f, .mld f, .mst f, .mmac f] →
    exec x s = .next (s.takeTrap i.c i.wi i.fi
      (i.trapReq Cause.accessViolation 0x11 i.f.mask (BitVec.ofNat 32 f.t) 0))) ∧
  (∀ (s : State) (i : Iss) (g : Wg) (f : XForm), Engaged s i g f →
    (i.f.quires = none → s.liveQuire i.ctx (i.s32 f.a 0) = none → exec (.mmac f) s =
      .next (s.takeTrap i.c i.wi i.fi (i.trapReq Cause.staleHandle 0 i.f.mask (i.s32 f.a 0) 1))) ∧
    (∀ qa, i.f.quires = none → s.liveQuire i.ctx (i.s32 f.a 0) = some qa →
      s.liveQuire i.ctx (i.s32 f.b 0) = none → exec (.mmac f) s =
        .next (s.takeTrap i.c i.wi i.fi (i.trapReq Cause.staleHandle 0 i.f.mask (i.s32 f.b 0) 1))) ∧
    ∀ qa qb, s.mmacRecords i f = (some qa, some qb) → qa.isXb ≠ qb.isXb → exec (.mmac f) s =
      .next (s.takeTrap i.c i.wi i.fi (i.trapReq Cause.matrixOperand 2 i.f.mask 0 0))) ∧
  ∀ (s : State) (i : Iss) (f : XForm) (off : Nat), Issued s i → i.scalarGo f.guard = true →
    quireBad (quireOf (qmkWords f (qmkReg i f))) (i.s32 f.b 0).toNat = some off →
    exec (.qmk f) s = .next (s.takeTrap i.c i.wi i.fi
      (i.trapReq Cause.matrixOperand 1 i.f.mask (BitVec.ofNat 32 off) 0))

namespace Sys2Proof.Claims

/-- The commands of the engines: the guard, the class of the operation, and the operation or the trap (12 R377, R380 to R388). -/
def commandOf (i : Iss) : Instr → Option (Guard × Nat × (TrapReq ⊕ OpKind))
  | .cpy f => some (f.guard, if f.dsp == 2 || f.ssp == 2 then 2 else 0, i.copyOf f)
  | .cpyRa f => some (f.guard, 2, i.remoteAtomicOf f)
  | .stch f => some (f.guard, 1, match i.addrTrap (i.pairAfter f.a 0) 64 with
      | some t => .inl t
      | none => .inr (.stitch (i.pairAfter f.a 0).toNat))
  | _ => none

/-- A request to another package's memory that an operation makes as it issues finds an entry of the line class table (03 R120). -/
def Enters (i : Iss) : OpKind → Prop
  | .remoteAtomic (.remote pkg va) _ _ _ _ _ =>
    FMap.has i.core.lineClass (remoteLine pkg va) = true ∨ i.core.lineClass.length < lineEntries
  | _ => True

/-- An engine operation is in flight: it has a place on the core of its own, with its kind and nothing transferred, and a reserved
slot of the gathering it writes to, or it waits for one; its class counter has counted it, and the fragment has gone on
(12 R377, R380, 04 R153). -/
def InFlight (s : State) (i : Iss) (cls : Nat) (kind : OpKind) (t : State) : Prop :=
  ∃ j n o, t.iss = some j ∧ j.f = i.f.finish ∧ j.w.counters = i.w.counters.issue cls ∧ FMap.get i.core.ops n = none ∧
    FMap.get j.core.ops n = some o ∧ (∀ n', n ≠ n' → FMap.get j.core.ops n' = FMap.get i.core.ops n') ∧
    o.kind = kind ∧ o.cls = cls ∧ o.warp = i.wi ∧ o.warpUid = i.w.uid ∧ o.ctx = i.ctx ∧
    o.seq = (i.w.counters.ofClass cls).2 ∧ o.done = [] ∧ o.buf = [] ∧ j.w.s = i.w.s ∧ j.w.v = i.w.v ∧ SameBytes s t ∧
    match kind.ring with
    | none => o.slot = none ∧ o.waitsSlot = false ∧ j.core.gath = i.core.gath
    | some rec => ∀ g, FMap.get i.core.gath rec = some g →
        (g.free ≠ 0 → i.core.slotWaited rec = false → o.slot = some (rec, g.pi) ∧ FMap.get j.core.gath rec = some g.reserve) ∧
          (g.free = 0 ∨ i.core.slotWaited rec = true → o.slot = none ∧ o.waitsSlot = true ∧ j.core.gath = i.core.gath)

/-- After a gathering instruction: the record holds a new value, Z tells what it says, and the fragment has gone on; no other
record of the core has changed. -/
def RingDone (s : State) (i : Iss) (rec : Nat) (g : Gath) (z : Bool) (t : State) : Prop :=
  ∃ j, t.iss = some j ∧ j.f = i.f.finish ∧ j.w.sflags = setZ i.w.sflags z ∧ FMap.get j.core.gath rec = some g ∧
    (∀ n, rec ≠ n → FMap.get j.core.gath n = FMap.get i.core.gath n) ∧ (∀ o, j.s32 o 0 = i.s32 o 0) ∧ j.w.v = i.w.v ∧
    j.core.ops = i.core.ops ∧ OnlyCore s t i.c ∧ SameBytes s t

/-- What grinit and grinit.re ask of their operands (12 R384): a slot size and count in range, an offset of whole units, and a
live folio that holds every slot. -/
structure Bindable (i : Iss) (f : XForm) (slot : Nat) (fo : Folio) : Prop where
  reserved : bitsAt (i.s32 f.c 0).toNat 25 7 = 0
  size : bitsAt (i.s32 f.c 0).toNat 0 16 % 64 = 0
  sizeLow : 64 ≤ bitsAt (i.s32 f.c 0).toNat 0 16
  sizeHigh : bitsAt (i.s32 f.c 0).toNat 0 16 ≤ 32768
  countLow : 2 ≤ bitsAt (i.s32 f.c 0).toNat 16 9
  countHigh : bitsAt (i.s32 f.c 0).toNat 16 9 ≤ 256
  off : (i.s32 f.b 0).toNat % 64 = 0
  live : i.core.liveFolio i.ctx (i.s32 f.a 0) = some (slot, fo)
  fits : (i.s32 f.b 0).toNat + bitsAt (i.s32 f.c 0).toNat 0 16 * bitsAt (i.s32 f.c 0).toNat 16 9 ≤ 512 * fo.size

/-- The record that they bind: no slot reserved, filled or held. -/
def newRing (i : Iss) (f : XForm) : Gath :=
  { handle := i.s32 f.a 0, off := (i.s32 f.b 0).toNat / 64, slotsz := bitsAt (i.s32 f.c 0).toNat 0 16 / 64 - 1
    nslot := bitsAt (i.s32 f.c 0).toNat 16 9 - 1, pi := 0, ci := 0, res := 0, fill := 0, held := 0, order := []
    wg := i.w.wg }

end Sys2Proof.Claims

/-! Class 6: the engines and gatherings. -/

/-- 12 R377, R379, R380 to R383, R388, 04 R153: cpy, cpy.ra, stch and cpyg whose operands pass their checks start an operation
and go on; with the class counter full they stand, as does a cpy.ra for want of an entry of the line class table (03 R120), and an
operand that breaks a rule traps. A cpyg that no lane is active for only goes on. -/
def Sys2Proof.Claims.CommandsAct : Prop :=
  (∀ (s : State) (i : Iss) (x : Instr) (g : Guard) (cls : Nat) (e : TrapReq ⊕ OpKind), Issued s i →
    commandOf i x = some (g, cls, e) → i.scalarGo g = true →
    (i.counterFull cls = true → exec x s = .next s) ∧
    (i.counterFull cls = false → ∀ r, e = .inl r → exec x s = .next (s.takeTrap i.c i.wi i.fi r)) ∧
    (i.counterFull cls = false → ∀ k, e = .inr k → Enters i k → ∃ t, exec x s = .next t ∧ InFlight s i cls k t) ∧
    (∀ k, e = .inr k → ¬Enters i k → exec x s = .next s)) ∧
  ∀ (s : State) (i : Iss) (f : XForm), Issued s i →
    (i.active f.guard = 0 → ∃ t j, exec (.cpyg f) s = .next t ∧ Moved s i j t ∧ SameBytes s t) ∧
    (i.active f.guard ≠ 0 → i.counterFull 0 = true → exec (.cpyg f) s = .next s) ∧
    (i.active f.guard ≠ 0 → i.counterFull 0 = false → ∀ r, i.gatherOf f = .inl r →
      exec (.cpyg f) s = .next (s.takeTrap i.c i.wi i.fi r)) ∧
    (i.active f.guard ≠ 0 → i.counterFull 0 = false → ∀ k, i.gatherOf f = .inr k →
      ∃ t, exec (.cpyg f) s = .next t ∧ InFlight s i 0 k t)

/-- 12 R379, R380: a cpy of one row from a live folio to a global address is a copy of those bytes; a length that is 0, no multiple of
4 or above 16 MiB is an ENGINE_FAULT with sub-code ARG that names C's register, and a handle of the source that is not live is
a STALE_HANDLE. -/
def Sys2Proof.Claims.CopiesNamed : Prop :=
  ∀ (i : Iss) (f : XForm),
    let n := (i.sAfter f.c 0).toNat
    let off := (i.sAfter f.b 1).toNat
    let good := n % 4 = 0 ∧ 0 < n ∧ n ≤ 2 ^ 24
    (¬good → i.copyOf f = .inl (i.trapReq Cause.engineFault 5 i.f.mask (BitVec.ofNat 32 (regNum f.c)) 0)) ∧
    (f.xfl.getLsbD 4 = false → f.ssp = 1 → good →
      (i.core.liveFolio i.ctx (i.sAfter f.b 0) = none →
        i.copyOf f = .inl (i.trapReq Cause.staleHandle 0 i.f.mask (i.sAfter f.b 0) 0)) ∧
      ∀ slot fo, i.core.liveFolio i.ctx (i.sAfter f.b 0) = some (slot, fo) →
        (512 * fo.size < off + n →
          i.copyOf f = .inl (i.trapReq Cause.folioBounds 0 i.f.mask (i.sAfter f.b 0) (BitVec.ofNat 32 off))) ∧
        (off + n ≤ 512 * fo.size → f.dsp = 0 → nonCanonical (i.pairAfter f.a 0) = false → (i.pairAfter f.a 0).toNat % 4 = 0 →
          i.copyOf f = .inr (.copy (.global (i.pairAfter f.a 0).toNat) (.loc (i.sAfter f.b 0) off) 1 n 0 0)))

/-- 12 R377 to R383, R388, 04 R153: the engines' commands start an operation, stand, or trap, and what a cpy asks for.
The model's choices in it: notes/assumptions/57.md, notes/assumptions/59.md. -/
def Obligations.EngineCommandsIssue : Prop := Claims.CommandsAct ∧ Claims.CopiesNamed

/-- 12 R384, R387: grinit binds the lowest free record and answers its index, grinit.re rebinds one of the workgroup and ends the
operations of its old binding; an operand that breaks a rule, a handle that is not live, and a record that is not there or not the
workgroup's are the traps of those rules. -/
def Sys2Proof.Claims.GatheringsBind : Prop :=
  ∀ (s : State) (i : Iss) (f : XForm), Issued s i → i.scalarGo f.guard = true →
    let named := (f.ext.extractLsb' 0 4).toNat
    let geo := (i.s32 f.c 0).toNat
    (∀ x re, (x = .grinit f ∧ re = false) ∨ (x = .grinitRe f ∧ re = true) →
      (∀ r, i.bindGath f re = .inl r → exec x s = .next (s.takeTrap i.c i.wi i.fi r)) ∧
      (bitsAt geo 25 7 ≠ 0 ∨ bitsAt geo 0 16 % 64 ≠ 0 ∨ bitsAt geo 0 16 = 0 ∨ 32768 < bitsAt geo 0 16 ∨ bitsAt geo 16 9 < 2 ∨ 256 < bitsAt geo 16 9 →
        exec x s = .next (s.takeTrap i.c i.wi i.fi
          (i.trapReq Cause.engineFault 5 i.f.mask (BitVec.ofNat 32 (regNum f.c)) 0))) ∧
      ((i.s32 f.b 0).toNat % 64 = 0 → i.core.liveFolio i.ctx (i.s32 f.a 0) = none → bitsAt geo 25 7 = 0 →
        bitsAt geo 0 16 % 64 = 0 → bitsAt geo 0 16 ≠ 0 → bitsAt geo 0 16 ≤ 32768 → 2 ≤ bitsAt geo 16 9 →
        bitsAt geo 16 9 ≤ 256 → exec x s = .next (s.takeTrap i.c i.wi i.fi
          (i.trapReq Cause.staleHandle 0 i.f.mask (i.s32 f.a 0) 0)))) ∧
    ∀ slot fo, scalarDst false f.d → Bindable i f slot fo →
      (FMap.freeKey i.core.gath 16 = none → exec (.grinit f) s = .next (s.takeTrap i.c i.wi i.fi
        (i.trapReq Cause.engineFault 1 i.f.mask 16 0))) ∧
      (∀ rec, FMap.freeKey i.core.gath 16 = some rec → ∃ t j, exec (.grinit f) s = .next t ∧ t.iss = some j ∧
        After i j false f.d (BitVec.ofNat 64 rec) i.w.sflags ∧ FMap.get j.core.gath rec = some (newRing i f) ∧
        (∀ n, n ≠ rec → FMap.get j.core.gath n = FMap.get i.core.gath n) ∧ SameBytes s t) ∧
      ((∀ g, FMap.get i.core.gath named = some g → g.wg ≠ i.w.wg) → exec (.grinitRe f) s =
        .next (s.takeTrap i.c i.wi i.fi (i.trapReq Cause.engineFault 1 i.f.mask (BitVec.ofNat 32 named) 0))) ∧
      ∀ g, FMap.get i.core.gath named = some g → g.wg = i.w.wg →
        i.core.ringWaiters named = [] → ∃ t j, exec (.grinitRe f) s = .next t ∧ t.iss = some j ∧
          j.f = i.f.endWait ∧ j.Holds false f.d (BitVec.ofNat 64 named) ∧ FMap.get j.core.gath named = some (newRing i f) ∧
          (∀ r ∈ j.w.reserved, r.1 ≠ named) ∧
          (∀ n o, FMap.get i.core.ops n = some o → o.inGath named = true → o.status = none →
            ∃ o', FMap.get j.core.ops n = some o' ∧ o'.status = some (if o.lost.isSome then 1 else 3)) ∧ SameBytes s t

/-- 12 R385 to R387, 03 R106, R107: grget takes the oldest filled slot and answers its offset, or waits; grput.res reserves a slot, or
waits; grput completes the oldest slot that the warp reserved in the record; grrel frees a held slot; both tell in Z where there
is none; each traps where its record is not bound. -/
def Sys2Proof.Claims.GatheringsMove : Prop :=
  (∀ (s : State) (i : Iss) (f : XForm) (x : Instr), Issued s i → i.scalarGo f.guard = true →
    x ∈ [Instr.grget f, .grputRes f, .grput f, .grrel f] → FMap.get i.core.gath (i.s32 f.a 0).toNat = none →
    exec x s = .next (s.takeTrap i.c i.wi i.fi (i.trapReq Cause.engineFault 1 i.f.mask (i.s32 f.a 0) 0))) ∧
  (∀ (s : State) (i : Iss) (f : XForm) (g : Gath), Issued s i → i.scalarGo f.guard = true → scalarDst false f.d →
    let ring := (i.s32 f.a 0).toNat
    FMap.get i.core.gath ring = some g →
    (g.fill ≠ 0 → ∃ t j, exec (.grget f) s = .next t ∧ t.iss = some j ∧
      After i j false f.d ((BitVec.ofNat 32 (g.slotOff g.ci)).setWidth 64) i.w.sflags ∧ SameBytes s t ∧
      FMap.get j.core.gath ring = some { g with fill := g.fill - 1, held := g.held + 1, ci := (g.ci + 1) % g.count }) ∧
    (g.fill = 0 → ∃ t, exec (.grget f) s = .next t ∧ Waits i (.grget ring f.d) t) ∧
    (g.free ≠ 0 → ∃ t j, exec (.grputRes f) s = .next t ∧ t.iss = some j ∧
      After i j false f.d ((BitVec.ofNat 32 (g.slotOff g.pi)).setWidth 64) i.w.sflags ∧ SameBytes s t ∧
      j.w.reserved = i.w.reserved ++ [(ring, g.pi)] ∧ FMap.get j.core.gath ring = some g.reserve) ∧
    (g.free = 0 → ∃ t, exec (.grputRes f) s = .next t ∧ Waits i (.grputRes ring f.d) t)) ∧
  ∀ (s : State) (i : Iss) (f : XForm) (g : Gath), Issued s i → i.scalarGo f.guard = true →
    let ring := (i.s32 f.a 0).toNat
    FMap.get i.core.gath ring = some g →
    (∀ rec slot, (i.w.reserved.find? fun r => r.1 == ring) = some (rec, slot) → Quiet i.w → NoneQueued i →
      ∃ t, exec (.grput f) s = .next t ∧ RingDone s i ring (g.complete slot) false t ∧
        (t.warp i.c i.wi).map (·.reserved) = some (i.w.reserved.filter fun r => r != (ring, slot))) ∧
    ((i.w.reserved.find? fun r => r.1 == ring) = none → ∃ t, exec (.grput f) s = .next t ∧ RingDone s i ring g true t) ∧
    (g.held ≠ 0 → Quiet i.w → NoneQueued i →
      ∃ t, exec (.grrel f) s = .next t ∧ RingDone s i ring { g with held := g.held - 1 } false t) ∧
    (g.held = 0 → ∃ t, exec (.grrel f) s = .next t ∧ RingDone s i ring g true t)

/-- 12 R384 to R387, 03 R106, R107: gatherings are bound, and their slots reserved, filled, taken and freed.
The model's choices in it: notes/assumptions/57.md, notes/assumptions/133.md. -/
def Obligations.GatheringsComplete : Prop := Claims.GatheringsBind ∧ Claims.GatheringsMove

namespace Sys2Proof.Claims

/-- An engine may move a word of a copy operation now: the core's clock runs, the operation has not failed, and no quantum is
pending in the package (12 R379, 15 R443, 04 R152). -/
structure Copies (s : State) (core op : Nat) (o : EngineOp) (rows len : Nat) : Prop where
  here : FMap.get (s.core core).ops op = some o
  clock : (s.cluster (clusterOf core)).frozen = false
  runs : o.runs = true
  kind : ∃ dst src ss ds, o.kind = .copy dst src rows len ss ds
  quanta : ∀ k ∈ s.cores, NoQuanta k.2

/-- An engine's access to a word of memory is performed: the address translates, its line is not poisoned, and a request of some
bytes of it finds an entry of the line class table and a grant (03 R99, R120, 15 R455), where the line of the operation's last
request is not to be asked for again. -/
structure Reaches (s : State) (core : Nat) (o : EngineOp) (acc : Acc) (va : Dword) (pa : Nat) (dirty : List Nat)
    (bytes : Nat) (asked : Bool) : Prop where
  translated : ∃ plc die, s.translate o.ctx o.level0 acc va = .pa pa plc die dirty
  room : (asked = true ∧ o.line = some (pa / 64)) ∨ (s.lineRequest core (pa / 64) 0 bytes).isSome = true
  good : s.poison.contains (pa / 64) = false

end Sys2Proof.Claims

/-- 12 R379, R380, 02 R81, 03 R95, R107, R115, 17 R496: CER_ENGINE_READ of a word of a copy keeps its value, from the folio where that
has capacity or from memory, a line of which is asked for once, and CEW_ENGINE_WRITE writes it to where the folio lies now or to
memory; a word for a LOST folio is dropped, and the copy goes on; GATHERING_RESERVE gives the one operation that waits for a slot
the next one.
The model's choices in it: notes/assumptions/53.md, notes/assumptions/132.md. -/
def Obligations.EngineWordsMove : Prop :=
  (∀ (s : State) (core op word : Nat) (o : EngineOp) (rows len : Nat), Claims.Copies s core op o rows len →
    FMap.has o.buf word = false → o.done.contains word = false →
    (∀ h off slot x, (s.core core).readSpot o word = some (.folio h off) →
      (s.core core).folioSpot o.ctx h off = some (.inl (.folio slot x)) →
      (s.core core).padBroken (handleSlot h) off 4 = false →
      ∃ t, exec (.cerEngineRead (.core core) op word) s = .next t ∧ OnlyCore s t core ∧ SameBytes s t ∧
        FMap.get (t.core core).ops op =
          some { o with buf := FMap.set o.buf word (BitVec.ofNat 32 (s.locRead core (.folio slot x) 4)) }) ∧
    ∀ va pa d, (s.core core).readSpot o word = some (.va va) → Claims.Reaches s core o .engineRead va pa d 64 true →
      ∃ t, exec (.cerEngineRead (.core core) op word) s = .next t ∧ SameBytes s t ∧
        FMap.get (t.core core).ops op =
          some { o with buf := FMap.set o.buf word (BitVec.ofNat 32 (s.mread pa 4)), line := some (pa / 64) }) ∧
  (∀ (s : State) (core op word : Nat) (o : EngineOp) (v : Word) (rows len : Nat), Claims.Copies s core op o rows len →
    word < rows * len / 4 → o.done.contains word = false → FMap.get o.buf word = some v →
    (∀ h off slot x, (s.core core).writeSpot o word = some (.folio h off) →
      (s.core core).folioSpot o.ctx h off = some (.inl (.folio slot x)) →
      (s.core core).padBroken (handleSlot h) off 4 = false → (s.core core).unclaimed o (handleSlot h) = false →
      (s.core core).overlapped o (.folio h off) = false →
      ∃ t, exec (.cewEngineWrite (.core core) op word) s = .next t ∧ OnlyCore s t core ∧
        t.locRead core (.folio slot x) 4 = v.toNat ∧
        (∀ a, ¬(((s.core core).folio slot).padAddr x ≤ a ∧ a < ((s.core core).folio slot).padAddr x + 4) →
          Memory.read (t.core core).pad a = Memory.read (s.core core).pad a) ∧
        FMap.get (t.core core).ops op = some { o with done := word :: o.done }) ∧
    (∀ h off slot f, (s.core core).writeSpot o word = some (.folio h off) →
      (s.core core).liveFolio o.ctx h = some (slot, f) → f.state = .lost → (s.core core).overlapped o (.folio h off) = false →
      ∃ t, exec (.cewEngineWrite (.core core) op word) s = .next t ∧ OnlyCore s t core ∧ SameBytes s t ∧
        FMap.get (t.core core).ops op = some (o.dropWord word h off)) ∧
    ∀ va pa d, (s.core core).writeSpot o word = some (.va va) → Claims.Reaches s core o .engineWrite va pa d 4 false →
      (s.core core).overlapped o (.va va) = false →
      ∃ t, exec (.cewEngineWrite (.core core) op word) s = .next t ∧ t.mread pa 4 = v.toNat ∧
        FMap.get (t.core core).cdc (pa / 64) = none ∧
        (∀ a, ¬(pa ≤ a ∧ a < pa + 4) → (∀ b ∈ d, ¬(b ≤ a ∧ a < b + 8)) → Memory.read t.mem a = Memory.read s.mem a) ∧
        FMap.get (t.core core).ops op = some { o with done := word :: o.done }) ∧
  ∀ (s : State) (core rec n : Nat) (g : Gath) (o : EngineOp), (s.cluster (clusterOf core)).frozen = false →
    FMap.get (s.core core).gath rec = some g → g.free ≠ 0 →
    (((s.core core).ops.filter fun p => p.2.waitsSlot && p.2.status.isNone && p.2.kind.ring == some rec).map (·.1)) = [n] →
    FMap.get (s.core core).ops n = some o →
    ∃ t, exec (.gatheringReserve core rec) s = .next t ∧ FMap.get (t.core core).gath rec = some g.reserve ∧
      FMap.get (t.core core).ops n = some { o with slot := some (rec, g.pi), waitsSlot := false } ∧ SameBytes s t

/-- 04 R153, 12 R377, R390: the completion event of a class, of an operation that has written every word or failed and behind
which no older one of its warp and class is left, takes the operation from its core, counts it off in its warp, and leaves
a failure for the covering wcnt: one whose words were dropped at a LOST folio failed with status LOST (02 R81). -/
def Obligations.EnginesReport : Prop :=
  ∀ (s : State) (core op w : Nat) (o : EngineOp) (x : Warp) (e : Instr), FMap.get (s.core core).ops op = some o →
    (e = .copyCompletion core op ∧ o.cls = 0 ∧ o.warp ≠ 24) ∨ (e = .stitchCompletion core op ∧ o.cls = 1) ∨
      (∃ r, e = .remoteCompletion core op r ∧ o.cls = 2 ∧ (o.status = none → r.status = 0 ∧ o.needsReply = false)) →
    (s.cluster (clusterOf core)).frozen = false → s.olderOp o = false → s.warp core w = some x → x.uid = o.warpUid →
    o.status.isSome = true ∨ o.written = true →
    ∃ t y, exec e s = .next t ∧ FMap.get (t.core core).ops op = none ∧ t.warp core w = some y ∧
      y.counters = x.counters.finish o.cls ∧ SameBytes s t ∧
      y.fails = match o.status, o.lost with
        | none, none => x.fails
        | none, some (_, h, off) => x.fails ++ [{ cls := o.cls, seq := o.seq, status := 1, info0 := h, info1 := off }]
        | some st, _ => if st = 0 ∨ st = 3 then x.fails
          else x.fails ++ [{ cls := o.cls, seq := o.seq, status := st, info0 := o.info0, info1 := o.info1 }]

namespace Sys2Proof.Claims

/-- After a system instruction: the fragment has gone on, and no byte has changed. -/
def Passed (s : State) (i : Iss) (t : State) : Prop := ∃ j, t.iss = some j ∧ j.f = i.f.finish ∧ SameBytes s t

/-- The translations that a tlbinv.addr of a context keeps. -/
def keepsPage (i : Iss) (f : RForm) (t : Tlb) : Bool := !(t.owner == i.tlbCtx f && t.covers ((i.s64 f.a 0).toNat / 4096))

end Sys2Proof.Claims

/-! Class 7: the system. -/

/-- 13 R395, R396, R398, 12 R357: rds of 32 or 64 bits answers a special register; wrs writes SFLAGS and FFLAGS but for their
reserved bits, TRAPPC and TRAPCTL's EXITL and STEP in trap mode, MPROG's V and TILE with its ROW where that is below 32 and its
reserved bits zero, and no field that is RO. -/
def Obligations.SpecialRegisters : Prop :=
  (∀ (s : State) (i : Iss) (f : RForm), Issued s i → i.scalarGo f.guard = true → scalarDst (f.ty == .n64) f.d →
    ∃ t, exec (.rds f) s = .next t ∧
      ScalarDone s i (f.ty == .n64) f.d
        (if f.ty == .n64 then s.special64 i (specialOf f) else (s.special32 i (specialOf f)).setWidth 64) i.w.sflags t) ∧
  ∀ (s : State) (i : Iss) (f : RForm), Issued s i → i.scalarGo f.guard = true →
    let v := i.scalarSrc (f.ty == .n64) f.a 0
    let x := v.extractLsb' 0 32
    ∃ t j, exec (.wrs f) s = .next t ∧ t.iss = some j ∧ j.f = i.f.finish ∧ SameBytes s t ∧ OnlyWarp s t i.c i.wi ∧
      (∀ o, j.s32 o 0 = i.s32 o 0) ∧
      j.w.sflags = (if specialOf f = 0x20 then x &&& 0x3F else i.w.sflags) ∧
      j.w.fflags = (if specialOf f = 0x21 then x &&& 0x1F else i.w.fflags) ∧
      j.w.trap = (if i.w.trap.mode = true ∧ specialOf f = 0x28 then { i.w.trap with pc := v.extractLsb' 0 54 }
        else if i.w.trap.mode = true ∧ specialOf f = 0x30 then
          { i.w.trap with exitl := x.getLsbD 1, step := x.getLsbD 0 } else i.w.trap) ∧
      (specialOf f ≠ 0x38 → j.w.mprog = i.w.mprog) ∧
      (specialOf f = 0x38 → j.w.mprog.extractLsb' 24 8 = x.extractLsb' 24 8 ∧ j.w.mprog.extractLsb' 6 18 = 0 ∧
        j.w.mprog.extractLsb' 0 6 = if 32 ≤ (x.extractLsb' 0 6).toNat then i.w.mprog.extractLsb' 0 6 else x.extractLsb' 0 6) ∧
      j.w = { i.w with frags := j.w.frags, sflags := j.w.sflags, fflags := j.w.fflags, trap := j.w.trap, mprog := j.w.mprog }

/-- 05 R186, 13 R399: a tret of the handler's only fragment leaves trap mode: the fragment goes on at TRAPPC at its level from before
the trap, nothing is HELD, and the trap bank's v registers are free; a TRAPPC that wrs changed is judged as a transfer's target
is. With EXITL the lanes of TRAPMASK leave first. -/
def Sys2Proof.Claims.TrapsLeft : Prop :=
  ∀ (s : State) (i : Iss) (f : RForm), Issued s i → i.w.trap.mode = true → i.f.trm = true →
    (∀ p ∈ i.w.frags, p.1 = i.fi ∨ p.2.trm = false) →
    (i.w.trap.exitl = false → ∀ u, (i.w.trap.pc = i.w.trap.entryPc ∧ u = s) ∨
        (i.w.trap.pc ≠ i.w.trap.entryPc ∧ s.judge i i.w.trap.elvl i.w.trap.pc = (.judged true, u)) →
      ∃ t j, exec (.tret f) s = .next t ∧ t.iss = some j ∧ j.f.pc = i.w.trap.pc ∧ j.f.trm = false ∧
        j.f.priv = i.w.trap.elvl ∧ j.f.mask = i.f.mask ∧
        j.f.pend = (if i.w.trap.pc = i.w.trap.entryPc then i.w.trap.pend else 0) ∧ j.f.step = i.w.trap.step ∧
        j.w.trap = { i.w.trap with mode := false } ∧ j.w.vTrap = [] ∧ j.w.v = i.w.v ∧ j.w.s = i.w.s ∧ j.w.k = i.w.k ∧
        (∀ n o, FMap.get j.w.frags n = some o → o.held = false) ∧ OnlyWarp u t i.c i.wi ∧ SameBytes s t) ∧
    (i.w.trap.pc = i.w.trap.entryPc → i.w.trap.exitl = true →
      (i.w.live &&& ~~~i.w.trap.mask ≠ 0 → ∃ t x, exec (.tret f) s = .next t ∧ t.warp i.c i.wi = some x ∧
        x.live = i.w.live &&& ~~~i.w.trap.mask ∧ x.trap.mode = false) ∧
      (i.w.live &&& ~~~i.w.trap.mask = 0 → ∃ t, exec (.tret f) s = .next t ∧ t.warp i.c i.wi = none))

/-- 05 R186, R187, 13 R399: outside trap mode a tret is an ILLEGAL_CONVERGENCE trap; in it, one of a HELD fragment, one beside a
handler's fragment that is not parked, and one to a TRAPPC that wrs changed to what is no slot to go to, are double traps; beside
parked fragments alone it waits. -/
def Sys2Proof.Claims.TrapsKept : Prop :=
  ∀ (s : State) (i : Iss) (f : RForm), Issued s i →
    (i.w.trap.mode = false → exec (.tret f) s =
      .next (s.takeTrap i.c i.wi i.fi (i.trapReq Cause.illegalConvergence 3 i.f.mask 0 0))) ∧
    (i.w.trap.mode = true →
      let twice := s.doubleTrap i.c i.wi Cause.illegalConvergence i.f.pc
      (i.f.trm = false → exec (.tret f) s = .next twice) ∧
      (i.f.trm = true →
        ((∃ p ∈ i.w.frags, p.1 ≠ i.fi ∧ p.2.trm = true ∧ p.2.state ≠ .parked) → exec (.tret f) s = .next twice) ∧
        ((∃ p ∈ i.w.frags, p.1 ≠ i.fi ∧ p.2.trm = true) →
          (∀ p ∈ i.w.frags, p.1 = i.fi ∨ p.2.trm = false ∨ p.2.state = .parked) →
          ∃ t, exec (.tret f) s = .next t ∧ Waits i .tret t ∧ OnlyWarp s t i.c i.wi ∧ SameBytes s t) ∧
        ((∀ p ∈ i.w.frags, p.1 = i.fi ∨ p.2.trm = false) → i.w.trap.pc ≠ i.w.trap.entryPc →
          (∀ u, s.judge i i.w.trap.elvl i.w.trap.pc = (.judged false, u) →
            exec (.tret f) s = .next (s.doubleTrap i.c i.wi Cause.illegalTarget i.f.pc)) ∧
          ∀ u cause, s.judge i i.w.trap.elvl i.w.trap.pc = (.unreadable cause, u) →
            exec (.tret f) s = .next (s.doubleTrap i.c i.wi cause i.w.trap.pc))))

/-- 05 R186, R187, 13 R399: a tret leaves trap mode, waits, or traps.
The model's choices in it: notes/assumptions/66.md. -/
def Obligations.TrapReturn : Prop := Claims.TrapsLeft ∧ Claims.TrapsKept

/-- 13 R401: cinv discards the copies that the selected caches of its core hold of the lines of every active lane's extent that
translate, cflush the data cache's copies of the lines that its lanes' checks pass; no byte of memory changes. -/
def Sys2Proof.Claims.CachesCleaned : Prop :=
  (∀ (s : State) (i : Iss) (f : MForm), Issued s i → ∃ t, exec (.cinv f) s = .next t ∧ Passed s i t ∧
    ∀ l ∈ lanesOf (i.active f.guard), ∀ va x n,
      i.lineBase f (i.src f.pairBase f.a 0 l) (i.src false f.b 0 l) l = some va → x ∈ lineAddrs f va →
      (f.aop.toNat ≠ 1 → s.lineAt i .load x = some n → FMap.get (t.core i.c).cdc n = none) ∧
        (f.aop.toNat ≠ 0 → s.lineAt i .fetch x = some n →
          FMap.get (t.core i.c).icache n = none ∧ FMap.get (t.core i.c).badLines n = none)) ∧
  ∀ (s : State) (i : Iss) (f : MForm), Issued s i →
    let outs := (lanesOf (i.active f.guard)).map fun l =>
      (l, s.probeFlush i f (i.src f.pairBase f.a 0 l) (i.src false f.b 0 l) l)
    Granted outs → Free s i .load none outs →
    ∃ t, exec (.cflush f) s = .next t ∧ Passed s i t ∧
      ∀ p pa, p ∈ allPieces (goLanes outs) → p.loc = .global pa → FMap.get (t.core i.c).cdc (pa / 64) = none

/-- 13 R402: tlbinv discards the translations or range copies that it names, the range copies read anew, and goes on; it stands while
a translated access of the context's warps waits, and of a context that is not there only goes on. -/
def Sys2Proof.Claims.TranslationsDropped : Prop :=
  ∀ (s : State) (i : Iss) (f : RForm), Issued s i →
    let ctx := i.tlbCtx f
    (FMap.get s.ctxs ctx = none → ∀ x ∈ [Instr.tlbinvAddr f, .tlbinvCtx f, .tlbinvRng f],
      ∃ t, exec x s = .next t ∧ Passed s i t ∧ t.tlb1 = s.tlb1) ∧
    ∀ c, FMap.get s.ctxs ctx = some c →
      let quiet := s.ctxQuiet fun x => x == ctx
      let goes (t : State) : Prop := ∃ j, t.iss = some j ∧ j.f = if quiet then i.f.finish else i.f
      let reread (t : State) : Prop :=
        FMap.get t.ctxs ctx = some { c with ranges := s.readRanges (ctxPart ctx) c.rng1 } ∧
          ∀ a, Memory.read t.mem a = Memory.read (s.usedRanges (ctxPart ctx) c.rng1).mem a
      (∃ t, exec (.tlbinvAddr f) s = .next t ∧ goes t ∧ SameBytes s t ∧ t.tlb1 = s.tlb1.filter (keepsPage i f)) ∧
      (∃ t, exec (.tlbinvCtx f) s = .next t ∧ goes t ∧ t.tlb1 = s.tlb1.filter (fun x => x.owner != ctx) ∧ reread t) ∧
      ∃ t, exec (.tlbinvRng f) s = .next t ∧ goes t ∧ t.tlb1 = s.tlb1 ∧ reread t

/-- 13 R405, R406: blst adds plane-cycles of ballast; halt goes on and stops its context. -/
def Sys2Proof.Claims.CoreHalts : Prop :=
  (∀ (s : State) (i : Iss) (f : RForm), Issued s i → ∃ t, exec (.blst f) s = .next t ∧ Passed s i t ∧
    (t.core i.c).matrix =
      { i.core.matrix with ballast := i.core.matrix.ballast + (i.s32 f.a 0).toNat % 65536 }) ∧
  ∀ (s : State) (i : Iss) (f : RForm) (c : Ctx), Issued s i → FMap.get s.ctxs i.ctx = some c →
    ∃ t j, exec (.halt f) s = .next t ∧ t.iss = some j ∧ j.f = i.f.finish ∧
      FMap.get t.ctxs i.ctx = some { c with halted := true }

/-- 13 R401, R402, R405, R406: cinv, cflush and tlbinv discard the copies that they name; blst adds plane-cycles of ballast; halt
stops its context.
The model's choices in it: notes/assumptions/64.md, notes/assumptions/67.md, notes/assumptions/68.md. -/
def Obligations.SystemCompletes : Prop := Claims.CachesCleaned ∧ Claims.TranslationsDropped ∧ Claims.CoreHalts

/-- 12 R391, R392, 14 R411, R412, R421: lnch has the packet that its registers hold accepted or refused and answers its identifier, sets Z
where the queue is full, or traps for a queue that there is none of; cncl answers 0 for a unit that it cancels, 1 for one that has
ended and 2 for one that is not there.
The model's choices in it: notes/assumptions/69.md. -/
def Obligations.PacketInstructions : Prop :=
  (∀ (s : State) (i : Iss) (f : XForm), Issued s i → i.scalarGo f.guard = true →
    let q := (i.s32 f.b 0).toNat
    let part := ctxPart i.ctx
    let words := i.packetWords f.a
    let full := 16 ≤ ((s.part part).queue q).packets.length
    (64 ≤ q → exec (.lnch f) s = .next (s.takeTrap i.c i.wi i.fi
      (i.trapReq Cause.engineFault 5 i.f.mask (BitVec.ofNat 32 (regNum f.b)) 0))) ∧
    (q < 64 → scalarDst false f.d →
      (full → ∃ t j, exec (.lnch f) s = .next t ∧ t.iss = some j ∧ SameBytes s t ∧
        After i j false f.d 0 (setZ i.w.sflags true)) ∧
      (¬full → Quiet i.w → NoneQueued i →
        let r := s.accept part q i.ctx words
        (∃ t j, exec (.lnch f) s = .next t ∧ t.iss = some j ∧
          After i j false f.d (BitVec.ofNat 64 (r.1 % 2 ^ 32)) (setZ i.w.sflags false) ∧ t.launches = r.2.launches ∧
          t.parts = r.2.parts ∧ t.jobs = r.2.jobs) ∧
        (((s.part part).queue q).ena = true → badPacket words = false → FMap.has s.ctxs i.ctx = true →
          bitsAt (words.getD 0 0).toNat 0 16 = 0 → r.1 = launchKey part (s.part part).nextLaunch % 2 ^ 32 ∧
            ((r.2.part part).queue q).packets = ((s.part part).queue q).packets ++
              [{ id := r.1, ctx := i.ctx, words := words }])))) ∧
  ∀ (s : State) (i : Iss) (f : XForm), Issued s i → i.scalarGo f.guard = true → scalarDst false f.d →
    let id := (i.s32 f.a 0).toNat
    let part := ctxPart i.ctx
    (∀ x, x ∈ [Instr.cnclLaunch f, .cnclGraph f] → FMap.get s.launches (launchKey part id) = none →
      ∃ t j, exec x s = .next t ∧ t.iss = some j ∧ SameBytes s t ∧ After i j false f.d 2 i.w.sflags) ∧
    (∀ l, FMap.get s.launches (launchKey part id) = some l →
      (l.state = .ended → ∃ t j, exec (.cnclLaunch f) s = .next t ∧ t.iss = some j ∧ SameBytes s t ∧
        After i j false f.d 1 i.w.sflags) ∧
      (∀ x, x = Instr.cnclLaunch f ∨ (x = .cnclGraph f ∧ l.kind = 2) → l.state = .queued →
        FMap.get s.runs (launchKey part id) = none →
        ∃ t j l', exec x s = .next t ∧ t.iss = some j ∧ SameBytes s t ∧ After i j false f.d 0 i.w.sflags ∧
          FMap.get t.launches (launchKey part id) = some l' ∧ l'.cancelled = true ∧ l'.state = .running ∧
          ∀ p ∈ ((t.part (launchPart (launchKey part id))).queue l.queue).packets, p.id ≠ launchKey part id % 2 ^ 32) ∧
      (∀ x, x = Instr.cnclLaunch f ∨ (x = .cnclGraph f ∧ l.kind = 2) → l.state = .running →
        FMap.get s.runs (launchKey part id) = none →
        ∃ t l', exec x s = .next t ∧ FMap.get t.launches (launchKey part id) = some l' ∧ l'.cancelled = true ∧ l'.live = 0 ∧
          l'.next = l.nx * l.ny * l.nz)) ∧
    (FMap.get s.jobs (jobKey part id) = none → ∃ t j, exec (.cnclJob f) s = .next t ∧ t.iss = some j ∧
      After i j false f.d 2 i.w.sflags) ∧
    ∀ job, FMap.get s.jobs (jobKey part id) = some job → id < 65536 →
      (job.done = true → ∃ t j, exec (.cnclJob f) s = .next t ∧ t.iss = some j ∧ After i j false f.d 1 i.w.sflags) ∧
      (job.done = false → s.launches = [] → ∃ t j, exec (.cnclJob f) s = .next t ∧ t.iss = some j ∧
        After i j false f.d 0 i.w.sflags ∧ FMap.get t.jobs (jobKey part id) = some { job with cancelled := true })

/-- 13 R403, R408: ctxsv asks for the save of the workgroup that it names and stands; the save having ended it answers 0, frozen at a
fault 1, and 2 for a workgroup that is not there or an operand that breaks a rule. -/
def Sys2Proof.Claims.SavesAsked : Prop :=
  ∀ (s : State) (i : Iss) (f : RForm), Issued s i → i.scalarGo f.guard = true → scalarDst false f.d →
    let b := i.s32 f.b 0
    let ipa := (i.s64 f.a 0).toNat
    let slot := (b.extractLsb' 0 5).toNat
    let good := b.extractLsb' 17 15 = 0 ∧ ipa % 4096 = 0
    let answers (n : Dword) : Prop := ∃ t j, exec (.ctxsv f) s = .next t ∧ t.iss = some j ∧ SameBytes s t ∧
      After i j false f.d n i.w.sflags ∧ j.w.saving = false
    (s.namedCore b = none → answers (if i.w.saving then 0 else 2)) ∧
    ∀ c, s.namedCore b = some c →
      (FMap.get (s.core c).wgs slot = none → answers (if i.w.saving = true ∧ b.extractLsb' 17 15 = 0 then 0 else 2)) ∧
      ∀ g, FMap.get (s.core c).wgs slot = some g →
        (¬good → answers 2) ∧
        (good → (g.frozen.isSome = true → answers 1) ∧
          (g.frozen = none →
            (i.w.saving = true → g.preempt = none → answers 0) ∧
            (i.w.saving = true → g.preempt ≠ none → exec (.ctxsv f) s = .next s) ∧
            (i.w.saving = false → ∃ t g', exec (.ctxsv f) s = .next t ∧ SameBytes s t ∧
              FMap.get (t.core c).wgs slot = some g' ∧ g'.preempt.isSome = true ∧ g'.saveIpa = some ipa ∧
              (t.warp i.c i.wi).map (·.saving) = some true)))

/-- 13 R403, R410: ctxld answers what the context engine's restore of the image gives: the slot of the workgroup, 0x100 where there is
no such core or no room on it, 0x101 for a malformed image or an unaligned address, 0x102 where a page of it faults, and 2
for a reserved bit. -/
def Sys2Proof.Claims.ImagesLoaded : Prop :=
  (∀ (s : State) (i : Iss) (f : RForm), Issued s i → i.scalarGo f.guard = true → scalarDst false f.d →
    let b := i.s32 f.b 0
    let ipa := (i.s64 f.a 0).toNat
    (∀ n : Dword, (b.extractLsb' 17 15 ≠ 0 ∧ n = 2) ∨ (b.extractLsb' 17 15 = 0 ∧ ipa % 4096 ≠ 0 ∧ n = 0x101) ∨
        (b.extractLsb' 17 15 = 0 ∧ ipa % 4096 = 0 ∧ s.namedCore b = none ∧ n = 0x100) →
      ∃ t j, exec (.ctxld f) s = .next t ∧ t.iss = some j ∧ SameBytes s t ∧ After i j false f.d n i.w.sflags) ∧
    ∀ c, b.extractLsb' 17 15 = 0 → ipa % 4096 = 0 → s.namedCore b = some c →
      let r := s.loadImage i.ctx c (b.extractLsb' 13 4).toNat ipa
      r.2.iss = some i → ∃ t j, exec (.ctxld f) s = .next t ∧ t.iss = some j ∧
        After i j false f.d (BitVec.ofNat 64 r.1) i.w.sflags ∧ t.saved = r.2.saved ∧
        ∀ c', i.c ≠ c' → t.core c' = r.2.core c') ∧
  ∀ (s : State) (ctx : CtxKey) (c part ipa : Nat),
    let r := s.loadImage ctx c part ipa
    (∀ f, s.readImage part c imagePages ipa [] = .page f → r.1 = 0x102) ∧
      ∀ m u, s.readImage part c imagePages ipa [] = .ok m u →
        (u.savedOf part m = none → r = (0x101, u)) ∧
          ∀ v, u.savedOf part m = some v →
            (u.restoreOn v c = none → r = (0x100, u)) ∧ ∀ n t, u.restoreOn v c = some (n, t) → r = (n, t)

/-- 13 R404, 02 R74, R75, R79, R80: capset stands while a move of the cluster can no longer be replaced; it answers 2 for a number of
banks that the step does not have or that is below 8 without EMG; otherwise it withdraws a pending move, answers whether it did,
and begins what the number asks for: nothing, a relight, a notice of at least 10 µs, or an emergency. -/
def Sys2Proof.Claims.BanksSet : Prop :=
  ∀ (s : State) (i : Iss) (f : RForm), Issued s i → i.scalarGo f.guard = true → scalarDst false f.d →
    let a := i.s32 f.a 0
    let lit := (a.extractLsb' 0 7).toNat
    let c := (i.s32 f.b 0).toNat % 32
    let k := s.cluster c
    let good := lit ≤ stepLit k.step ∧ (8 ≤ lit ∨ a.getLsbD 31 = true)
    (∀ m, k.move = some m → m.early = false → exec (.capset f) s = .next s) ∧
    ((∀ m, k.move = some m → m.early = true) → ¬good → ∃ t j, exec (.capset f) s = .next t ∧ t.iss = some j ∧ SameBytes s t ∧
      After i j false f.d 2 i.w.sflags ∧ t.clusters = s.clusters) ∧
    ∀ res : Dword, (k.move = none ∧ res = 0) ∨ (∃ m, k.move = some m ∧ m.early = true ∧ res = 1) → good →
      ∃ t j, exec (.capset f) s = .next t ∧ t.iss = some j ∧ After i j false f.d res i.w.sflags ∧
        (lit = s.litOf c → (t.cluster c).move = none ∧ SameBytes s t) ∧
        (s.litOf c < lit → ∃ m, (t.cluster c).move = some m ∧ m.phase = .relight ∧ m.lit = lit) ∧
        (lit < s.litOf c → ∃ m, (t.cluster c).move = some m ∧ m.lit = lit ∧ m.emg = a.getLsbD 31 ∧
          (a.getLsbD 31 = false → m.phase = .notice ∧ m.closeAt = s.refTime + 1000 * Nat.max 10 (a.extractLsb' 8 16).toNat) ∧
          (a.getLsbD 31 = true → m.phase = .closing ∧ m.closeAt = s.refTime))

/-- 13 R403, R404, R408, R410, 02 R74, R75, R79, R80: ctxsv, ctxld and capset ask the context engine and the cluster for what they
name, and answer the code of the outcome.
The model's choices in it: notes/assumptions/88.md, notes/assumptions/94.md. -/
def Obligations.ContextEngineCompletes : Prop := Claims.SavesAsked ∧ Claims.ImagesLoaded ∧ Claims.BanksSet

namespace Sys2Proof.Claims

/-- A queue has a packet of a kind ready to start, and the selector of a die serves it next; where several dies' do, the choice has
made a state (14 R416, R417). -/
structure Served (s : State) (part queue kind : Nat) (key : LaunchKey) (l : Launch) (die : Nat) (u : State) : Prop where
  ready : s.readyPacket part queue = some (key, l)
  kind : l.kind = kind
  next : s.chooseOf (s.servers part queue) = (some die, u)
  known : FMap.get s.launches key = some l

/-- The launch of a key satisfies something. -/
def LaunchIs (t : State) (key : LaunchKey) (p : Launch → Prop) : Prop := ∃ x, FMap.get t.launches key = some x ∧ p x

/-- The workgroup that a launch dispatches next has come to a slot of a core, its warps live in every lane (14 R428, R431). -/
def Dispatched (s t : State) (key : LaunchKey) (l : Launch) (c slot : Nat) (sewn : Option Sewn) : Prop :=
  (∃ g, FMap.get (t.core c).wgs slot = some g ∧ g.launch = key ∧ g.ctx = l.ctx ∧ g.linear = l.next ∧ g.x = l.next % l.nx ∧
    g.y = l.next / l.nx % l.ny ∧ g.z = l.next / (l.nx * l.ny) ∧ g.sewn = sewn) ∧
  LaunchIs t key (fun x => x.next = l.next + 1 ∧ x.live = l.live + 1) ∧
  ∀ w ∈ (s.core c).freeWarps.take l.nwarps, ∃ x, t.warp c w = some x ∧ x.wg = slot ∧ x.live = ~~~(0 : Mask) ∧
    x.trap.mode = false ∧ x.v = []

/-- A launch's next workgroup may be dispatched, and comes to a core of a die with a free slot (14 R428). -/
structure Dispatches (s : State) (part launch c slot : Nat) (l : Launch) : Prop where
  known : FMap.get s.launches (launchKey part launch) = some l
  may : s.mayDispatch part l = true
  core : s.chooseCore part l = some c
  slot : FMap.freeKey (s.core c).wgs Config.warpSlots = some slot

/-- The folio of a specification, as a handle of a warp's f register finds it: BOUND, owned by the workgroup (07 R257). -/
def SpecBound (t : State) (l : Launch) (c slot spec : Nat) (h : Word) : Prop :=
  ∃ fo, (t.core c).liveFolio l.ctx h = some (handleSlot h, fo) ∧ fo.state = .bound ∧ fo.rank = bitsAt spec 60 3 ∧
    fo.size = bitsAt spec 45 12 + 1 ∧ fo.own = some slot ∧ fo.pers = false ∧ fo.clm = none

/-- A node of a run may start: it is in the run's table, of a kind, and ready (14 R424, R426). -/
structure Starts (s : State) (key : LaunchKey) (r : Run) (n : Nat) (d : Node) : Prop where
  run : FMap.get s.runs key = some r
  node : (s.runNodes key r)[n]? = some d
  ready : s.nodeReady key r (s.runNodes key r) n = true

/-- A run after one of its nodes has ended: the node has completed, and what it sends has been delivered (14 R424). -/
def afterEnd (s : State) (key : LaunchKey) (r : Run) (n : Nat) (sends : Nat → Bool) : Run :=
  let nodes := s.runNodes key r
  { r with
    nodes := deliver nodes (4 * nodes.length + 4) (((nodes[n]?.map Node.succ).getD []).map fun e => (e.2, sends e.1))
      (FMap.set r.nodes n { r.node n with phase := 2, failed := none }) }

/-- A run in which a pass of a WHILE body begins: its nodes are as new (14 R426). -/
def PassBegun (s : State) (key : LaunchKey) (r : Run) (n : Nat) (d : Node) (t : State) : Prop :=
  ∃ r', FMap.get t.runs key = some r' ∧ (∀ m, inBody d.body m = true → r'.node m = NodeState.fresh) ∧
    (∀ m, inBody d.body m = false → m ≠ n → r'.node m = r.node m) ∧
    (inBody d.body n = false → (r'.node n).phase = 4) ∧ SameBytes s t

end Sys2Proof.Claims

/-! Packets, launches and graphs. -/

/-- 14 R411 to R415, R422, R424, 16 R473: a submission that the notify page and the checks accept joins its queue. A packet that is
served starts: a KERNEL packet takes its descriptor and dimensions, a COPY packet starts a piece on the copy engine of the
die that takes it, a GRAPH packet a run, a DEFINE packet fills its slot and completes, a JOBEND completes.
The model's choices in it: notes/assumptions/60.md, notes/assumptions/69.md, notes/assumptions/72.md. -/
def Obligations.PacketsStart : Prop :=
  (∀ (s u : State) (part queue die : Nat) (key : LaunchKey) (l : Launch) (words : List Nat) (s2 : State),
    Served s part queue 0 key l die u →
    (u.takePacket part queue die key).walkerRead l.ctx l.obj 8 8 (.packet key) key = .ok words s2 →
    let d := words.map fun x => BitVec.ofNat 64 x
    badDescriptor d = false → descField d 2 48 1 = 0 → l.dimw = false →
    ∃ t, exec (.kernelPacket part queue) s = .next t ∧ LaunchIs t key fun x =>
      x.desc = d ∧ x.state = .running ∧ x.nx = l.field 2 0 32 ∧ x.ny = l.field 2 32 16 ∧ x.nz = l.field 2 48 16) ∧
  (∀ (s u : State) (part queue die : Nat) (key : LaunchKey) (l : Launch), Served s part queue 1 key l die u →
    let n := l.field 2 0 32
    n ≠ 0 → ∃ t op o, exec (.copyPacket part queue) s = .next t ∧ die ∈ (s.part part).dies ∧
      LaunchIs t key (fun x => x.state = .running ∧ x.copyLeft = n ∧ x.copyBusy = true ∧ x.ops = l.ops + 1) ∧
      FMap.get (t.core (dieEngine die)).ops op = some o ∧
      o.kind = .copy (.global (l.words.getD 4 0).toNat) (.global (l.words.getD 1 0).toNat) 1 (Nat.min (2 ^ 24) n) 0 0) ∧
  (∀ (s u : State) (part queue die : Nat) (key : LaunchKey) (l : Launch), Served s part queue 2 key l die u →
    ∃ t, exec (.graphPacket part queue) s = .next t ∧ LaunchIs t key (fun x => x.state = .running) ∧
      FMap.get t.runs key = some { slot := l.field 1 0 8, ctx := l.ctx, job := l.job, nodes := [], errored := false
                                   cancelled := false }) ∧
  (∀ (s u : State) (part queue die : Nat) (key : LaunchKey) (l : Launch) (w : List Nat) (nodes : List Node) (va : Dword)
      (s2 : State), Served s part queue 3 key l die u →
    (u.takePacket part queue die key).readNodes l.ctx key l.obj (l.field 2 0 13) [] = (.ok w s2, nodes, va) →
    badNodes nodes = false → l.status = 0 → l.error = none → l.cancelled = false →
    ∃ t, exec (.definePacket part queue) s = .next t ∧ FMap.get (t.part part).graphs (l.field 2 16 8) = some nodes ∧
      LaunchIs t key fun x => x.state = .ended ∧ x.status = Status.ok) ∧
  (∀ (s u : State) (part queue die : Nat) (key : LaunchKey) (l : Launch), Served s part queue 4 key l die u →
    ∃ t, exec (.jobendPacket part queue) s = .next t ∧ LaunchIs t key fun x => x.state = .ended) ∧
  ∀ (s : State) (part aqi : Nat) (pasid : BitVec 20) (packet : List Dword),
    let a := (s.part part).aqi aqi
    let q := (s.part part).queue a.queue
    s.functionOn (part + 1) = true → aqi < 8 → packet.length = 8 → a.ena = true → a.pasid = pasid → q.ena = true →
    q.packets.length < 16 → badPacket packet = false → FMap.has s.ctxs (ctxKey part q.ctx) = true →
    bitsAt (packet.getD 0 0).toNat 0 16 = 0 →
    ∃ t, exec (.aqiSubmission part aqi (some pasid) true packet) s = .next t ∧
      ((t.part part).aqi aqi).acc = satAdd 0xFFFF a.acc 1 ∧ SameBytes s t ∧
      ((t.part part).queue a.queue).packets = q.packets ++
        [{ id := launchKey part (s.part part).nextLaunch % 2 ^ 32, ctx := ctxKey part q.ctx, words := packet }]

/-- 07 R257, 14 R420, R422, R428, R430, R431: the next workgroup of a launch that may be dispatched comes to the core chosen for it, with
its index, its warps live in every lane, its sewn units reserved, and its folio specification's handle in each warp's f register,
or 0 and NOCAP; a cooperative launch admits every workgroup or none; a launch with nothing left to do ends with the status that
its own failure, an error or a cancel gives, and a closed job whose members have ended is done with the status that theirs
give; each has its record written.
The model's choices in it: notes/assumptions/76.md. -/
def Obligations.LaunchesProceed : Prop :=
  (∀ (s : State) (part launch c slot : Nat) (l : Launch), Dispatches s part launch c slot l → l.coop = false →
    let key := launchKey part launch
    let go := exec (.workgroupDispatch part launch (dieOf c)) s
    (l.sewn = 0 → descSpecs l.desc = [] → ∃ t, go = .next t ∧ SameBytes s t ∧ Dispatched s t key l c slot none) ∧
    (∀ u k, l.sewn ≠ 0 → descSpecs l.desc = [] → ((s.acquire c 3).core c).obtain 7 l.sewn = some (u, k) →
      ∃ t, go = .next t ∧ SameBytes s t ∧ Dispatched s t key l c slot (some { start := u, len := l.sewn })) ∧
    ∀ spec, l.sewn = 0 → descSpecs l.desc = [spec] → ∃ t h, go = .next t ∧ SameBytes s t ∧ Dispatched s t key l c slot none ∧
      (∀ w ∈ (s.core c).freeWarps.take l.nwarps, ∃ x, t.warp c w = some x ∧
        FMap.getD x.f (bitsAt spec 57 3) 0 = h ∧ x.sflags = if h = 0 then setNocap 0 true else 0) ∧
      ((s.core c).freeSlots = [] → h = 0) ∧
      ((∀ n, ((s.core c).folio n).gen ≠ 0) → (SpecBound t l c slot spec h ∨ h = 0) ∧
        ((s.core c).freeSlots ≠ [] →
          (fit (s.core c).region (bitsAt spec 60 3) (bitsAt spec 45 12 + 1) (s.core c).runs).isSome = true →
          SpecBound t l c slot spec h))) ∧
  (∀ (s : State) (part launch c : Nat) (l : Launch), FMap.get s.launches (launchKey part launch) = some l →
    s.mayDispatch part l = true → s.chooseCore part l = some c → l.coop = true → l.next = 0 →
    let key := launchKey part launch
    let go := exec (.workgroupDispatch part launch (dieOf c)) s
    (s.admitAll part key l.total = none → go = .next s) ∧
      ((s.admitAll part key l.total).isSome = true → ∃ t, go = .next t ∧
        LaunchIs t key fun x => x.next = l.total ∧ x.live = l.live + l.total)) ∧
  (∀ (s : State) (part launch : Nat) (l : Launch), FMap.get s.launches (launchKey part launch) = some l →
    FMap.get s.runs (launchKey part launch) = none → l.finished = true →
    let st := if l.status ≠ 0 then l.status else if l.error.isSome then 2 else if l.cancelled then 3 else 1
    let e := l.error.getD (0, 0, 0)
    ∃ t, exec (.launchCompletion part launch) s = .next t ∧
      LaunchIs t (launchKey part launch) (fun x => x.state = .ended ∧ x.status = st) ∧
      ∀ pa u, l.recVa ≠ 0 →
        (s.unqueue (launchKey part launch) l).devVa l.ctx .store (s.userCtx l.ctx) l.recVa = .pa pa u →
        Memory.readBytes t.mem pa 64 = recordBytes (launchKey part launch) e.1 st (if l.kind = 0 then l.exited else 0) e.2.1
          l.start s.refTime e.2.2) ∧
  ∀ (s : State) (part job : Nat) (j : Job), FMap.get s.jobs (jobKey part job) = some j → j.done = false →
    j.closed.isSome = true → j.members ≤ j.ended →
    let st := if j.errored then 2 else if j.cancelled then 3 else 1
    let e := j.error.getD (0, 0, 0)
    ∃ t, exec (.jobCompletion part job) s = .next t ∧ FMap.get t.jobs (jobKey part job) = some { j with done := true } ∧
      ∀ pa u, s.devIpa part .store ((s.part part).jobbase + BitVec.ofNat 64 (64 * job)).toNat (Use.start 0 0) = .pa pa u →
        Memory.readBytes t.mem pa 64 = recordBytes job e.1 st j.ended e.2.1 j.start s.refTime e.2.2

/-- 14 R413, R424 to R426: a ready JOIN node ends at once, a SIGNAL node stores its value, or without an address raises its vector, and
ends, a COND node sends along its first two or last two edges as its word says, a WHILE node whose word is 0 ends and one whose
word is not begins a pass of its body, at its start and at the end of a pass; a ready COPY node reads its packet and starts it,
and a ready KERNEL node reads its packet and its descriptor and starts it.
The model's choices in it: notes/assumptions/77.md, notes/assumptions/79.md, notes/assumptions/81.md. -/
def Obligations.GraphNodesProceed : Prop :=
  (∀ (s : State) (part run n : Nat) (r : Run) (d : Node), Starts s (launchKey part run) r n d →
    let key := launchKey part run
    (d.kind = 4 → ∃ t, exec (.nodeJoin part run n) s = .next t ∧ SameBytes s t ∧
      FMap.get t.runs key = some (afterEnd s key r n fun _ => true)) ∧
    (d.kind = 5 → d.w1 = 0 → ∃ t p, exec (.nodeSignal part run n) s = .next t ∧ SameBytes s t ∧ t.net = s.net ++ [p] ∧
      p.opc = 7 ∧ leOf p.data = ((d.w3.extractLsb' 32 16).toNat + 2 ^ 16 * (part + 1) +
        2 ^ 24 * (s.mf.fn (part + 1)).2.toNat) % 2 ^ 256 ∧
      FMap.get t.runs key = some (afterEnd s key r n fun _ => true)) ∧
    (∀ pa u, d.kind = 5 → d.w1 ≠ 0 → (r.node n).failed = none →
      s.devVa r.ctx .store (s.userCtx r.ctx) d.w1 = .pa pa u → ∃ t, exec (.nodeSignal part run n) s = .next t ∧
        t.mread pa 4 = (d.w3.extractLsb' 0 32).toNat ∧
        (∀ a, a < pa ∨ pa + 4 ≤ a → Memory.read t.mem a =
          Memory.read (s.usePte (ctxPart r.ctx) (s.unitDie (ctxPart r.ctx)) pa u).mem a) ∧
        FMap.get t.runs key = some (afterEnd s key r n fun _ => true)) ∧
    ∀ w s2, (r.node n).failed = none → s.walkerRead r.ctx d.w1 1 4 (.node key n) key = .ok [w] s2 →
      (d.kind = 2 → ∃ t, exec (.nodeCond part run n) s = .next t ∧
        FMap.get t.runs key = some (afterEnd s key r n fun e => decide (e < 2) == (BitVec.ofNat 32 w != 0))) ∧
      (d.kind = 3 → BitVec.ofNat 32 w = 0 → ∃ t, exec (.nodeWhile part run n) s = .next t ∧
        FMap.get t.runs key = some (afterEnd s key r n fun _ => true)) ∧
      (d.kind = 3 → BitVec.ofNat 32 w ≠ 0 → ∃ t, exec (.nodeWhile part run n) s = .next t ∧ PassBegun s2 key r n d t)) ∧
  (∀ (s : State) (part run n : Nat) (r : Run) (d : Node) (w : Nat) (s2 : State),
    let key := launchKey part run
    FMap.get s.runs key = some r → (s.runNodes key r)[n]? = some d → d.kind = 3 → (r.node n).phase = 4 →
    r.cancelled = false → r.levelDone (s.runNodes key r) (some n) = true → (r.node n).failed = none →
    s.walkerRead r.ctx d.w1 1 4 (.node key n) key = .ok [w] s2 →
    (BitVec.ofNat 32 w = 0 → ∃ t, exec (.whilePassEnd part run n) s = .next t ∧
      FMap.get t.runs key = some (afterEnd s key r n fun _ => true)) ∧
    (BitVec.ofNat 32 w ≠ 0 → ∃ t, exec (.whilePassEnd part run n) s = .next t ∧ PassBegun s2 key r n d t)) ∧
  ∀ (s : State) (part run n : Nat) (r : Run) (d : Node) (g : Launch) (words : List Nat) (s2 : State),
    let key := launchKey part run
    let new := launchKey part (s.part part).nextLaunch
    let s1 := ((s.modNode key n fun x => { x with phase := 1 }).newLaunch part r.ctx [] g.queue r.job (some (key, n))).2
    Starts s key r n d → s.nodeLaunch key n = none → FMap.get s.launches key = some g → new ≠ key →
    s1.walkerRead r.ctx d.w1 8 8 (.packet new) new = .ok words s2 →
    let ws := words.map fun x => BitVec.ofNat 64 x
    badPacket ws = false → bitsAt (ws.getD 0 0).toNat 60 4 = d.kind →
    (d.kind = 1 → ∃ t r', exec (.nodeKernelStart part run n) s = .next t ∧ FMap.get t.runs key = some r' ∧
      (r'.node n).phase = 1 ∧ LaunchIs t new fun x => x.state = .running ∧ x.words = ws ∧ x.node = some (key, n) ∧
        x.copyLeft = x.field 2 0 32) ∧
    ∀ desc s4, d.kind = 0 → bitsAt (ws.getD 0 0).toNat 58 1 = 0 →
      (s2.modLaunch new fun x => { x with words := ws, state := .running }).walkerRead r.ctx (ws.getD 1 0) 8 8
        (.packet new) new = .ok desc s4 →
      let dw := desc.map fun x => BitVec.ofNat 64 x
      badDescriptor dw = false → descField dw 2 48 1 = 0 →
      ∃ t r', exec (.nodeKernelStart part run n) s = .next t ∧ FMap.get t.runs key = some r' ∧ (r'.node n).phase = 1 ∧
        LaunchIs t new fun x => x.state = .running ∧ x.words = ws ∧ x.node = some (key, n) ∧ x.desc = dw ∧
          x.nx = x.field 2 0 32 ∧ x.ny = x.field 2 32 16 ∧ x.nz = x.field 2 48 16

namespace Sys2Proof.Claims

/-- A fragment of a warp of a core is as given. -/
def FragIs (t : State) (c w f : Nat) (p : Frag → Prop) : Prop := ∃ x, t.frag c w f = some x ∧ p x

/-- The workgroup of a core is as given. -/
def WgIs (t : State) (c g : Nat) (p : Wg → Prop) : Prop := ∃ x, FMap.get (t.core c).wgs g = some x ∧ p x

end Sys2Proof.Claims

/-! Events of warps, cores and the walker. -/

/-- 01 R31, R32, R50: a first-stage walk of warps' accesses that ends in a permitted leaf is kept as a translation and leaves its
slot, with no byte changed but the A and D bits it sets. -/
def Sys2Proof.Claims.WalkEnds : Prop :=
  ∀ (s : State) (die slot : Nat) (w : Walk) (l : Leaf), FMap.get (s.die die).walks slot = some w →
    let v := s.lead w
    w.stage = 1 → w.found = none → s.walk1 w.ctx v.acc v.level0 v.va = .leaf l → (s.die die).missq = [] →
    (∀ x ∈ w.waiters, ∃ c wi f m, x.who = .frag c wi f m) →
    ∃ t, exec (.walkComplete die slot) s = .next t ∧ FMap.get (t.die die).walks slot = none ∧
      t.tlb1 = putTlb ((s.tread (ctxPart w.ctx) die l.toTrail).setDirty l.dirtied).tlb1 (leafTlb w.ctx w.page l) ∧
      t.cores = s.cores ∧
      ∀ b, (∀ p ∈ l.accessed ++ l.dirtied, ¬(p ≤ b ∧ b < p + 8)) → Memory.read t.mem b = Memory.read s.mem b

/-- 01 R38, R39, R41, R45, R50 to R52: a first-stage walk for a fragment that ends in a replayable page fault leaves its slot for an entry
of the die's pending table, which names its waiter, and a record that waits to be written; the fragment keeps the fault ID in mind. -/
def Sys2Proof.Claims.WalkFaults : Prop :=
  ∀ (s : State) (die slot e c wi fi kind level : Nat) (w : Walk) (x : Waiter) (m : Mask) (f : Frag) (k : Ctx) (tr : Trail),
    FMap.get (s.die die).walks slot = some w → w.stage = 1 → w.found = none → w.range = none → w.waiters = [x] →
    x.who = .frag c wi fi m → s.frag c wi fi = some f → f.isSpec = false → (s.wgOf c wi).map (·.ctx) = some w.ctx →
    FMap.get s.ctxs w.ctx = some k → k.frply = true → kind ≠ 6 →
    s.walk1 w.ctx x.acc x.level0 x.va = .fault kind level tr → (s.die die).missq = [] →
    s.pendFor die w.ctx 1 w.page = none → FMap.freeKey (s.die die).pending Config.pendSlots = some e →
    let gen := FMap.getD (s.die die).pendGen e 0
    let fid := fidOf die e gen
    ∃ t r, exec (.walkComplete die slot) s = .next t ∧ FMap.get (t.die die).walks slot = none ∧
      FMap.get (t.die die).pending e = some { gen := gen, walk := { w with toAsk := x.toAsk }, stage := 1, kind := kind
                                              level := level, time := s.refTime, written := false } ∧
      t.records = s.records ++ [r] ∧ r.queue = ctxPart w.ctx ∧ r.entry = some (die, e) ∧ r.fatal = false ∧
      r.words.getD 0 0 = x.va ∧ r.words.getD 1 0 = 0 ∧ r.words.getD 4 0 = BitVec.ofNat 64 s.refTime ∧
      r.words.getD 2 0 = BitVec.ofNat 64 (2 ^ 56 * kind + 2 ^ 52 + 2 ^ 48 * ctxPart w.ctx + 2 ^ 28 * k.pasid.toNat +
        2 ^ 16 * ctxId w.ctx + fid.toNat) ∧
      FragIs t c wi fi fun y => y = { f with notes :=
        { stage := 1, page := w.page, acc := x.acc, cause := Cause.pageFatal, sub := 0, fid := some fid } :: f.notes }

/-- 01 R39, R40, R51: a load all of whose lanes meet pending faults parks its fragment at it, with the fault IDs, and each entry names
the lanes that wait; no byte changes. -/
def Sys2Proof.Claims.LanesPark : Prop :=
  ∀ (s : State) (i : Iss) (f : MForm) (n : BitVec 6), Issued s i → f.d = .v n →
    let outs := s.probes i f .load f.bytes (i.active f.guard)
    outs ≠ [] → (∀ o ∈ outs, ∃ l, o.2 = .fault l) → lanesWhere outs LaneOut.isFault = i.f.mask →
    ∃ t, exec (.ld f) s = .next t ∧ SameBytes s t ∧
      (FragIs t i.c i.wi i.fi fun x => x.state = .parked ∧ x.pc = i.f.pc ∧ x.mask = i.f.mask ∧ x.pend = i.f.mask ∧
        x.fids = faultRefs outs none) ∧
      ∀ o ∈ outs, ∀ l, o.2 = .fault l → ∀ y ∈ l, (FMap.get (s.die (dieOf i.c)).pending y.2.1).isSome = true →
        ∃ p w m, FMap.get (t.die (dieOf i.c)).pending y.2.1 = some p ∧ w ∈ p.walk.waiters ∧
          w.who = .frag i.c i.wi i.fi m ∧ m.getLsbD o.1 = true

/-- 01 R41 to R44: FAULT_RECORD_WRITE writes the oldest record of a queue with space at the slot PROD names, and PROD advances. -/
def Sys2Proof.Claims.RecordWritten : Prop :=
  ∀ (s : State) (queue pa : Nat) (u : Use) (r : Record), s.records.find? (fun x => x.queue == queue) = some r →
    let q := s.queue queue
    q.ena = true → q.full = false → s.recordPa queue q = .pa pa u → paHole pa = false → r.entry = none →
    r.words.length = 8 →
    ∃ t, exec (.faultRecordWrite queue) s = .next t ∧
      Memory.readBytes t.mem pa 64 = (s.finalWords r q).flatMap (fun w => bytesOf 8 w.toNat) ∧
      (∀ b, ¬(pa ≤ b ∧ b < pa + 64) → Memory.read t.mem b =
        Memory.read (if queue < 16 then s.usePte queue (s.unitDie queue) pa u else s).mem b) ∧
      (t.queue queue).prod = BitVec.ofNat 17 ((q.prod.toNat + 1) % 2 ^ (q.log + 1)) ∧ t.records = s.records.erase r

/-- 01 R31, R32, R38 to R45, R50 to R52: what a walk that ends in a leaf and one that ends in a replayable fault leave, what an access
that meets a pending fault does, and the writing of a record.
The model's choices in it: notes/assumptions/21.md. -/
def Obligations.WalksAndRecords : Prop :=
  Claims.WalkEnds ∧ Claims.WalkFaults ∧ Claims.LanesPark ∧ Claims.RecordWritten

namespace Sys2Proof.Claims

/-- A record of a warp resolves now, and owes nothing to memory: no queued write or atomic of it waits, and its two reserved
entries are free (06 R209, R211). -/
structure Resolving (s : State) (core warp record : Nat) (x : Warp) (sr : SpecRec) (e1 e2 : Nat) : Prop where
  known : s.warp core warp = some x
  has : FMap.get x.spec record = some sr
  may : x.canResolve sr = true
  clock : (s.cluster (clusterOf core)).frozen = false
  mode : x.trap.mode = false
  queue : FMap.getD (s.core core).storeQ (warp % 4) [] = []
  comps : x.comps = []
  atomics : ∀ p ∈ x.spec, p.2.atomics = []
  frags : FMap.sorted x.frags = true
  regs : FMap.sorted x.v = true
  shadows : FMap.sorted sr.shadows = true
  kshadows : FMap.sorted sr.kshadows = true
  reserved : sr.reserved = [e1, e2]
  apart : e1 ≠ e2
  free1 : FMap.get x.frags e1 = none
  free2 : FMap.get x.frags e2 = none

/-- A replay fragment of some lanes at an address (06 R212). -/
def Replays (t : State) (core warp e : Nat) (m : Mask) (pc : SlotAddr) : Prop :=
  FragIs t core warp e fun y => y.state = .ready ∧ y.rpl = true ∧ y.lvl = 0 ∧ y.mask = m ∧ y.pc = pc

/-- 06 R212 to R217, R227: at resolution the lanes whose side was guessed right stay in their fragments, which are READY when no other
record is above them; the others are squashed, and replay at the other side; the shadows of the lanes that stay merge into the
registers, and nothing of the squashed ones does; the events are counted. -/
def RecordResolves : Prop :=
  ∀ (s : State) (core warp record e1 e2 : Nat) (x : Warp) (sr : SpecRec), Resolving s core warp record x sr e1 e2 →
    let wt := x.sideMask record true &&& ~~~x.taken sr
    let wn := x.sideMask record false &&& x.taken sr
    let sq := wt ||| wn
    ∃ t y, exec (.speculationResolution core warp record) s = .next t ∧ t.warp core warp = some y ∧ SameBytes s t ∧
      FMap.get y.spec record = none ∧
      (∀ n f, FMap.get x.frags n = some f → FMap.has f.sides record = true →
        (f.mask &&& ~~~sq = 0 → FMap.get y.frags n = none) ∧
        (f.mask &&& ~~~sq ≠ 0 → f.lvl = 1 → FragIs t core warp n fun g => g.state = .ready ∧ g.lvl = 0 ∧
          g.mask = f.mask &&& ~~~sq ∧ g.pc = f.pc ∧ g.deferred = false ∧ FMap.get g.sides record = none)) ∧
      (wn ≠ 0 → Replays t core warp e1 wn sr.tgt) ∧
      (wt ≠ 0 → Replays t core warp (if wn = 0 then e1 else e2) wt sr.fall) ∧
      (∀ n h q, FMap.get sr.shadows n = some h → FMap.get y.v n = some q → ∀ l, l < 96 →
        q.val.at l = if (h.written &&& ~~~sq).getLsbD l then h.val.at l else (FMap.getD x.v n VReg.zero).val.at l) ∧
      (∀ n h, FMap.get sr.kshadows n = some h → FMap.getD y.k n 0 =
        (FMap.getD x.k n 0 &&& ~~~(h.written &&& ~~~sq)) ||| (h.bits &&& (h.written &&& ~~~sq))) ∧
      (∀ m b, sr.flags = [(m, b)] → y.fflags = if m &&& ~~~sq = 0 then x.fflags else x.fflags ||| b) ∧
      let k := (s.core core).events
      (t.core core).events = { k with mphit := k.mphit + if sq = 0 then 1 else 0
                                      mpsq := k.mpsq + if sq = 0 then 0 else 1, mprln := k.mprln + countLanes sq }

end Sys2Proof.Claims

/-- 03 R102, R104, 04 R147, 05 R201, 06 R211 to R217, 14 R436, 15 R443: each event of a warp does what its rule says: a record that may
resolve keeps, squashes, replays and merges; the quanta of a warp that are 10 µs old are applied while its clock runs, but for those
on lines that another warp has locked; the warp slot whose turn it is tries its waiting access again; a bit held too long is noted
for its owner; a launch past its limit is watched, in each of its warps; a warp that no fragment can free an entry in takes
SPLITFULL; while its cluster's clock is stopped neither of the first two does anything.
The model's choices in it: notes/assumptions/33.md, notes/assumptions/84.md. -/
def Obligations.WarpEvents : Prop :=
  RecordResolves ∧
  (∀ (s : State) (core warp record : Nat), (s.cluster (clusterOf core)).frozen = true →
    exec (.speculationResolution core warp record) s = .next s ∧ exec (.quantumTimeout core warp) s = .next s) ∧
  (∀ (s : State) (core warp : Nat) (x : Warp), s.warp core warp = some x → (s.core core).padBad = [] →
    (s.cluster (clusterOf core)).frozen = false →
    ∃ t y, exec (.quantumTimeout core warp) s = .next t ∧ t.warp core warp = some y ∧
      y.quanta = x.quanta.filter (fun q =>
        !(decide (q.since + 10000 ≤ s.refTime) && ((s.core core).lockedQuantum warp q).isNone)) ∧
      ((∀ q ∈ x.quanta, s.refTime < q.since + 10000) → SameBytes s t)) ∧
  (∀ (s : State) (core warp fragment bank : Nat) (f : Frag), s.frag core warp fragment = some f → f.state = .waiting →
    f.wait = .lock bank →
    (s.lockNext core bank = some warp → ∃ t, exec (.lockRetry core warp fragment) s = .next t ∧ SameBytes s t ∧
      OnlyCore s t core ∧ (∀ w', warp ≠ w' → t.warp core w' = s.warp core w') ∧
      FMap.get (t.core core).lockTurn bank = some warp ∧
      FragIs t core warp fragment fun x => x = { f with state := .ready, wait := .none }) ∧
    (s.lockNext core bank ≠ some warp → exec (.lockRetry core warp fragment) s = .next s)) ∧
  (∀ (s : State) (core bank index : Nat) (k : Lock) (x : Warp), FMap.get (s.core core).locks (64 * bank + index) = some k →
    s.warp core k.warp = some x →
    let held := (s.cluster (clusterOf core)).rawcyc - k.since
    65536 < held → ∃ t, exec (.lockTimeout core bank index) s = .next t ∧ SameBytes s t ∧
      t.warp core k.warp = some { x with lockOut := some (64 * bank + index, k.lane, Nat.min 0xFFFF_FFFF held) }) ∧
  (∀ (s : State) (part launch : Nat) (l : Launch), FMap.get s.launches (launchKey part launch) = some l → l.kind = 0 →
    l.wdog ≠ 0 → l.state = .running → l.watched = false → l.start + 1000000 * l.wdog ≤ s.refTime →
    ∃ t, exec (.watchdog part launch) s = .next t ∧ SameBytes s t ∧
      LaunchIs t (launchKey part launch) (fun x => x.watched = true ∧ x.error.isSome = true) ∧
      ∀ c w x g, s.warp c w = some x → FMap.get (s.core c).wgs x.wg = some g → g.launch = launchKey part launch →
        t.warp c w = some { x with watchdog := true }) ∧
  ∀ (s : State) (core warp fi : Nat) (x : Warp) (f : Frag) (rest : List (Nat × Frag)), s.warp core warp = some x →
    let own := x.frags.filter fun p => !(p.2.held && p.2.state == .ready)
    let stuck := own.filter fun p => p.2.state == .ready && s.stalled core warp p.1
    stuck = (fi, f) :: rest →
    (∀ p ∈ own, (p.2.state = .waiting ∧ p.2.wait = .record) ∨ ∃ q ∈ stuck, q.1 = p.1) → x.kpend = [] → x.spec = [] →
    exec (.splitfullDetection core warp) s = .next (s.takeTrap core warp fi
      { cause := Cause.illegalConvergence, sub := 6, pc := f.pc, mask := f.mask, info0 := BitVec.ofNat 32 x.frags.length
        info1 := 0, folio := none })

/-- 02 R73, 05 R199, 11 R343, 13 R408, R410, 14 R435: each timer and save event does what its rule says: the one fragment
that has been READY for 64 slot cycles is chosen next; a frwait past its time answers 0xFFFF_FFFF, a sleep past its time ends; the end
of a slice without work, or without rivals, only ends it or begins another, and with rivals pre-empts every workgroup of
the context; a pre-emption past its time is forced; a workgroup that may be saved leaves its core, and a saved one comes back
to a core that takes it.
The model's choices in it: notes/assumptions/85.md, notes/assumptions/86.md, notes/assumptions/87.md, notes/assumptions/89.md, notes/assumptions/136.md. -/
def Obligations.TimersAndSaves : Prop :=
  (∀ (s : State) (core w f : Nat) (x : Warp) (q : Frag), (s.core core).warps = [(w, x)] → x.frags = [(f, q)] →
    s.mayIssue core w f = true → 64 ≤ q.age →
    ∃ t, exec (.issueAgeExpiry core (w % 4)) s = .next t ∧ FMap.get (t.core core).urgent (w % 4) = some (w, f) ∧
      (t.core core).warps = (s.core core).warps ∧ SameBytes s t) ∧
  (∀ (s : State) (i : Iss) (limit : Nat) (d : Operand),
    s.issAt i.c i.wi i.fi = some i → i.f.sides = [] → i.f.state = .waiting → s.mayWake i.c i.wi = true →
    i.f.wait.limit = some (limit, d) → limit ≤ s.refTime → scalarDst false d →
    ∃ t j, exec (.waitTimeout i.c i.wi i.fi) s = .next t ∧ t.issAt i.c i.wi i.fi = some j ∧ j.f = i.f.endWait ∧
      j.Holds false d 0xFFFF_FFFF ∧ SameBytes s t) ∧
  (∀ (s : State) (core warp fragment limit : Nat) (f : Frag), s.frag core warp fragment = some f → f.state = .waiting →
    f.wait = .sleep limit → s.mayWake core warp = true → limit ≤ s.refTime →
    ∃ t, exec (.sleepExpiry core warp fragment) s = .next t ∧ SameBytes s t ∧ OnlyWarp s t core warp ∧
      FragIs t core warp fragment fun x => x = f.endWait) ∧
  (∀ (s : State) (part ctx start : Nat) (c : Ctx), FMap.get s.ctxs (ctxKey part ctx) = some c → c.sliceAt = some start →
    let n := (s.part part).tslice
    n ≠ 0 → start + 100000 * n ≤ s.refTime →
    (s.holdsWork (ctxKey part ctx) = false → ∃ t c', exec (.timeSliceEnd part ctx) s = .next t ∧
      FMap.get t.ctxs (ctxKey part ctx) = some c' ∧ c'.sliceAt = none ∧ t.cores = s.cores) ∧
    (s.holdsWork (ctxKey part ctx) = true → s.rivalsOf (ctxKey part ctx) = [] →
      ∃ t c', exec (.timeSliceEnd part ctx) s = .next t ∧ FMap.get t.ctxs (ctxKey part ctx) = some c' ∧
        c'.sliceAt = some s.refTime ∧ t.cores = s.cores) ∧
    (s.holdsWork (ctxKey part ctx) = true → s.rivalsOf (ctxKey part ctx) ≠ [] →
      ∃ t, exec (.timeSliceEnd part ctx) s = .next t ∧
        ∀ k g x, FMap.get (s.core k).wgs g = some x → x.ctx = ctxKey part ctx →
          WgIs t k g fun y => y.preempt.isSome = true)) ∧
  (∀ (s : State) (core wg limit : Nat) (g : Wg), FMap.get (s.core core).wgs wg = some g → g.preempt = some limit →
    limit ≤ s.refTime → ∃ t, exec (.forcedSaveTimeout core wg) s = .next t ∧ SameBytes s t ∧
      WgIs t core wg fun x => x = { g with forced := true }) ∧
  (∀ (s u2 : State) (core wg : Nat) (g : Wg), FMap.get (s.core core).wgs wg = some g → s.saveReady core wg g = true →
    g.image = none → (∀ w ∈ (s.core core).wgWarps wg, s.standsAtMmac core w.1 = none) →
    let u := s.quiesce core wg
    let p := u.imagePlace g
    let v := u.snapshot core wg g p.1 p.2.1
    let pages := pagesOf (v.bytes (((FMap.get u.launches g.launch).map Launch.obj).getD 0) u.refTime)
    let u1 : State := { u with freeCount := u.freeCount + 1 }.modPart (ctxPart g.ctx) fun x =>
      if g.saveIpa.isSome then x else { x with saveArea := x.saveArea + 4096 * pages.length }
    (u.core core).sewnBroken wg = false → u1.writeImage v.part core p.1 0 pages = .ok u2 →
    ∃ t, exec (.workgroupSave core wg) s = .next t ∧ FMap.get (t.core core).wgs wg = none ∧ t.mem = u2.mem ∧
      t.saved = u.saved ++ [{ v with warps := v.warps.map fun w => (w.1, w.2.saved u2.refTime) }] ∧
      v.core = core ∧ v.part = ctxPart g.ctx ∧ v.wg.launch = g.launch ∧ v.wg.linear = g.linear) ∧
  ∀ (s u : State) (index core : Nat) (v : Saved) (m : List Byte), s.saved[index]? = some v → s.mayRestore v core = true →
    s.readImage v.part core imagePages v.ipa [] = .ok m u →
    ∀ x, u.savedOf v.part m = some x →
      (u.restoreOn x core = none → exec (.workgroupRestore index core) s = .next u) ∧
      ∀ slot t, u.restoreOn x core = some (slot, t) → exec (.workgroupRestore index core) s = .next t ∧
        WgIs t core slot fun g => g.launch = x.wg.launch ∧ g.linear = x.wg.linear

namespace Sys2Proof.Claims

/-- A request of the package's own is in flight, next on its path, and reaches its home (03 R112, R115, R116): it is no packet of
another package, its header is right, and its address exists. -/
structure Arrives (s : State) (p : Packet) (opc : Nat) : Prop where
  next : s.mayArrive p = true
  opc : p.opc.toNat = opc
  right : packetMalformed p = false
  home : paHole p.addr.toNat = false
  own : packetForeign p = false

/-- A request of another package is in flight, next on its path, with a header that is right (16 R492). -/
structure ArrivesFrom (s : State) (p : Packet) (opc : Nat) : Prop where
  next : s.mayArrive p = true
  opc : p.opc.toNat = opc
  right : packetMalformed p = false
  foreign : packetForeign p = true

/-- What is in flight after a request has been answered by a node (03 R115). -/
def answered (s : State) (p : Packet) (node : BitVec 12) (opc status plen : Nat) (data : List Byte) : List Packet :=
  s.net.erase p ++ [{ p with opc := BitVec.ofNat 8 opc, plen := BitVec.ofNat 4 plen, src := node, dst := p.src
                             status := BitVec.ofNat 3 status, mask := 0, data := data }]

/-- The state after a read has been answered with no data of the spec's: POISON, or a failure (03 R115). -/
def answeredBlank (s : State) (p : Packet) (node : BitVec 12) (status : Nat) : State :=
  { s with net := answered s p node 0x08 status 2 (s.anyBytes 64).1, freeCount := s.freeCount + 64 }

end Sys2Proof.Claims

/-! The fabric. -/

/-- 01 R34, 03 R112, R115, R116, R124, 04 R149, 16 R478, R479, R481, R492: a packet that arrives in its turn acts once and is no longer
in flight: a read, an engine's too, is answered by its home slice with its line, or POISON; a write stores the bytes its mask names,
and those after the first 64, and is acknowledged; an atomic answers with the old value and stores the new one; a fence probe is
acknowledged; the other kinds only arrive; a read from another package acts at the address of the context bound to its job, and a
request whose job none is bound to is answered ARG; an interrupt of a function that was not reset since, with a valid entry of a
RUNNING function, is delivered as its vector, and a stale one is counted; a malformed header counts as a header error of a die. -/
def Sys2Proof.Claims.PacketsLand : Prop :=
  (∀ (s : State) (p : Packet), Arrives s p 0x01 →
    let home := s.homeNode p.addr.toNat
    (s.poison.contains (p.addr.toNat / 64) = false → exec (.rdReadRequest p) s =
      .next { s with net := answered s p home 0x08 0 2 (s.lineBytes (p.addr.toNat / 64)) }) ∧
    (s.poison.contains (p.addr.toNat / 64) = true → exec (.rdReadRequest p) s = .next (answeredBlank s p home 3))) ∧
  (∀ (s : State) (p : Packet) (op word : Nat), Arrives s p 0x0B →
    let home := s.homeNode p.addr.toNat
    (s.poison.contains (p.addr.toNat / 64) = false → exec (.cerEngineRead (.packet p) op word) s =
      .next { s with net := answered s p home 0x08 0 2 (s.lineBytes (p.addr.toNat / 64)) }) ∧
    (s.poison.contains (p.addr.toNat / 64) = true →
      exec (.cerEngineRead (.packet p) op word) s = .next (answeredBlank s p home 3))) ∧
  (∀ (s : State) (p : Packet) (op word : Nat) (x : Instr),
    (Arrives s p 0x02 ∧ x = .wrWrite p) ∨ (Arrives s p 0x0C ∧ x = .cewEngineWrite (.packet p) op word) →
    ∃ t, exec x s = .next t ∧ t.net = answered s p (s.homeNode p.addr.toNat) 0x09 0 0 [] ∧ t.cores = s.cores ∧
      ∀ a, Memory.read t.mem a =
        if p.addr.toNat ≤ a ∧ a < p.addr.toNat + p.data.length ∧
            (64 ≤ a - p.addr.toNat ∨ p.mask.getLsbD (a - p.addr.toNat) = true) then
          p.data.getD (a - p.addr.toNat) 0
        else Memory.read s.mem a) ∧
  (∀ (s : State) (p : Packet), Arrives s p 0x03 →
    let n := 2 ^ p.width.toNat
    let old := s.mread p.addr.toNat n
    let flits := (n + 31) / 32
    ∃ t, exec (.atAtomic p) s = .next t ∧
      t.net = answered s p (s.homeNode p.addr.toNat) 0x0A 0 flits (bytesOf n old ++ (s.anyBytes (32 * flits - n)).1) ∧
      t.mread p.addr.toNat n =
        aopValue p.aop.toNat false n old (leOf (p.data.take n)) (leOf ((p.data.drop n).take n)) % 2 ^ (8 * n) ∧
      ∀ a, ¬(p.addr.toNat ≤ a ∧ a < p.addr.toNat + n) → Memory.read t.mem a = Memory.read s.mem a) ∧
  (∀ (s : State) (p : Packet), s.mayArrive p = true → packetMalformed p = false →
    (p.opc.toNat = 0x04 → 
      let st := if packetForeign p = true ∧ s.boundCtx p = none then 6 else 0
      exec (.fenFenceProbe p) s = .next { s with net := answered s p p.dst 0x09 st 0 [] }) ∧
    (p.opc.toNat = 0x05 → exec (.barBarrierMessage p) s = .next { s with net := s.net.erase p }) ∧
    (p.opc.toNat = 0x06 → exec (.fltFaultReport p) s = .next { s with net := s.net.erase p }) ∧
    (p.opc.toNat = 0x08 → exec (.rdxReadData p) s = .next { s with net := s.net.erase p }) ∧
    (p.opc.toNat = 0x09 → exec (.ackAcknowledgement p) s = .next { s with net := s.net.erase p }) ∧
    (p.opc.toNat = 0x0A → exec (.atrAtomicResult p) s = .next { s with net := s.net.erase p }) ∧
    (p.opc.toNat = 0x0D → exec (.ctlContextTransfer p) s = .next { s with net := s.net.erase p })) ∧
  (∀ (s : State) (p : Packet) (op word : Nat) (x : Instr), s.mayArrive p = true → packetMalformed p = true →
    (packetForeign p = false → x ∈ [Instr.rdReadRequest p, .wrWrite p, .atAtomic p, .fenFenceProbe p, .barBarrierMessage p,
        .fltFaultReport p, .rdxReadData p, .ackAcknowledgement p, .atrAtomicResult p, .ctlContextTransfer p,
        .cerEngineRead (.packet p) op word, .cewEngineWrite (.packet p) op word] →
      exec x s = .next ({ s with net := s.net.erase p }.badHeader (nodeDie p.dst))) ∧
    (packetForeign p = true → x ∈ [Instr.rdReadRequest p, .wrWrite p, .atAtomic p, .cerEngineRead (.packet p) op word,
        .cewEngineWrite (.packet p) op word] →
      exec x s = .next ({ s with net := s.net.erase p }.badHeader (nodeDie p.src)))) ∧
  (∀ (s : State) (p : Packet) (op word : Nat), s.boundCtx p = none →
    (ArrivesFrom s p 0x01 → exec (.rdReadRequest p) s = .next (answeredBlank s p p.dst 6)) ∧
    (ArrivesFrom s p 0x0B → exec (.cerEngineRead (.packet p) op word) s = .next (answeredBlank s p p.dst 6)) ∧
    (ArrivesFrom s p 0x02 → exec (.wrWrite p) s = .next { s with net := answered s p p.dst 0x09 6 0 [] }) ∧
    (ArrivesFrom s p 0x0C → exec (.cewEngineWrite (.packet p) op word) s = .next { s with net := answered s p p.dst 0x09 6 0 [] }) ∧
    (ArrivesFrom s p 0x03 → exec (.atAtomic p) s = .next { s with net := answered s p p.dst 0x0A 6 0 [] })) ∧
  (∀ (s : State) (p : Packet) (ctx : CtxKey) (pa : Nat) (u : Use), ArrivesFrom s p 0x01 → s.boundCtx p = some ctx →
    s.devVa ctx .load (s.userCtx ctx) (p.addr.setWidth 64) = .pa pa u →
    let t := s.usePte (ctxPart ctx) (nodeDie p.src) pa u
    s.poison.contains (pa / 64) = false → exec (.rdReadRequest p) s =
      .next { t with net := answered s p (t.homeNode pa) 0x08 0 2 (t.lineBytes (pa / 64)) }) ∧
  ∀ (s : State) (p : Packet), s.mayArrive p = true → packetMalformed p = false → p.opc = 0x07 →
    let x := leOf (p.data.take 4)
    let fn := x / 2 ^ 16 % 2 ^ 8
    let pa := s.mf.remapbase.toNat + 8 * (x % 2 ^ 16)
    let e := s.mread pa 8
    let owner := bitsAt e 40 8
    paHole pa = false →
    (remapValid e fn = true → x / 2 ^ 24 = (s.mf.fn fn).2.toNat → bitsAt e 14 7 = (s.mf.fn owner).2.toNat →
      (s.mf.fn owner).1 = 0 → exec (.intInterrupt p) s =
        .next { s with net := s.net.erase p, msi := s.msi ++ [(owner, bitsAt e 0 11)] }) ∧
    (remapValid e fn = true → x / 2 ^ 24 ≠ (s.mf.fn fn).2.toNat → exec (.intInterrupt p) s =
      .next { s with net := s.net.erase p, mf := { s.mf with irqstale := satAdd 0xFFFF_FFFF s.mf.irqstale 1 } }) ∧
    (remapValid e fn = false → exec (.intInterrupt p) s =
      .next { s with net := s.net.erase p, mf := { s.mf with irqdrop := satAdd 0xFFFF_FFFF s.mf.irqdrop 1 } })

/-- 03 R114, R121 to R124, 16 R488, R490, R492, R493: an aborted packet has no effect; a failure of a flit's CRC is counted, and after
the first one and sixteen failed replays a die-to-die link retrains and an on-die link fails, as any link does at a flit with a good
CRC and a reserved KIND or CLS; a retrain that succeeds begins anew and one that does not fails the link; a header error brings the
partition it names down, that of the context bound to its job where it comes from another package, or every one with a cluster on
its die; a payload error kills the context that the packet belongs to. -/
def Sys2Proof.Claims.LinkErrors : Prop :=
  (∀ (s : State) (p : Packet), exec (.abortFlit p) s = .next { s with net := s.net.erase p }) ∧
  (∀ (s : State) (link : Nat),
    (s.linkUp link = true →
      (∃ t, exec (.flitCrcFailure link) s = .next t ∧ SameBytes s t ∧ t.link link = { s.link link with
        replays := (s.link link).replays + 1, retraining := decide (900 ≤ link) && decide (17 ≤ (s.link link).replays + 1) }) ∧
      (link < 900 → 17 ≤ (s.link link).replays → ∃ t, exec (.linkFailure link) s = .next t ∧ (t.link link).failed = true) ∧
      ∀ f : Flit, f.crc = f.crcOf → f.kind = 3 ∨ f.cls = 3 → ((s.receiveFlit link f).link link).failed = true) ∧
    ((s.link link).retraining = true →
      (∃ t, exec (.linkRetrainComplete link true) s = .next t ∧ SameBytes s t ∧
        t.link link = { s.link link with retraining := false, replays := 0 }) ∧
      ∃ t, exec (.linkRetrainComplete link false) s = .next t ∧ (t.link link).failed = true)) ∧
  (∀ (s : State) (die : Nat) (p : Packet),
    (∀ q, (packetForeign p = false ∧ q = p.part.toNat) ∨ (packetForeign p = true ∧ (s.boundCtx p).map ctxPart = some q) →
      ∃ t, exec (.headerParityError die false p) s = .next t ∧ (t.part q).down = true ∧
        ∀ c ∈ (s.part q).clusters, (t.cluster c).stopped = true) ∧
    (packetForeign p = true → s.boundCtx p = none →
      exec (.headerParityError die false p) s = .next { s with net := s.net.erase p }) ∧
    ∃ t, exec (.headerParityError die true p) s = .next t ∧
      ∀ q, FMap.has s.parts q = true → die ∈ (s.part q).dies → (t.part q).down = true) ∧
  ∀ (s : State) (p : Packet) (c : CtxKey), s.packetOwner p = some c → FMap.has s.ctxs c = true →
    ∃ t, exec (.payloadError p) s = .next t ∧
      ∀ k x, FMap.get t.launches k = some x → x.ctx = c → x.state = .ended ∨ x.error.isSome = true

/-- 03 R108 to R124, 16 R480, R488 to R493: what the arrival of each packet does, and what each error of a link does.
The model's choices in it: notes/assumptions/99.md, notes/assumptions/100.md, notes/assumptions/101.md, notes/assumptions/102.md, notes/assumptions/135.md. -/
def Obligations.FabricEvents : Prop := Claims.PacketsLand ∧ Claims.LinkErrors

namespace Sys2Proof.Claims

/-- A cluster is in an emergency move to a step, a frequency and a LIT, with the hold that it begins (15 R453, R454). -/
def InEmergency (t : State) (c : Nat) (x : Target) (lit : Nat) : Prop :=
  ∃ m, (t.cluster c).move = some m ∧ m.emg = true ∧ m.target = some x ∧ m.lit = lit ∧ (t.cluster c).hold = some x ∧
    (t.cluster c).mbox = none

end Sys2Proof.Claims

/-! Power. -/

/-- 02 R74 to R79, 15 R439 to R445: a mailbox target starts as the move its step and frequency ask for, but a relock that comes too soon
after another cluster's waits; a bank's close point clears the bank and lowers LIT; dark banks, a relock and a voltage move each
lead to the next phase or the end; a relight lights its banks.
The model's choices in it: notes/assumptions/91.md, notes/assumptions/94.md. -/
def Obligations.MovesProceed : Prop :=
  (∀ (s : State) (c : Nat) (x : Target), (s.cluster c).mbox = some x → (s.cluster c).hold = none →
    (s.cluster c).stopped = false → (s.cluster c).move = none → s.relocksFirst c x = false ∨ s.mayRelock c = true →
    ∃ t, exec (.moveStart c) s = .next t ∧ (t.cluster c).mbox = none ∧
      ((s.cluster c).step ≤ x.step → SameBytes s t) ∧
      ((s.cluster c).step < x.step → ∃ m, (t.cluster c).move = some m ∧ m.phase = .voltage ∧ m.target = some x ∧
        m.lit = stepLit x.step) ∧
      (x.step = (s.cluster c).step → x.freq ≠ (s.cluster c).freq → ∃ m, (t.cluster c).move = some m ∧ m.phase = .relock ∧
        m.target = some x ∧ FMap.get t.mf.relocks c = some s.refTime) ∧
      (x.step = (s.cluster c).step → x.freq = (s.cluster c).freq → (t.cluster c).move = none)) ∧
  (∀ (s : State) (c : Nat) (x : Target), (s.cluster c).mbox = some x → (s.cluster c).hold = none →
    (s.cluster c).stopped = false → (s.cluster c).move = none ∨ (∃ m, (s.cluster c).move = some m ∧ m.early = true) →
    x.step < (s.cluster c).step → stepLit x.step < s.litOf c →
    ∃ t m, exec (.moveStart c) s = .next t ∧ (t.cluster c).move = some m ∧ m.phase = .notice ∧ m.target = some x ∧
      m.lit = stepLit x.step ∧ m.closeAt = s.refTime + 10000) ∧
  (∀ (s : State) (c : Nat) (x : Target), (s.cluster c).mbox = some x → (s.cluster c).hold = none → s.relocksFirst c x = true →
    s.mayRelock c = false → exec (.moveStart c) s = .next s) ∧
  (∀ (s : State) (core n : Nat), s.closing core = some n → 8 ≤ n →
    ∃ t, exec (.bankClosePoint core) s = .next t ∧ (t.core core).cap.lit = n ∧
      (t.core core).cap.alloc = Nat.min (s.core core).cap.alloc n ∧
      (∀ a, 32768 * n ≤ a → a < 32768 * n + 32768 → Memory.read (t.core core).pad a = Memory.blank) ∧
      ∀ key, key / 64 = n → FMap.get (t.core core).locks key = none) ∧
  (∀ (s : State) (c : Nat) (m : Move), (s.cluster c).move = some m → m.phase = .closing →
    (∀ k ∈ coresOf c, (s.core k).cap.pend = false) → m.after = none →
    m.emg = true ∨ s.mayRelock c = true ∨ (∀ x, m.target = some x → x.freq = (s.cluster c).freq) →
    ∃ t, exec (.banksDark c) s = .next t ∧ SameBytes s t ∧
      (m.target = none → (t.cluster c).move = none) ∧
      ∀ x, m.target = some x →
        (x.freq ≠ (s.cluster c).freq → (t.cluster c).move = some { m with phase := .relock }) ∧
        (x.freq = (s.cluster c).freq → x.step < (s.cluster c).step →
          (t.cluster c).move = some { m with phase := .voltage })) ∧
  (∀ (s : State) (c : Nat) (m : Move) (x : Target), (s.cluster c).move = some m → m.target = some x → m.after = none →
    (m.phase = .relock → ∃ t, exec (.relockComplete c) s = .next t ∧ (t.cluster c).freq = x.freq ∧
      (t.cluster c).acc = 0 ∧ (t.cluster c).sub = 0 ∧
      ((∀ k ∈ coresOf c, ∀ w ∈ (s.core k).warps, ∀ f ∈ w.2.frags, f.2.state ≠ .waiting) → SameBytes s t) ∧
      (t.cluster c).move = if x.step < (s.cluster c).step then some { m with phase := .voltage } else none) ∧
    (m.phase = .voltage → x.step ≤ (s.cluster c).step ∨ x.freq = (s.cluster c).freq ∨ s.mayRelock c = true →
      ∃ t, exec (.voltageMoveComplete c) s = .next t ∧ (t.cluster c).step = x.step ∧ SameBytes s t ∧
      (t.cluster c).move = if (s.cluster c).step < x.step ∧ x.freq ≠ (s.cluster c).freq then some { m with phase := .relock }
        else none)) ∧
  ∀ (s : State) (c : Nat) (m : Move), (s.cluster c).move = some m → m.phase = .relight → m.after = none →
    (∀ k ∈ coresOf c, (s.core k).cap.emg = false) →
    ∃ t, exec (.capsetRelightComplete c) s = .next t ∧ (t.cluster c).move = none ∧ SameBytes s t ∧
      ∀ k ∈ coresOf c, (t.core k).cap.lit = Nat.max (s.core k).cap.lit m.lit

/-- 15 R441, R450, R451, R455 to R457, 16 R464: once in 100 µs the controller takes PLIM, records the power, reads each cluster's estimate
and headroom, and gives a target with its byte budget; while the package is above PLIM, or owes the energy spent above it, no target
rises, and that of a cluster predicted above TLIM falls. -/
def Sys2Proof.Claims.ControllerActs : Prop :=
  (∀ (s : State) (watts : BitVec 12) (l : List ControllerTarget), s.refTime / 100000 = s.mf.period →
    exec (.powerControllerPeriod watts l) s = .next s) ∧
  ∀ (s : State) (watts : BitVec 12) (x : ControllerTarget), s.refTime / 100000 ≠ s.mf.period → x.cluster < 32 →
    let paid := Nat.min s.mf.owed (100000000 * (s.mf.plim.toNat - watts.toNat))
    let y : Target := { step := x.step.toNat, freq := x.freq.toNat }
    let now := s.present x.cluster
    let z := if Config.tlim.toInt < x.predicted.toInt then y.lower now.below
      else if s.mf.plim.toNat < watts.toNat ∨ s.mf.owed ≠ paid then y.lower now else y
    y.valid = true → z.valid = true → (∀ p n, s.ownerOf x.cluster = some (p, n) → (s.part p).floor ≤ z.step) →
    ∃ t, exec (.powerControllerPeriod watts [x]) s = .next t ∧ t.mf.pwrnow = watts ∧ t.mf.owed = s.mf.owed - paid ∧
      t.mf.plimNow = s.mf.plim ∧ t.mf.period = s.refTime / 100000 ∧
      (t.cluster x.cluster).mbox = some z ∧ (t.cluster x.cluster).bbud = x.grant ∧ SameBytes s t ∧
      ∀ c, c < 32 → let k := s.cluster c
        (t.cluster c).estimate = k.energy.total k.step ∧ (t.cluster c).energy = Energy.reset ∧
        (t.cluster c).headroom = k.energy.idle * Config.eventEnergy 0

/-- 15 R452 to R454: once in 5 µs the maximum tree reads every sensor; HOTUNIT of a die is its hottest, and a cluster whose hottest unit
is at TTRIP begins an emergency to the next lower step; 1 ms more at the lowest point darkens to LIT = 8, then to 0, after the move
that goes on, if one does; 1 ms of cool ends the hold. -/
def Sys2Proof.Claims.HeatActs : Prop :=
  (∀ (s : State) (l : List Reading), s.treeDue = false → exec (.temperatureTreeReading l) s = .next s) ∧
  (∀ (s : State) (l : List Reading), s.treeDue = true →
    let u := l.foldl State.sense s
    ∃ t, exec (.temperatureTreeReading l) s = .next t ∧ t.treeDue = false ∧
      (∀ d, d < 4 → (u.die d).readings ≠ [] → ∃ r ∈ (u.die d).readings, (t.die d).tel.hotUnit = r.unit ∧
        (t.die d).tel.hotTemp = r.temp ∧ ∀ x ∈ (u.die d).readings, x.temp.toInt ≤ r.temp.toInt) ∧
      (∀ r n, l = [r] → sensorOf r = some n → FMap.get (t.die (n / 1024)).sensors n = some r.temp) ∧
      ((∀ c, c < 32 → u.hotOf c = none) → t.clusters = s.clusters ∧ t.cores = s.cores)) ∧
  (∀ (s : State) (l : List Reading) (c : Nat) (r : Reading), s.treeDue = true → c < 32 →
    let u := l.foldl State.sense s
    u.hotOf c = some r → (∀ c' q, u.hotOf c' = some q → q.temp.toInt < Config.tcrit.toInt) →
    Config.ttrip.toInt ≤ r.temp.toInt → (s.cluster c).stopped = false → (s.cluster c).move = none → (s.cluster c).step = 3 →
    ∃ t, exec (.temperatureTreeReading l) s = .next t ∧
      InEmergency t c { step := 2, freq := Nat.min (s.cluster c).freq 2100 } (Nat.min (s.litOf c) 40)) ∧
  (∀ (s : State) (c since : Nat), (s.cluster c).hotSince = some since →
    (s.cluster c).stopped = false → (s.cluster c).step = 1 → (s.cluster c).freq = 400 → since + 1000000 ≤ s.refTime →
    let low : Target := { step := 1, freq := 400 }
    (8 < s.litOf c → (s.cluster c).move = none → ∃ t, exec (.emergencyDarkening c) s = .next t ∧ InEmergency t c low 8) ∧
    (s.litOf c ≤ 8 → 0 < s.litOf c → (s.cluster c).move = none → ∃ t, exec (.sewnEmergency c) s = .next t ∧
      InEmergency t c low 0) ∧
    ∀ m, (s.cluster c).move = some m → (s.cluster c).inEmergency = false → m.early = false →
      (8 < s.litOf c → ∃ t, exec (.emergencyDarkening c) s = .next t ∧
        (t.cluster c).move = some { m with after := some low, lit := Nat.min m.lit 8 }) ∧
      (s.litOf c ≤ 8 → 0 < s.litOf c → ∃ t, exec (.sewnEmergency c) s = .next t ∧
        (t.cluster c).move = some { m with after := some low, lit := 0 })) ∧
  ∀ (s : State) (c since : Nat), (s.cluster c).coolSince = some since → since + 1000000 ≤ s.refTime →
    ∃ t, exec (.emergencyHoldRelease c) s = .next t ∧ SameBytes s t ∧
      t.cluster c = { s.cluster c with hold := none, hotSince := none }

/-- 12 R369, R370, 15 R450 to R461: each event of the power and thermal machinery does what its rule says: the controller's period and the
maximum tree act; budgets and governor windows begin anew; sub-arrays are gated, woken and awake; ballast above PLIM stops after
50 µs; a telemetry record is written once a millisecond and counted.
The model's choices in it: notes/assumptions/91.md, notes/assumptions/92.md, notes/assumptions/95.md, notes/assumptions/96.md, notes/assumptions/121.md, notes/assumptions/137.md, notes/assumptions/158.md, notes/assumptions/159.md. -/
def Obligations.PowerEvents : Prop :=
  Claims.ControllerActs ∧ Claims.HeatActs ∧
  (∀ (s : State) (c : Nat), (s.cluster c).interval ≠ s.refTime / 1000 →
    ∃ t, exec (.byteBudgetInterval c) s = .next t ∧ SameBytes s t ∧
      t.cluster c = { s.cluster c with
        interval := s.refTime / 1000, charge := 0, bbheld := false
        overdraw := Nat.min (64 * (s.cluster c).bbud.toNat)
          ((s.cluster c).charge + (s.cluster c).overdraw - 64 * (s.cluster c).bbud.toNat) } ∧
      ∀ k ∈ coresOf c, (t.core k).lineClass = FMap.keep (s.core k).lineClass fun _ e => e.2.2 != 0) ∧
  (∀ (s : State) (c : Nat),
    let m := (s.core c).matrix
    let now := (s.cluster (clusterOf c)).rawcyc
    (m.winIdx ≠ m.windowOf now → ∃ t, exec (.governorWindow c) s = .next t ∧ OnlyCore s t c ∧ SameBytes s t ∧
      (t.core c).matrix = { m with
        winIdx := m.windowOf now, charge := 0, last := if m.winIdx + 1 = m.windowOf now then m.charge else 0
        ballast := m.ballast + (m.service.map fun x => x.due s.refTime).getD 0 }) ∧
    (∀ sub, sub < 4 → (∀ p n, s.ownerOf (clusterOf c) = some (p, n) →
        (s.part p).latency = false ∧ (s.part p).featack.getLsbD 6 = true) →
      s.mf.warm (s.cluster (clusterOf c)).freq = false → m.compute = none → m.wantWake = none →
      FMap.getD m.idleSince sub 0 + 2000 ≤ s.refTime → ∃ t, exec (.subarrayGate c sub) s = .next t ∧ OnlyCore s t c ∧ SameBytes s t ∧
        (t.core c).matrix = { m with gated := m.gated ||| (1#4 <<< sub) }) ∧
    (m.gated ≠ 0 → m.wakeAt = none → s.slotOpens c = true → ∃ t, exec (.wakeSlotOpen c) s = .next t ∧ OnlyCore s t c ∧ SameBytes s t ∧
      (t.core c).matrix = { m with wakeAt := some (now + 48), waking := m.gated }) ∧
    ∀ at', m.wakeAt = some at' → at' ≤ now → ∃ t, exec (.subarrayAwake c) s = .next t ∧ OnlyCore s t c ∧ SameBytes s t ∧
      (t.core c).matrix = { m with
        gated := m.gated &&& ~~~m.waking, wakeAt := none, waking := 0, idleSince := (t.core c).matrix.idleSince } ∧
      ∀ sub, FMap.getD (t.core c).matrix.idleSince sub 0 =
        if sub < 4 ∧ m.waking.getLsbD sub = true then s.refTime else FMap.getD m.idleSince sub 0) ∧
  (∀ (s : State) (since : Nat), s.mf.ballastSince = some since → since + 50000 ≤ s.refTime →
    ∃ t, exec .ballastLimitExpiry s = .next t ∧ t.mf.ballastStopped = true ∧ t.mf.ballastSince = none ∧ SameBytes s t ∧
      (t.die 0).tel.slopev = (s.die 0).tel.slopev + 1) ∧
  ∀ (s : State) (die mw uj : Nat) (predicted : BitVec 16), s.recordDue die = true → (s.die die).tel.ring.ena = true →
    let ring := (s.die die).tel.ring
    let pa := ring.base.toNat + 128 * (ring.prod.toNat % 2 ^ ring.log)
    paHole pa = false → ∃ t, exec (.telemetryRecord die mw uj predicted) s = .next t ∧
      (t.die die).tel.ring.prod = ring.prod + 1 ∧ (t.die die).tel.slopev = 0 ∧ (t.die die).tel.bbhold = 0 ∧
      t.recordDue die = false ∧
      t.mread pa 8 = s.refTime % 2 ^ 64 ∧
      ∀ a, ¬(pa ≤ a ∧ a < pa + 128) → Memory.read t.mem a = Memory.read s.mem a

/-! The host's commands. -/

/-- 15 R446, 16 R481, R484 to R486, R490: a package reset keeps memory and begins everything else anew, with FWSTAT the verification's
outcome; FWLOAD stores a good image and resets the package with it, and otherwise only tells the outcome; ATTGO makes a report
ready; a function-level reset disables the function's AQIs and accepts no features; a partition reset drops the partition's
launches, saved workgroups and placements, clears its cores and their event counters, and keeps its map and configuration. -/
def Sys2Proof.Claims.Resets : Prop :=
  (∀ s : State, ∃ t, exec .packageReset s = .next t ∧ t.mem = s.mem ∧ t.cores = State.reset.cores ∧
    t.clusters = State.reset.clusters ∧ t.parts = State.reset.parts ∧ t.ctxs = State.reset.ctxs ∧
    t.launches = State.reset.launches ∧ t.mf.fwstat = verdict s.mf.verifications) ∧
  (∀ s : State, s.mf.fwstat ≠ 1 → ∃ t, exec .fwload s = .next t ∧ t.mem = s.mem ∧
    t.mf.verifications = s.mf.verifications + 1 ∧ t.mf.fwstat = verdict s.mf.verifications ∧
    (verdict s.mf.verifications = 1 → t.cores = State.reset.cores ∧ t.mf.image = s.mf.verifications) ∧
    (verdict s.mf.verifications ≠ 1 → t.cores = s.cores ∧ t.mf.image = s.mf.image)) ∧
  (∀ s : State, s.functionOn 0 = true → ∃ t, exec .attgo s = .next t ∧ t.mf.attready = true ∧
    t.mf.attbuf = (List.range 1024).zip s.report ∧ t.cores = s.cores ∧ t.mem = s.mem) ∧
  (∀ (s : State) (part : Nat), ∃ t, exec (.functionLevelReset part) s = .next t ∧ t.cores = s.cores ∧ t.mem = s.mem ∧
    (t.mf.fn (part + 1)).2 = (s.mf.fn (part + 1)).2 + 1 ∧ (t.part part).featack = 0 ∧ (t.part part).fq.ena = false ∧
    ∀ n, ((t.part part).aqi n).ena = false) ∧
  ∀ (s : State) (part : Nat), ∃ t, exec (.partitionReset part) s = .next t ∧ (∀ l ∈ t.launches, launchPart l.1 ≠ part) ∧
    (∀ v ∈ t.saved, v.part ≠ part) ∧ (∀ r ∈ t.placement, r.2.2 ≠ part) ∧ (t.part part).pmap = (s.part part).pmap ∧
    (t.part part).ena = (s.part part).ena ∧ (t.part part).down = false ∧ (t.part part).featack = 0 ∧ (t.part part).pdesc = 0 ∧
    (t.mf.fn (part + 1)).2 = (s.mf.fn (part + 1)).2 + 1 ∧
    ∀ c ∈ (s.part part).clusters, ∀ k ∈ coresOf c, (t.core k).events = Core.reset.events ∧ (t.core k).warps = [] ∧
      ∀ slot, (t.core k).folio slot = Folio.fresh

/-- 14 R435, 16 R465: CREATE gives an image's context the lowest free identifier and tells it; DESTROY of a context without work frees
its identifier and its folios; RESUME lets a halted context run; an unknown context is NOCTX; PRECMD asks every workgroup of a
context to leave its core. -/
def Sys2Proof.Claims.ContextCommands : Prop :=
  (∀ (s : State) (part pa id : Nat) (x : Use), s.functionOn (part + 1) = true →
    let arg := (s.part part).ctxarg.toNat
    let u := s.usePte part (s.unitDie part) pa x
    let w := (List.range 8).map fun j => s.mdword (pa + 8 * j)
    arg % 64 = 0 → s.devIpa part .load arg (Use.start 0 0) = .pa pa x → badImage w = false →
    (∀ x ∈ s.ctxs, ctxPart x.1 = part → x.2.pasid ≠ (u.ctxOf part w).pasid) →
    (List.range 4096).find? (fun n => !(s.ctxIds part).contains n) = some id →
    ∃ t, exec (.ctxcmdCreate part) s = .next t ∧ FMap.get t.ctxs (ctxKey part id) = some (u.ctxOf part w) ∧
      (t.part part).ctxResult = 0 ∧ (t.part part).ctxId = id ∧ t.cores = s.cores ∧
      t.mem = (u.usedRanges part (u.ctxOf part w).rng1).mem) ∧
  (∀ (s : State) (part : Nat) (key : CtxKey) (c : Ctx), s.functionOn (part + 1) = true → s.argCtx part = some (key, c) →
    s.hasWork key = false →
    ∃ t, exec (.ctxcmdDestroy part) s = .next t ∧ FMap.get t.ctxs key = none ∧ (t.part part).ctxResult = 0 ∧ t.mem = s.mem ∧
      ∀ k slot, ((t.core k).folio slot).ctx = key → ((t.core k).folio slot).state = .free) ∧
  (∀ (s : State) (part : Nat) (key : CtxKey) (c : Ctx), s.functionOn (part + 1) = true → s.argCtx part = some (key, c) →
    c.halted = true → ∃ t, exec (.ctxcmdResume part) s = .next t ∧
      FMap.get t.ctxs key = some { c with halted := false } ∧ (t.part part).ctxResult = 0 ∧ t.cores = s.cores ∧ t.mem = s.mem) ∧
  (∀ (s : State) (part : Nat) (x : Instr), x = .ctxcmdDestroy part ∨ x = .ctxcmdResume part →
    s.functionOn (part + 1) = true → s.argCtx part = none → exec x s = .next (s.ctxResult part 3)) ∧
  ∀ (s : State) (part : Nat) (value : BitVec 32),
    let key := ctxKey part (value.extractLsb' 0 12).toNat
    value.extractLsb' 12 20 = 0 → FMap.has s.ctxs key = true →
    ∃ t, exec (.precmd part value) s = .next t ∧ SameBytes s t ∧
      ∀ k g x, FMap.get (s.core k).wgs g = some x → x.ctx = key → WgIs t k g fun y => y.preempt.isSome = true

/-- 01 R40, R44, 16 R477: TLBCMD and S2CMD drop what their kind names and are busy until the invalidation holds; kind 2 reloads the range
copies; a reply to a fault ID that names no held fault is counted, and one that does frees the entry with its next
generation; FQCONS takes its value. -/
def Sys2Proof.Claims.TranslationCommands : Prop :=
  (∀ (s : State) (part ctx : Nat) (c : Ctx), let key := ctxKey part ctx
    s.functionOn (part + 1) = true → (s.part part).tlbBusy = none → ctx < 4096 → FMap.get s.ctxs key = some c →
    (∃ t, exec (.tlbcmdAddr part ctx) s = .next t ∧ (t.part part).tlbBusy = some key ∧ t.cores = s.cores ∧
      t.tlb1 = s.tlb1.filter fun x => !(x.owner == key && x.covers ((s.part part).tlbva.toNat / 4096))) ∧
    (∃ t, exec (.tlbcmdCtx part ctx) s = .next t ∧ (t.part part).tlbBusy = some key ∧ t.cores = s.cores ∧
      t.tlb1 = s.tlb1.filter fun x => x.owner != key) ∧
    ∃ t, exec (.tlbcmdRng part ctx) s = .next t ∧ (t.part part).tlbBusy = some key ∧ t.cores = s.cores ∧ t.tlb1 = s.tlb1 ∧
      FMap.get t.ctxs key = some { c with ranges := s.readRanges (ctxPart key) c.rng1 }) ∧
  (∀ (s : State) (part : Nat), s.s2Taken part = true →
    (∃ t, exec (.s2cmdPage part) s = .next t ∧ t.mf.s2Busy = some part ∧ t.cores = s.cores ∧
      t.tlb2 = s.tlb2.filter fun x => !(x.owner == part && x.covers (s.mf.s2va.toNat / 4096))) ∧
    (s.descHole part true = none → ∃ t, exec (.s2cmdPartition part) s = .next t ∧ t.mf.s2Busy = some part ∧
      t.cores = s.cores ∧ (t.tlb2 = s.tlb2.filter fun x => x.owner != part) ∧
      let at' := (s.part part).pdesc.toNat
      ((s.part part).s2en = true → s.badDescriptor at' = false →
        (t.part part).root2 = 4096 * bitsAt (s.mread at' 8) 12 40)) ∧
    (s.descHole part false = none → ∃ t, exec (.s2cmdRange part) s = .next t ∧ t.mf.s2Busy = some part ∧
      t.cores = s.cores ∧ t.tlb2 = s.tlb2 ∧
      ((s.part part).s2en = true → (t.part part).ranges2 = s.rangesAt (s.part part).rng2 32))) ∧
  (∀ (s : State) (queue : Nat) (fid : BitVec 16) (x : Instr), x = .fqreplyRetry queue fid ∨ x = .fqreplyFatal queue fid →
    let die := (fid.extractLsb' 14 2).toNat
    let e := (fid.extractLsb' 0 10).toNat
    (FMap.get (s.die die).pending e = none → exec x s =
      .next (s.modQueue queue fun q => { q with badrep := satAdd 0xFFFF q.badrep 1 })) ∧
    ∀ p, FMap.get (s.die die).pending e = some p → p.gen = fid.extractLsb' 10 4 → p.queue = queue → p.walk.waiters = [] →
      ∃ t, exec x s = .next t ∧ FMap.get (t.die die).pending e = none ∧
        FMap.get (t.die die).pendGen e = some (p.gen + 1)) ∧
  ∀ (s : State) (queue : Nat) (value : BitVec 17), ∃ t, exec (.fqconsWrite queue value) s = .next t ∧
    (t.queue queue).cons = value ∧ (t.queue queue).prod = (s.queue queue).prod ∧ t.cores = s.cores ∧ t.mem = s.mem

/-- 01 R40: a fragment is parked on a fault ID that an entry holds, and on no other; no other fragment is parked on it. -/
structure Sys2Proof.Claims.WaitsOn (s : State) (queue : Nat) (fid : BitVec 16) (p : PendEntry) (c wi fi : Nat) (f : Frag)
    (r : FidRef) : Prop where
  entry : FMap.get (s.die (fid.extractLsb' 14 2).toNat).pending (fid.extractLsb' 0 10).toNat = some p
  gen : p.gen = fid.extractLsb' 10 4
  queue : p.queue = queue
  frag : s.frag c wi fi = some f
  parked : f.state = .parked
  fids : f.fids = [r]
  named : r.fid = fid
  answer : r.answer = none
  alone : ∀ c' w' f' q, s.frag c' w' f' = some q → (c', w', f') ≠ (c, wi, fi) → ∀ y ∈ q.fids, y.fid ≠ fid

/-- 01 R40, R45: RETRY frees the entry, drops a record of it that is not yet written, and makes a fragment that waits for it alone READY
at its instruction; FATAL makes it trap PAGE_FATAL, for the lanes that waited, with the address that faulted. -/
def Sys2Proof.Claims.RepliesRelease : Prop :=
  ∀ (s : State) (queue : Nat) (fid : BitVec 16) (p : PendEntry) (c wi fi : Nat) (f : Frag) (r : FidRef),
    WaitsOn s queue fid p c wi fi f r →
    let die := (fid.extractLsb' 14 2).toNat
    let e := (fid.extractLsb' 0 10).toNat
    (∃ t, exec (.fqreplyRetry queue fid) s = .next t ∧ FMap.get (t.die die).pending e = none ∧
      (∀ x ∈ t.records, x.entry ≠ some (die, e)) ∧
      FragIs t c wi fi fun y => y.state = .ready ∧ y.pc = f.pc ∧ y.mask = f.mask ∧ y.fids = []) ∧
    ∀ k x, p.walk.waiters = [] → s.cores = [(c, k)] → k.warps = [(wi, x)] → x.frags = [(fi, f)] → f.held = false →
      r.matrix = false →
      let u : State := { (s.modDie die fun d => d.freePending e) with records := s.records.filter fun y => y.entry != some (die, e) }
      exec (.fqreplyFatal queue fid) s = .next ((u.modFrag c wi fi fun _ => f.answered fid true).takeTrap c wi fi
        { cause := Cause.pageFatal, sub := 0, pc := f.pc, mask := r.lanes, info0 := r.va.extractLsb' 0 32
          info1 := r.va.extractLsb' 32 32, folio := none })

/-- 01 R40, R44, R45, 14 R435, 16 R465, R477, R481 to R490: every reset and every command of the host completes.
The model's choices in it: notes/assumptions/104.md, notes/assumptions/105.md, notes/assumptions/107.md, notes/assumptions/108.md, notes/assumptions/109.md, notes/assumptions/110.md. -/
def Obligations.HostCommandsComplete : Prop :=
  Claims.Resets ∧ Claims.ContextCommands ∧ Claims.TranslationCommands ∧ Claims.RepliesRelease

/-- 15 R440, R441, 16 R463, R464, R466 to R470, R474, R480, R482: the host's writes of partitions, run states and features take their
value where they are allowed; PLREL leaves its frames zero and unplaced, once no queued access to them is outstanding; PMOVE begins a
move; a target that no step has is counted; a module that failed is out of use. -/
def Sys2Proof.Claims.HostWrites : Prop :=
  (∀ (s : State) (part : Nat) (value : BitVec 64), s.functionOn (part + 1) = true →
    let frames := (s.modPart part fun p => { p with plrel := value }).framesOf part
      (65536 * (value.extractLsb' 16 48).toNat) (16 * ((value.extractLsb' 0 16).toNat + 1))
    (s.queuedTo (fun pa => frames.contains (pa / 4096)) = false →
      ∃ t, exec (.plrel part value) s = .next t ∧ (t.part part).plrel = value ∧ (t.part part).plBusy = false ∧
        ∀ f ∈ frames, FMap.get t.placement (f / 16) = none ∧
          ∀ a, a / 4096 = f → Memory.read t.mem a = Memory.blank) ∧
    (s.queuedTo (fun pa => frames.contains (pa / 4096)) = true → exec (.plrel part value) s =
      .next (s.modPart part fun p => { p with plrel := value, plBusy := true }))) ∧
  (∀ (s : State) (value : BitVec 32), s.functionOn 0 = true →
    let part := (value.extractLsb' 28 4).toNat
    let n := (value.extractLsb' 23 5).toNat
    let target := (value.extractLsb' 18 5).toNat
    (s.part part).busy = false → (FMap.getD (s.part part).pmap n 0).getLsbD 7 = true → s.clusterGone target = false →
    s.occupied target = false → ∃ t, exec (.pmove value) s = .next t ∧ (t.part part).busy = true ∧
      (t.part part).moving = some (n, target) ∧ SameBytes s t) ∧
  (∀ (s : State) (part n : Nat) (value : BitVec 8), s.functionOn 0 = true → part < 16 → n < 32 →
    let map := FMap.set (s.part part).pmap n (value &&& 0xFC)
    ((s.part part).ena = true → exec (.pmapWrite part n value) s =
      .next (s.modPart part fun p => { p with badmap := true })) ∧
    ((s.part part).ena = false → denseMap map = true → (value.getLsbD 7 = true → s.clusterGone (pmapCluster value) = false ∧
        ∀ q ∈ s.parts, q.1 ≠ part → pmapCluster value ∉ q.2.clusters) →
      ∃ t, exec (.pmapWrite part n value) s = .next t ∧ (t.part part).pmap = map)) ∧
  (∀ (s : State) (part : Nat) (value : BitVec 32), s.functionOn 0 = true → part < 16 → (s.part part).ena = false →
    value.getLsbD 31 = true → value.getLsbD 27 = false → ∃ t, exec (.pcfgWrite part value) s = .next t ∧
      (t.part part).ena = true ∧ (t.part part).s2en = false ∧ (t.part part).latency = value.getLsbD 30 ∧
      (t.part part).frply = value.getLsbD 26 ∧ t.cores = s.cores ∧ t.mem = s.mem) ∧
  (∀ (s : State) (cluster : Nat) (value : BitVec 32),
    let x : Target := { step := (value.extractLsb' 24 2).toNat, freq := (value.extractLsb' 0 12).toNat }
    ∃ t, exec (.vfmboxWrite cluster value) s = .next t ∧ t.cores = s.cores ∧ t.mem = s.mem ∧
      (x.valid = true → (t.cluster cluster).mbox = some x ∧ (t.cluster cluster).ign = (s.cluster cluster).ign) ∧
      (x.valid = false → (t.cluster cluster).mbox = (s.cluster cluster).mbox ∧
        (t.cluster cluster).ign = satAdd 255 (s.cluster cluster).ign 1)) ∧
  (∀ (s : State) (fn : Nat) (value : BitVec 32), s.functionOn 0 = true → fn ≤ 16 →
    let n := (value.extractLsb' 0 2).toNat
    let base := (FMap.getD s.mf.pendbase fn 0).toNat
    (n = 1 ∨ n = 2 → ∃ t, exec (.fstateWrite fn value) s = .next t ∧ t.mf.fn fn = (n, (s.mf.fn fn).2) ∧ t.mem = s.mem) ∧
    (n = 0 → paHole base = false → ∃ t, exec (.fstateWrite fn value) s = .next t ∧
      t.mf.fn fn = (0, (s.mf.fn fn).2) ∧ ∀ v, v < 2048 → t.mread (base + v) 1 = 0)) ∧
  (∀ (s : State) (part : Nat) (value : BitVec 64), s.functionOn (part + 1) = true → (s.part part).aqiEver = false →
    exec (.featackWrite part value) s = .next (s.modPart part fun p => { p with featack := value &&& Config.featcap })) ∧
  ∀ (s : State) (module : Nat), (2 ≤ module → exec (.ucieModuleFailure module) s = .next s) ∧
    (module < 2 → ∃ t, exec (.ucieModuleFailure module) s = .next t ∧ module ∈ t.uciDown ∧ t.cores = s.cores ∧
      t.parts = s.parts ∧ t.mem = s.mem)

/-- 16 R465, R475 to R479, R492: the registers of 8 bytes that keep the bits of a mask of what is written to them: CTXARG, JOBBASE, TLBVA
of a partition function; REMAPBASE, S2VA, PENDBASE of a function, and HLJOB of the management function. -/
def Sys2Proof.Claims.Keeps8 (fn off : Nat) (m : BitVec 64) : Prop :=
  ((1 ≤ fn ∧ fn ≤ 16) ∧ (off, m) ∈ [(0x10, ~~~0), (0x20, ~~~0x3F), (0x40, ~~~0xFFF)]) ∨
  (fn = 0 ∧ ((off, m) ∈ [(0x30, ~~~0xFFF), (0x40, 0xF_FFFF_FFFF_F000)] ∨
    (∃ f, f ≤ 16 ∧ off = 0x3008 + 0x10 * f ∧ m = ~~~0xFFF) ∨
    ∃ p j, p < 16 ∧ j < 256 ∧ off = 0x4_0000 + 0x800 * p + 8 * j ∧ m = 0x8000_FFFF_0000_0FFF))

/-- 14 R415, R435, 15 R449, R457, 16 R472: the registers of 4 bytes that keep the bits of a mask of a value which is in range: QCFG,
AQICTL and PRECTL of a partition function, PLIM and DIDT of the management function. -/
def Sys2Proof.Claims.Keeps4 (fn off : Nat) (m v : BitVec 32) : Prop :=
  ((1 ≤ fn ∧ fn ≤ 16) ∧ ((∃ q, q < 64 ∧ off = 0x1000 + 8 * q ∧ m = 0x8700_0FFF) ∨ (∃ i, i < 8 ∧ off = 0x100 + 8 * i ∧ m = 0xBF0F_FFFF) ∨
    (off = 0x34 ∧ m = 0x3F_FFFF ∧ 1 ≤ (v.extractLsb' 12 10).toNat ∧ (v.extractLsb' 12 10).toNat ≤ 1000))) ∨
  (fn = 0 ∧ ((off = 0x10 ∧ m = 0xFFF ∧ 600 ≤ v.toNat % 4096 ∧ v.toNat % 4096 ≤ 2800) ∨
    (off = 0x14 ∧ m = 0x7FF ∧ 20 ≤ v.toNat % 2048 ∧ v.toNat % 2048 ≤ 2000)))

/-- 00 R7, R8, 16 R471, R475, R476, R484: a write or a read of any register of any function completes, but for a write that makes the device
access the hole of the physical map; where the function does not answer neither does anything. A register that keeps what is written
reads so after one write, and, if it has 8 bytes, after the writes of its two halves. -/
def Sys2Proof.Claims.RegistersKeep : Prop :=
  (∀ (s : State) (fn off : Nat) (wide : Bool) (v : BitVec 64),
    ((∃ t, exec (.registerWrite fn off wide v) s = .next t) ∨ ∃ pa, exec (.registerWrite fn off wide v) s = .fault (.deviceHole pa)) ∧
    (∃ t, exec (.rsRegisterRead fn off) s = .next t ∧ t.mem = s.mem ∧ (s.answersAt fn off = true → t.hostRead = s.regBytes fn off)) ∧
    (s.answersAt fn off = false → exec (.registerWrite fn off wide v) s = .next s ∧ exec (.rsRegisterRead fn off) s = .next s)) ∧
  (∀ (s : State) (fn off : Nat) (m v : BitVec 64), Keeps8 fn off m → s.functionOn fn = true →
    (∃ t u, exec (.registerWrite fn off true v) s = .next t ∧ t.mem = s.mem ∧ t.cores = s.cores ∧
      exec (.rsRegisterRead fn off) t = .next u ∧ u.hostRead = bytesOf 8 (v &&& m).toNat) ∧
    ∃ t u w, exec (.registerWrite fn off false v) s = .next t ∧ s.readReg fn off = t.readReg fn off ∧
      exec (.registerWrite fn (off + 4) false (v >>> 32)) t = .next u ∧ exec (.rsRegisterRead fn off) u = .next w ∧
      w.hostRead = bytesOf 8 (v &&& m).toNat) ∧
  ∀ (s : State) (fn off : Nat) (m v : BitVec 32), Keeps4 fn off m v → s.functionOn fn = true →
    ∃ t u, exec (.registerWrite fn off false (v.setWidth 64)) s = .next t ∧ t.mem = s.mem ∧ t.cores = s.cores ∧
      exec (.rsRegisterRead fn off) t = .next u ∧ u.hostRead = bytesOf 4 (v &&& m).toNat

/-- 00 R7, 03 R99, 16 R469, R475: a register of 8 bytes takes a whole write at once, and two writes of 4 bytes when the high half is
written; a read of AQISTAT tells its counts and clears them; the host reads and writes device memory through a BAR window, and a
poisoned line it reads is told it. -/
def Sys2Proof.Claims.HostRegisters : Prop :=
  (∀ (s : State) (part : Nat) (v : BitVec 64), s.functionOn (part + 1) = true → part < 16 →
    exec (.registerWrite (part + 1) 0x10 true v) s = .next (s.modPart part fun p => { p with ctxarg := v }) ∧
    ∃ t u, exec (.registerWrite (part + 1) 0x10 false (v.setWidth 32 |>.setWidth 64)) s = .next t ∧
      (t.part part).ctxarg = (s.part part).ctxarg ∧
      exec (.registerWrite (part + 1) 0x14 false (v >>> 32)) t = .next u ∧ (u.part part).ctxarg = v) ∧
  (∀ (s : State) (part i : Nat), s.functionOn (part + 1) = true → i < 8 →
    let a := (s.part part).aqi i
    ∃ t, exec (.rsRegisterRead (part + 1) (0x104 + 8 * i)) s = .next t ∧ t.hostRead = bytesOf 4 (2 ^ 16 * a.badw + a.acc) ∧
      (t.part part).aqi i = { a with badw := 0, acc := 0 } ∧ t.cores = s.cores ∧ t.mem = s.mem) ∧
  (∀ (s : State) (part module m ipa len : Nat), s.carrier module = some m → s.functionOn (part + 1) = true →
    (s.part part).s2en = false → paHole ipa = false → ipa < 2 ^ 52 → ipa % 4096 + len ≤ 4096 →
    ∃ t, exec (.hostBarAccess part module ipa len none) s = .next t ∧ t.hostRead = Memory.readBytes s.mem ipa len ∧
      t.mem = s.mem ∧ (0 < len → (t.hostPoison = true ↔ ∃ x ∈ s.poison, ipa / 64 ≤ x ∧ 64 * x < ipa + len))) ∧
  ∀ (s : State) (part module m ipa len : Nat) (l : List (BitVec 8)), s.carrier module = some m →
    s.functionOn (part + 1) = true → (s.part part).s2en = false → paHole ipa = false → ipa < 2 ^ 52 →
    ipa % 4096 + l.length ≤ 4096 →
    ∃ t, exec (.hostBarAccess part module ipa len (some l)) s = .next t ∧ Memory.readBytes t.mem ipa l.length = l ∧
      ∀ a, ¬(ipa ≤ a ∧ a < ipa + l.length) → Memory.read t.mem a = Memory.read s.mem a

/-- 00 R7, 15 R440, 16 R463 to R482: the writes and reads of the host complete, with the effects that their registers give them.
The model's choices in it: notes/assumptions/111.md, notes/assumptions/112.md, notes/assumptions/113.md, notes/assumptions/114.md, notes/assumptions/115.md, notes/assumptions/116.md. -/
def Obligations.HostAccessesComplete : Prop := Claims.HostWrites ∧ Claims.HostRegisters ∧ Claims.RegistersKeep

/-! Decoding, issuing and reset. -/

namespace Sys2Proof.Claims

/-- Form R with every field zero (07 R235, R238). -/
def zeroR : RForm :=
  { lr := 0, guard := { k := 0, n := false, e := false }, a := .v 0, d := .v 0, ty := .i32
    mod := { absb := false, absa := false, negc := false, negb := false, nega := false, sat := false, rnd := 0 }
    b := .v 0, c := .v 0, ext := 0 }

/-- The request of a decode trap (07 R249): TRAPINFO1 is zero and TRAPMASK the fragment's mask. -/
def decodeReq (i : Iss) (cause : BitVec 8) (info : Nat) : TrapReq :=
  { cause := cause, sub := 0, pc := i.f.pc, mask := i.f.mask, info0 := BitVec.ofNat 32 info, info1 := 0, folio := none }

/-- A fragment issues what stands at its slot: it may issue, it is not at its record's address, nobody waits for it there, and it owes no
single-step trap (05 R168, R192, 13 R398). -/
def goesOn (s : State) (i : Iss) : Prop :=
  s.mayIssue i.c i.wi i.fi = true ∧ s.iss = some i ∧ (i.f.stepped = true → i.w.trap.mode = true) ∧
    i.w.atRecord i.f = none ∧ i.w.waitsHere i.fi i.f = none ∧ (i.f.pc.extractLsb' 0 3).toNat ≤ 4

/-- A word decodes to an instruction that its level and its driver's features allow (07 R248, R249, 16 R483). -/
def allowed (ack : Dword) (priv : Nat) (w : BitVec 96) (x : Instr) : Prop :=
  decode w = .ok x ∧ ∀ op, Op.ofCode (opcodeOf w) = some op →
    levelOf op ≤ priv ∧ (op = .atom → useAbsent ack (formOf op.fmt w) = false)

end Sys2Proof.Claims

/-- 07 R228, R235 to R245: encoding a well-formed instruction and decoding the word gives the instruction back, with every operand at every
value that its encoding admits; and a word that decodes to an instruction is the encoding of it. -/
def Obligations.DecodeEncode : Prop :=
  (∀ (i : Instr) (w : BitVec 96), i.wellFormed = true → encode i = some w → decode w = .ok i) ∧
  ∀ (i : Instr) (w : BitVec 96), decode w = .ok i → i.wellFormed = true ∧ encode i = some w

/-- Words that the spec prints decode to what it prints them for, one of each class of opcodes: 07 after R254 (sadd, vadd, ld, nop, bra), 09 after R304
(fxpk), 11 after R352 (redux), 18 (qmk) and 13 after R411 (wrs). -/
def Obligations.DecodeWords : Prop :=
  decode 0x0000002000FF000001111001 =
      .ok (.sadd { Claims.zeroR with a := .s 4, d := .s 4, b := .imm, ext := 32 }) ∧
    decode 0x0000000000070001140C0C80 =
      .ok (.vadd { Claims.zeroR with lr := 1, guard := { k := 1, n := false, e := true }, a := .v 3, d := .v 3, b := .v 7 }) ∧
    decode 0x000000040000008000040913 = .ok (.fxpk { Claims.zeroR with a := .v 1, d := .v 2, ty := .f32, ext := 4 }) ∧
    decode 0x000100400005012002881980 =
      .ok (.ld { lr := 0, guard := Claims.zeroR.guard, a := .f 2, d := .v 6, space := 2, width := 2, ord := 0, scope := 0, sx := false
                 b := .v 5, c := .v 0, ncls := 0, use := 0, scale := 2, aop := 0, off := 16 }) ∧
    decode 0x000000000000000000000200 = .ok (.nop Claims.zeroR) ∧
    decode 0x000002000002000024000201 =
      .ok (.bra { lr := 0, guard := { k := 2, n := false, e := true }, a := .v 0, d := .v 0, cond := 0, hint := 0, tgt := 2, rcv := 2 }) ∧
    decode 0x000000008100000100051283 = .ok (.redux { Claims.zeroR with lr := 1, a := .v 1, d := .s 4, c := .k 1 }) ∧
    decode 0x000000720059000001219306 =
      .ok (.qmk { lr := 0, guard := Claims.zeroR.guard, a := .s 8, d := .s 36, tile := 0, xfl := 0, b := .s 25, c := .v 0, ext := 0x72 }) ∧
    decode 0x000000300000000001C00381 = .ok (.wrs { Claims.zeroR with a := .s 48, ext := 0x30 })

/-- 05 R199, 07 R228 to R234, R249, 15 R451: where an issue turn chooses a fragment that its slot's arbiter may choose, whose line
translates and has its parity right, and the word of its slot decodes to an instruction, the step is that instruction's meaning on
the state with the line kept, its events counted in the power estimate, then what every step settles; the turn of an event is its
meaning, with an engine's words in the scratchpad counted. The agenda is the model's (notes/assumptions/3.md, notes/assumptions/137.md). -/
def Obligations.StepRunsDecoded : Prop :=
  (∀ (s : State) (i : Iss) (late : Bool) (rest : List Turn) (pa : Nat) (x : Instr) (plc die : Nat) (dirty : List Nat),
    s.agenda = .issue i.c i.wi i.fi late :: rest →
    let u := Claims.chosen { s with agenda := rest } i.c i.wi i.fi late
    let ack := (u.part (ctxPart i.ctx)).featack
    let l := Memory.readBytes u.mem (pa - pa % 64) 64
    let slot := (i.f.pc.extractLsb' 0 3).toNat
    { s with agenda := rest }.mayChoose i.c i.wi i.fi = true →
    ({ s with agenda := rest }.ageSlot i.c i.wi i.fi).mayIssue i.c i.wi i.fi = true → Claims.goesOn u i →
    u.translate i.ctx (i.f.priv == 0) .fetch (lineVa i.f.pc) = .pa pa plc die dirty →
    FMap.get (u.core i.c).badLines (pa / 64) = none → FMap.get (u.core i.c).icache (pa / 64) = none →
    (i.f.entry.isSome = true → slotMarked l i.f.pc = true) → lineBad l = 0 → lineReserved l = none →
    illegalPair l slot = false → Claims.allowed ack i.f.priv (lineInstr l slot) x →
    (firstOfPair l slot = true → ∃ y, Claims.allowed ack i.f.priv (lineInstr l (slot + 1)) y) →
    let v := u.keepLine i.c (pa / 64) 0 l (some (plc, die))
    step s = settled s (counted v x (exec x v))) ∧
  ∀ (s : State) (x : Instr) (rest : List Turn), s.agenda = .event x :: rest → x.parts = none →
    step s = settled s (counted { s with agenda := rest } x (exec x { s with agenda := rest }))

/-- 07 R230, R233, R241, R248, R249, 16 R483: the decode checks of a slot in their order, each a trap with its TRAPINFO0.
The model's choices in it: notes/assumptions/8.md, notes/assumptions/22.md. -/
def Obligations.DecodeTraps : Prop :=
  ∀ (s : State) (i : Iss) (ack : Dword) (l : List Byte) (bad : Nat), i.spec = false →
    let slot := (i.f.pc.extractLsb' 0 3).toNat
    let w := lineInstr l slot
    let trap (cause : BitVec 8) (info : Nat) : Prop :=
      s.issueLine i ack l bad = .done (s.takeTrap i.c i.wi i.fi (Claims.decodeReq i cause info))
    (bad ≠ 0 → trap Cause.instrParity bad) ∧
    (bad = 0 → (∀ b, lineReserved l = some b → trap Cause.reservedField (128 + b)) ∧
      (lineReserved l = none → (illegalPair l slot = true → trap Cause.illegalPair (linePair l).toNat) ∧
        (illegalPair l slot = false → ∀ op, Op.ofCode (opcodeOf w) = some op →
          (i.f.priv < levelOf op → trap Cause.privilege (levelOf op)) ∧
          (levelOf op ≤ i.f.priv →
            (op ≠ .atom → ∀ b, decode w = .reservedField b → trap Cause.reservedField b) ∧
            (op = .atom → useAbsent ack (formOf op.fmt w) = true → ∀ x, decode w = .ok x →
              trap Cause.reservedField 66)))))

/-- 07 R247: an opcode that the map does not assign is an ILLEGAL_OPCODE trap with the opcode in TRAPINFO0; the unassigned opcodes are
0x000 and the ranges the spec lists; a line of zeroed memory stops at the first slot issued. -/
def Obligations.UnassignedOpcodesTrap : Prop :=
  (∀ o : BitVec 10, Op.ofCode o = none ↔ o.toNat = 0 ∨ ∃ r ∈ [(0x019, 0x07F), (0x09D, 0x0FF), (0x116, 0x17F), (0x192, 0x1FF),
    (0x211, 0x27F), (0x290, 0x2FF), (0x312, 0x37F), (0x38B, 0x3FF)], r.1 ≤ o.toNat ∧ o.toNat ≤ r.2) ∧
  (∀ w : BitVec 96, Op.ofCode (opcodeOf w) = none → decode w = .illegalOpcode (opcodeOf w)) ∧
  (∀ (s : State) (i : Iss) (o : BitVec 10), Issued s i → exec (.illegalOpcode o) s =
    .next (s.takeTrap i.c i.wi i.fi (Claims.decodeReq i Cause.illegalOpcode o.toNat))) ∧
  ∀ (s : State) (i : Iss) (ack : Dword), (i.f.pc.extractLsb' 0 3).toNat ≤ 4 →
    let l : List Byte := List.replicate 64 0
    s.issueLine i ack l (lineBad l) = .run (.illegalOpcode 0) s

/-- 15 R441: a target whose FREQ is not a multiple of 100, or lies outside the table of R438 for its STEP, or whose STEP is 0, is
ignored: IGN counts it, and the mailbox keeps what it held; of the host's targets and of the power controller's. -/
def Obligations.IgnoredTargets : Prop :=
  ∀ (s : State) (c step freq : Nat), c < 32 → step < 4 → freq < 4096 →
    freq % 100 ≠ 0 ∨ step = 0 ∨ (step = 1 ∧ ¬(400 ≤ freq ∧ freq ≤ 1200)) ∨ (step = 2 ∧ ¬(800 ≤ freq ∧ freq ≤ 2100)) ∨
      (step = 3 ∧ ¬(1600 ≤ freq ∧ freq ≤ 3000)) →
    (∃ t, exec (.vfmboxWrite c (BitVec.ofNat 32 (2 ^ 24 * step + freq))) s = .next t ∧
      (t.cluster c).ign = satAdd 255 (s.cluster c).ign 1 ∧ (t.cluster c).mbox = (s.cluster c).mbox ∧
      (t.cluster c).move = (s.cluster c).move) ∧
    ∀ (watts : BitVec 12) (x : ControllerTarget), x.cluster = c → x.step.toNat = step → x.freq.toNat = freq →
      s.refTime / 100000 ≠ s.mf.period → ∃ t, exec (.powerControllerPeriod watts [x]) s = .next t ∧ (t.cluster c).ign = satAdd 255 (s.cluster c).ign 1 ∧
        (t.cluster c).mbox = (s.cluster c).mbox ∧ (t.cluster c).move = (s.cluster c).move

/-- 00 R9, 02 R56, 14 R435, 15 R438, R446, R449, R460, 16 R463, R475, R476, R482: what reset leaves where the spec gives the value: clusters at
VS1 and 1,200 MHz, 16 lit banks, no warp, no valid PMAP entry, every queue, AQI and ring disabled, TOUT 20, DIDT 2,000, FEATACK 0,
REFTIME 0. Memory lists nothing, so it is in its canonical form; that its bytes read 0 is the model's choice
(notes/assumptions/2.md). -/
def Obligations.ResetState : Prop :=
  (∀ c, (State.reset.cluster c).step = 1 ∧ (State.reset.cluster c).freq = 1200 ∧ (State.reset.cluster c).rawcyc = 0 ∧
    (State.reset.cluster c).mbox = none ∧ (State.reset.cluster c).move = none) ∧
  (∀ c, (State.reset.core c).cap.lit = 16 ∧ (State.reset.core c).cap.alloc = 16 ∧ (State.reset.core c).cap.pend = false ∧
    (State.reset.core c).warps = [] ∧ (State.reset.core c).holders = []) ∧
  (∀ p, (State.reset.part p).ena = false ∧ (State.reset.part p).clusters = [] ∧ (State.reset.part p).floor = 1 ∧
    (State.reset.part p).tout = 20 ∧ (State.reset.part p).tslice = 0 ∧ (State.reset.part p).featack = 0 ∧
    (∀ q, ((State.reset.part p).queue q).ena = false) ∧ (∀ a, ((State.reset.part p).aqi a).ena = false) ∧
    (State.reset.part p).fq.ena = false ∧ (State.reset.part p).faultLog.ena = false) ∧
  (∀ d, (State.reset.die d).tel.ring.ena = false ∧ (State.reset.die d).walks = [] ∧ (State.reset.die d).pending = []) ∧
  State.reset.mf.didt = 2000 ∧ State.reset.mf.fq.ena = false ∧ State.reset.ctxs = [] ∧ State.reset.launches = [] ∧
  State.reset.refTime = 0 ∧ MemoryOk State.reset

/-- 00 R6, 01 R24: a step keeps the package's memory in its canonical form, so that equal memories are equal data. -/
def Obligations.MemoryKeepsForm : Prop := ∀ s t : State, MemoryOk s → step s = .next t → MemoryOk t
end

