-- ==== Sys2Proof/Laws/Config.lean ====
section
/-!
SUPPORT. What the fused values obey whatever they are.
-/
namespace Sys2Proof

/-- TLIM < TTRIP < TCRIT, each within its field (15 R453). -/
theorem Config.thresholds_at : Config.tlimAt < Config.ttripAt ∧ Config.ttripAt < Config.tcritAt ∧ -32768 ≤ Config.tlimAt ∧
    Config.tcritAt ≤ 32767 := by
  have h := Config.tlimAbove.isLt
  have h1 : Config.tlimAt = (Config.tlimAbove.val : Int) - 32768 := rfl
  have h2 : Config.ttripAt = Config.tlimAt + 1 + (Config.ttripAbove : Int) % (32766 - Config.tlimAt) := rfl
  have h3 : Config.tcritAt = Config.ttripAt + 1 + (Config.tcritAbove : Int) % (32767 - Config.ttripAt) := rfl
  have a0 := Int.emod_nonneg (Config.ttripAbove : Int) (b := 32766 - Config.tlimAt) (by omega)
  have a1 := Int.emod_lt_of_pos (Config.ttripAbove : Int) (b := 32766 - Config.tlimAt) (by omega)
  have b0 := Int.emod_nonneg (Config.tcritAbove : Int) (b := 32767 - Config.ttripAt) (by omega)
  have b1 := Int.emod_lt_of_pos (Config.tcritAbove : Int) (b := 32767 - Config.ttripAt) (by omega)
  omega

theorem Config.toInt_of {x : Int} (h0 : -32768 ≤ x) (h1 : x ≤ 32767) : (BitVec.ofInt 16 x).toInt = x := by
  rw [BitVec.toInt_ofInt, show (2 : Nat) ^ 16 = 65536 from rfl, Int.bmod]
  omega

/-- TLIM < TTRIP < TCRIT, as the registers read (15 R453). -/
theorem Config.thresholds : Config.tlim.toInt < Config.ttrip.toInt ∧ Config.ttrip.toInt < Config.tcrit.toInt := by
  obtain ⟨h1, h2, h3, h4⟩ := Config.thresholds_at
  rw [show Config.tlim = BitVec.ofInt 16 Config.tlimAt from rfl, show Config.ttrip = BitVec.ofInt 16 Config.ttripAt from rfl,
    show Config.tcrit = BitVec.ofInt 16 Config.tcritAt from rfl, Config.toInt_of (by omega) (by omega),
    Config.toInt_of (by omega) (by omega), Config.toInt_of (by omega) (by omega)]
  exact ⟨h1, h2⟩

end Sys2Proof
end

