-- ==== Sys2Proof/Laws/Maps.lean ====
section
/-!
SUPPORT. The laws of the finite maps: what reading gives after each change, and that every change keeps the rising order.
-/
namespace Sys2Proof

variable {α β : Type}

@[simp] theorem FMap.get_nil (k : Nat) : FMap.get ([] : FMap α) k = none := rfl

theorem FMap.get_cons (j k : Nat) (a : α) (m : FMap α) :
    FMap.get ((j, a) :: m) k = if j = k then some a else FMap.get m k := rfl

@[simp] theorem FMap.get_set_self (m : FMap α) (k : Nat) (a : α) : FMap.get (FMap.set m k a) k = some a := by
  induction m with
  | nil => simp [FMap.set, FMap.get]
  | cons x m ih =>
    obtain ⟨j, b⟩ := x
    unfold FMap.set
    split
    · simp [FMap.get]
    · split
      · simp [FMap.get]
      · rename_i h2; simp [FMap.get, h2, ih]

theorem FMap.get_set_ne (m : FMap α) {k k' : Nat} (a : α) (h : k ≠ k') :
    FMap.get (FMap.set m k a) k' = FMap.get m k' := by
  induction m with
  | nil => simp [FMap.set, FMap.get, h]
  | cons x m ih =>
    obtain ⟨j, b⟩ := x
    unfold FMap.set
    split
    · simp [FMap.get, h]
    · split
      · rename_i h2; subst h2; simp [FMap.get, h]
      · simp [FMap.get, ih]

/-- Reading after putting a value at a key. -/
theorem FMap.get_set (m : FMap α) (k k' : Nat) (a : α) :
    FMap.get (FMap.set m k a) k' = if k = k' then some a else FMap.get m k' := by
  by_cases h : k = k'
  · subst h; simp
  · simp [h, FMap.get_set_ne m a h]

/-- Reading after changing the value at a key. -/
theorem FMap.get_modify (m : FMap α) (k k' : Nat) (f : α → α) :
    FMap.get (FMap.modify m k f) k' = if k = k' then (FMap.get m k').map f else FMap.get m k' := by
  induction m with
  | nil => simp [FMap.modify, FMap.get]
  | cons x m ih =>
    obtain ⟨j, b⟩ := x
    unfold FMap.modify
    split
    · rename_i h; subst h; by_cases h : j = k' <;> simp [FMap.get, h]
    · rename_i h
      by_cases h1 : j = k'
      · subst h1; have h2 : k ≠ j := fun e => h e.symm
        simp [FMap.get, h2]
      · simp [FMap.get, h1, ih]

theorem FMap.get_erase_ne (m : FMap α) {k k' : Nat} (h : k ≠ k') :
    FMap.get (FMap.erase m k) k' = FMap.get m k' := by
  induction m with
  | nil => rfl
  | cons x m ih =>
    obtain ⟨j, b⟩ := x
    unfold FMap.erase
    split
    · rename_i h2; subst h2; simp [FMap.get, h, ih]
    · simp [FMap.get, ih]

/-- Reading after changing every value. -/
theorem FMap.get_mapV (m : FMap α) (f : Nat → α → β) (k : Nat) :
    FMap.get (FMap.mapV m f) k = (FMap.get m k).map (f k) := by
  induction m with
  | nil => rfl
  | cons x m ih =>
    obtain ⟨j, b⟩ := x
    show FMap.get ((j, f j b) :: FMap.mapV m f) k = _
    by_cases h : j = k
    · subst h; simp [FMap.get]
    · simp [FMap.get, h, ih]

@[simp] theorem FMap.getD_set_self (m : FMap α) (k : Nat) (a d : α) : FMap.getD (FMap.set m k a) k d = a := by
  simp [FMap.getD]

theorem FMap.getD_set (m : FMap α) (k k' : Nat) (a d : α) :
    FMap.getD (FMap.set m k a) k' d = if k = k' then a else FMap.getD m k' d := by
  by_cases h : k = k' <;> simp [FMap.getD, FMap.get_set, h]

/-- Putting twice keeps the second. -/
theorem FMap.set_set (m : FMap α) (k : Nat) (a b : α) : FMap.set (FMap.set m k a) k b = FMap.set m k b := by
  induction m with
  | nil => simp [FMap.set]
  | cons x m ih =>
    obtain ⟨j, v⟩ := x
    simp only [FMap.set]
    split
    · simp [FMap.set]
    · split
      · simp [FMap.set]
      · rename_i h1 h2; simp [FMap.set, h1, h2, ih]

@[simp] theorem FMap.modify_set (m : FMap α) (k : Nat) (a : α) (f : α → α) :
    FMap.modify (FMap.set m k a) k f = FMap.set m k (f a) := by
  induction m with
  | nil => simp [FMap.set, FMap.modify]
  | cons x m ih =>
    obtain ⟨j, v⟩ := x
    simp only [FMap.set]
    split
    · simp [FMap.modify]
    · split
      · simp [FMap.modify]
      · rename_i h1 h2; simp [FMap.modify, h2, ih]

/-! The rising order. -/

/-- Every key is above a bound. -/
def FMap.above (n : Nat) (m : FMap α) : Prop := ∀ p ∈ m, n < p.1

theorem FMap.sorted_cons {j : Nat} {a : α} {m : FMap α} :
    FMap.sorted ((j, a) :: m) = true ↔ FMap.above j m ∧ FMap.sorted m = true := by
  induction m generalizing j a with
  | nil => simp [FMap.sorted, FMap.above]
  | cons x m ih =>
    obtain ⟨k, b⟩ := x
    simp only [FMap.sorted, Bool.and_eq_true, decide_eq_true_eq, FMap.above, List.mem_cons, forall_eq_or_imp]
    constructor
    · rintro ⟨h1, h2⟩
      refine ⟨⟨h1, fun p hp => ?_⟩, h2⟩
      exact Nat.lt_trans h1 ((ih.mp h2).1 p hp)
    · rintro ⟨⟨h1, _⟩, h2⟩
      exact ⟨h1, h2⟩

theorem FMap.above_set {n k : Nat} {a : α} {m : FMap α} (h : FMap.above n m) (hk : n < k) :
    FMap.above n (FMap.set m k a) := by
  induction m with
  | nil => intro p hp; simp [FMap.set] at hp; subst hp; exact hk
  | cons x m ih =>
    obtain ⟨j, b⟩ := x
    have hj := h (j, b) (by simp)
    have hm : FMap.above n m := fun p hp => h p (by simp [hp])
    unfold FMap.set
    split
    · intro p hp; simp at hp
      rcases hp with rfl | rfl | hp
      · exact hk
      · exact hj
      · exact hm p hp
    · split
      · intro p hp; simp at hp
        rcases hp with rfl | hp
        · exact hk
        · exact hm p hp
      · intro p hp; simp at hp
        rcases hp with rfl | hp
        · exact hj
        · exact ih hm p hp

/-- Putting a value keeps the rising order. -/
theorem FMap.sorted_set {m : FMap α} (k : Nat) (a : α) (h : FMap.sorted m = true) :
    FMap.sorted (FMap.set m k a) = true := by
  induction m with
  | nil => rfl
  | cons x m ih =>
    obtain ⟨j, b⟩ := x
    have h' := FMap.sorted_cons.mp h
    unfold FMap.set
    split
    · rename_i hk
      refine FMap.sorted_cons.mpr ⟨?_, h⟩
      intro p hp; simp at hp
      rcases hp with rfl | hp
      · exact hk
      · exact Nat.lt_trans hk (h'.1 p hp)
    · split
      · rename_i h1 h2; subst h2; exact FMap.sorted_cons.mpr h'
      · rename_i h1 h2
        exact FMap.sorted_cons.mpr ⟨FMap.above_set h'.1 (by omega), ih h'.2⟩

theorem FMap.mem_erase {p : Nat × α} {m : FMap α} {k : Nat} (h : p ∈ FMap.erase m k) : p ∈ m := by
  induction m with
  | nil => exact h
  | cons x m ih =>
    obtain ⟨j, b⟩ := x
    unfold FMap.erase at h
    split at h
    · exact List.mem_cons_of_mem _ (ih h)
    · simp at h ⊢
      rcases h with h | h
      · exact .inl h
      · exact .inr (ih h)

/-- Dropping a key keeps the rising order. -/
theorem FMap.sorted_erase {m : FMap α} (k : Nat) (h : FMap.sorted m = true) : FMap.sorted (FMap.erase m k) = true := by
  induction m with
  | nil => rfl
  | cons x m ih =>
    obtain ⟨j, b⟩ := x
    have h' := FMap.sorted_cons.mp h
    unfold FMap.erase
    split
    · exact ih h'.2
    · exact FMap.sorted_cons.mpr ⟨fun p hp => h'.1 p (FMap.mem_erase hp), ih h'.2⟩

theorem FMap.get_of_above {m : FMap α} {n k : Nat} (h : FMap.above n m) (hk : k ≤ n) : FMap.get m k = none := by
  induction m with
  | nil => rfl
  | cons x m ih =>
    obtain ⟨j, b⟩ := x
    have hj : n < j := h (j, b) (by simp)
    rw [FMap.get_cons, if_neg (by omega)]
    exact ih fun p hp => h p (by simp [hp])

/-- A dropped key is gone. -/
@[simp] theorem FMap.get_erase_self (m : FMap α) (k : Nat) : FMap.get (FMap.erase m k) k = none := by
  induction m with
  | nil => rfl
  | cons x m ih =>
    obtain ⟨j, b⟩ := x
    unfold FMap.erase
    split
    · exact ih
    · rename_i e; rw [FMap.get_cons, if_neg e]; exact ih

theorem FMap.get_mem {m : FMap α} {k : Nat} {a : α} (h : FMap.get m k = some a) : (k, a) ∈ m := by
  induction m with
  | nil => simp at h
  | cons x m ih =>
    obtain ⟨j, b⟩ := x
    rw [FMap.get_cons] at h
    split at h
    · rename_i e; subst e; simp at h; subst h; simp
    · exact List.mem_cons_of_mem _ (ih h)

theorem FMap.mem_set {p : Nat × α} {m : FMap α} {k : Nat} {a : α} (h : p ∈ FMap.set m k a) : p = (k, a) ∨ p ∈ m := by
  induction m with
  | nil => simp [FMap.set] at h; exact .inl h
  | cons x m ih =>
    obtain ⟨j, b⟩ := x
    unfold FMap.set at h
    split at h
    · simp at h; simp; exact h
    · split at h
      · simp at h
        rcases h with h | h
        · exact .inl h
        · exact .inr (by simp [h])
      · simp at h
        rcases h with h | h
        · exact .inr (by simp [h])
        · rcases ih h with h | h
          · exact .inl h
          · exact .inr (by simp [h])

end Sys2Proof
end

