-- ==== Sys2Proof/Laws/Memory.lean ====
section
/-!
SUPPORT. The laws of memory: what a byte reads as after a write, and that every operation keeps the canonical form.
-/
namespace Sys2Proof.Machine

theorem Memory.wf_iff {m : List Host.Cell} :
    Memory.wf m = true ↔ FMap.sorted m = true ∧ ∀ c ∈ m, c.2 ≠ Memory.blank := by
  simp [Memory.wf]

/-- Reading the byte written. -/
theorem Memory.read_write_self (m : List Host.Cell) (a : Nat) (b : Byte) :
    Memory.read (Memory.write m a b) a = b := by
  unfold Memory.read Memory.write
  split
  · rename_i e; subst e
    simp [FMap.getD]
  · simp

/-- A write leaves every other byte. -/
theorem Memory.read_write_ne (m : List Host.Cell) {a a' : Nat} (b : Byte) (h : a ≠ a') :
    Memory.read (Memory.write m a b) a' = Memory.read m a' := by
  unfold Memory.read Memory.write
  split
  · simp [FMap.getD, FMap.get_erase_ne m h]
  · simp [FMap.getD, FMap.get_set_ne m b h]

/-- A write keeps the canonical form. -/
theorem Memory.wf_write {m : List Host.Cell} (a : Nat) (b : Byte) (h : Memory.wf m = true) :
    Memory.wf (Memory.write m a b) = true := by
  obtain ⟨h1, h2⟩ := Memory.wf_iff.mp h
  unfold Memory.write
  split
  · exact Memory.wf_iff.mpr ⟨FMap.sorted_erase a h1, fun c hc => h2 c (FMap.mem_erase hc)⟩
  · rename_i hb
    refine Memory.wf_iff.mpr ⟨FMap.sorted_set a b h1, fun c hc => ?_⟩
    rcases FMap.mem_set hc with rfl | hc
    · exact hb
    · exact h2 c hc

/-- Writing bytes keeps the canonical form. -/
theorem Memory.wf_writeBytes {m : List Host.Cell} (a : Nat) (l : List Byte) (h : Memory.wf m = true) :
    Memory.wf (Memory.writeBytes m a l) = true := by
  induction l generalizing m a with
  | nil => exact h
  | cons b l ih => exact ih (a + 1) (Memory.wf_write a b h)

/-- Writing bytes leaves every byte outside them. -/
theorem Memory.read_writeBytes_out (m : List Host.Cell) (a : Nat) (l : List Byte) {x : Nat}
    (h : x < a ∨ a + l.length ≤ x) : Memory.read (Memory.writeBytes m a l) x = Memory.read m x := by
  induction l generalizing m a with
  | nil => rfl
  | cons b l ih =>
    simp only [List.length_cons] at h
    rw [Memory.writeBytes, ih _ _ (by omega), Memory.read_write_ne m b (by omega)]

/-- Writing bytes gives each of them its value. -/
theorem Memory.read_writeBytes_in (m : List Host.Cell) (a : Nat) (l : List Byte) {j : Nat}
    (hj : j < l.length) : Memory.read (Memory.writeBytes m a l) (a + j) = l[j] := by
  induction l generalizing m a j with
  | nil => simp at hj
  | cons b l ih =>
    rw [Memory.writeBytes]
    cases j with
    | zero =>
      rw [Memory.read_writeBytes_out _ _ _ (by omega)]
      simpa using Memory.read_write_self m a b
    | succ j =>
      have e : a + (j + 1) = a + 1 + j := by omega
      rw [e, ih _ (a + 1) (by simpa using hj)]
      simp


/-- What bytes written leave of memory. -/
@[simp] theorem State.mwriteBytes_mem (s : State) (pa : Nat) (l : List Byte) :
    (s.mwriteBytes pa l).mem = Memory.writeBytes s.mem pa l := rfl

/-- What a value written leaves of memory. -/
@[simp] theorem State.mwrite_mem (s : State) (pa n v : Nat) :
    (s.mwrite pa n v).mem = Memory.writeBytes s.mem pa (bytesOf n v) := rfl

/-- The package's memory after a value is written keeps its form. -/
theorem State.mwrite_wf {s : State} (pa n v : Nat) (h : Memory.wf s.mem = true) :
    Memory.wf (s.mwrite pa n v).mem = true := by simpa using Memory.wf_writeBytes pa _ h

/-- The package's memory after bytes are written keeps its form. -/
theorem State.mwriteBytes_wf {s : State} (pa : Nat) (l : List Byte) (h : Memory.wf s.mem = true) :
    Memory.wf (s.mwriteBytes pa l).mem = true := by simpa using Memory.wf_writeBytes pa l h

@[simp] theorem bytesOf_length (n v : Nat) : (bytesOf n v).length = n := by simp [bytesOf]

/-- Memory after a value is written, outside it. -/
theorem State.mwrite_out (s : State) (pa n v : Nat) {x : Nat} (h : x < pa ∨ pa + n ≤ x) :
    Memory.read (s.mwrite pa n v).mem x = Memory.read s.mem x := by
  simpa using Memory.read_writeBytes_out s.mem pa (bytesOf n v) (by simpa using h)

/-- Reset memory lists nothing. -/
theorem reset_mem_wf : Memory.wf State.reset.mem = true := rfl

end Sys2Proof.Machine
end

