-- ==== Sys2Proof/Laws/State.lean ====
section
/-!
SUPPORT. One lemma per field per named update of the state, of a core and of a warp, and what each accessor reads after
an update, so that no proof unfolds a record update.
-/
namespace Sys2Proof.Machine

@[simp] theorem State.setCore_mem (x : State) (c : Nat) (k : Core) : (x.setCore c k).mem = x.mem := rfl
@[simp] theorem State.setCore_poison (x : State) (c : Nat) (k : Core) : (x.setCore c k).poison = x.poison := rfl
@[simp] theorem State.setCore_clusters (x : State) (c : Nat) (k : Core) : (x.setCore c k).clusters = x.clusters := rfl
@[simp] theorem State.setCore_dies (x : State) (c : Nat) (k : Core) : (x.setCore c k).dies = x.dies := rfl
@[simp] theorem State.setCore_parts (x : State) (c : Nat) (k : Core) : (x.setCore c k).parts = x.parts := rfl
@[simp] theorem State.setCore_ctxs (x : State) (c : Nat) (k : Core) : (x.setCore c k).ctxs = x.ctxs := rfl
@[simp] theorem State.setCore_launches (x : State) (c : Nat) (k : Core) : (x.setCore c k).launches = x.launches := rfl
@[simp] theorem State.setCore_runs (x : State) (c : Nat) (k : Core) : (x.setCore c k).runs = x.runs := rfl
@[simp] theorem State.setCore_jobs (x : State) (c : Nat) (k : Core) : (x.setCore c k).jobs = x.jobs := rfl
@[simp] theorem State.setCore_saved (x : State) (c : Nat) (k : Core) : (x.setCore c k).saved = x.saved := rfl
@[simp] theorem State.setCore_placement (x : State) (c : Nat) (k : Core) : (x.setCore c k).placement = x.placement := rfl
@[simp] theorem State.setCore_msc (x : State) (c : Nat) (k : Core) : (x.setCore c k).msc = x.msc := rfl
@[simp] theorem State.setCore_owned (x : State) (c : Nat) (k : Core) : (x.setCore c k).owned = x.owned := rfl
@[simp] theorem State.setCore_tlb1 (x : State) (c : Nat) (k : Core) : (x.setCore c k).tlb1 = x.tlb1 := rfl
@[simp] theorem State.setCore_tlb2 (x : State) (c : Nat) (k : Core) : (x.setCore c k).tlb2 = x.tlb2 := rfl
@[simp] theorem State.setCore_records (x : State) (c : Nat) (k : Core) : (x.setCore c k).records = x.records := rfl
@[simp] theorem State.setCore_met (x : State) (c : Nat) (k : Core) : (x.setCore c k).met = x.met := rfl
@[simp] theorem State.setCore_doomed (x : State) (c : Nat) (k : Core) : (x.setCore c k).doomed = x.doomed := rfl
@[simp] theorem State.setCore_unitWrites (x : State) (c : Nat) (k : Core) : (x.setCore c k).unitWrites = x.unitWrites := rfl
@[simp] theorem State.setCore_repeats (x : State) (c : Nat) (k : Core) : (x.setCore c k).repeats = x.repeats := rfl
@[simp] theorem State.setCore_net (x : State) (c : Nat) (k : Core) : (x.setCore c k).net = x.net := rfl
@[simp] theorem State.setCore_links (x : State) (c : Nat) (k : Core) : (x.setCore c k).links = x.links := rfl
@[simp] theorem State.setCore_uciDown (x : State) (c : Nat) (k : Core) : (x.setCore c k).uciDown = x.uciDown := rfl
@[simp] theorem State.setCore_mf (x : State) (c : Nat) (k : Core) : (x.setCore c k).mf = x.mf := rfl
@[simp] theorem State.setCore_msi (x : State) (c : Nat) (k : Core) : (x.setCore c k).msi = x.msi := rfl
@[simp] theorem State.setCore_halves (x : State) (c : Nat) (k : Core) : (x.setCore c k).halves = x.halves := rfl
@[simp] theorem State.setCore_hostRead (x : State) (c : Nat) (k : Core) : (x.setCore c k).hostRead = x.hostRead := rfl
@[simp] theorem State.setCore_hostPoison (x : State) (c : Nat) (k : Core) : (x.setCore c k).hostPoison = x.hostPoison := rfl
@[simp] theorem State.setCore_wakeShift (x : State) (c : Nat) (k : Core) : (x.setCore c k).wakeShift = x.wakeShift := rfl
@[simp] theorem State.setCore_refTime (x : State) (c : Nat) (k : Core) : (x.setCore c k).refTime = x.refTime := rfl
@[simp] theorem State.setCore_agenda (x : State) (c : Nat) (k : Core) : (x.setCore c k).agenda = x.agenda := rfl
@[simp] theorem State.setCore_cur (x : State) (c : Nat) (k : Core) : (x.setCore c k).cur = x.cur := rfl
@[simp] theorem State.setCore_uids (x : State) (c : Nat) (k : Core) : (x.setCore c k).uids = x.uids := rfl
@[simp] theorem State.setCore_freeCount (x : State) (c : Nat) (k : Core) : (x.setCore c k).freeCount = x.freeCount := rfl
@[simp] theorem State.setCore_turns (x : State) (c : Nat) (k : Core) : (x.setCore c k).turns = x.turns := rfl
@[simp] theorem State.setCore_lastSlot (x : State) (c : Nat) (k : Core) : (x.setCore c k).lastSlot = x.lastSlot := rfl
@[simp] theorem State.modCore_mem (x : State) (c : Nat) (g : Core → Core) : (x.modCore c g).mem = x.mem := rfl
@[simp] theorem State.modCore_poison (x : State) (c : Nat) (g : Core → Core) : (x.modCore c g).poison = x.poison := rfl
@[simp] theorem State.modCore_clusters (x : State) (c : Nat) (g : Core → Core) : (x.modCore c g).clusters = x.clusters := rfl
@[simp] theorem State.modCore_dies (x : State) (c : Nat) (g : Core → Core) : (x.modCore c g).dies = x.dies := rfl
@[simp] theorem State.modCore_parts (x : State) (c : Nat) (g : Core → Core) : (x.modCore c g).parts = x.parts := rfl
@[simp] theorem State.modCore_ctxs (x : State) (c : Nat) (g : Core → Core) : (x.modCore c g).ctxs = x.ctxs := rfl
@[simp] theorem State.modCore_launches (x : State) (c : Nat) (g : Core → Core) : (x.modCore c g).launches = x.launches := rfl
@[simp] theorem State.modCore_runs (x : State) (c : Nat) (g : Core → Core) : (x.modCore c g).runs = x.runs := rfl
@[simp] theorem State.modCore_jobs (x : State) (c : Nat) (g : Core → Core) : (x.modCore c g).jobs = x.jobs := rfl
@[simp] theorem State.modCore_saved (x : State) (c : Nat) (g : Core → Core) : (x.modCore c g).saved = x.saved := rfl
@[simp] theorem State.modCore_placement (x : State) (c : Nat) (g : Core → Core) : (x.modCore c g).placement = x.placement := rfl
@[simp] theorem State.modCore_msc (x : State) (c : Nat) (g : Core → Core) : (x.modCore c g).msc = x.msc := rfl
@[simp] theorem State.modCore_owned (x : State) (c : Nat) (g : Core → Core) : (x.modCore c g).owned = x.owned := rfl
@[simp] theorem State.modCore_tlb1 (x : State) (c : Nat) (g : Core → Core) : (x.modCore c g).tlb1 = x.tlb1 := rfl
@[simp] theorem State.modCore_tlb2 (x : State) (c : Nat) (g : Core → Core) : (x.modCore c g).tlb2 = x.tlb2 := rfl
@[simp] theorem State.modCore_records (x : State) (c : Nat) (g : Core → Core) : (x.modCore c g).records = x.records := rfl
@[simp] theorem State.modCore_met (x : State) (c : Nat) (g : Core → Core) : (x.modCore c g).met = x.met := rfl
@[simp] theorem State.modCore_doomed (x : State) (c : Nat) (g : Core → Core) : (x.modCore c g).doomed = x.doomed := rfl
@[simp] theorem State.modCore_unitWrites (x : State) (c : Nat) (g : Core → Core) : (x.modCore c g).unitWrites = x.unitWrites := rfl
@[simp] theorem State.modCore_repeats (x : State) (c : Nat) (g : Core → Core) : (x.modCore c g).repeats = x.repeats := rfl
@[simp] theorem State.modCore_net (x : State) (c : Nat) (g : Core → Core) : (x.modCore c g).net = x.net := rfl
@[simp] theorem State.modCore_links (x : State) (c : Nat) (g : Core → Core) : (x.modCore c g).links = x.links := rfl
@[simp] theorem State.modCore_uciDown (x : State) (c : Nat) (g : Core → Core) : (x.modCore c g).uciDown = x.uciDown := rfl
@[simp] theorem State.modCore_mf (x : State) (c : Nat) (g : Core → Core) : (x.modCore c g).mf = x.mf := rfl
@[simp] theorem State.modCore_msi (x : State) (c : Nat) (g : Core → Core) : (x.modCore c g).msi = x.msi := rfl
@[simp] theorem State.modCore_halves (x : State) (c : Nat) (g : Core → Core) : (x.modCore c g).halves = x.halves := rfl
@[simp] theorem State.modCore_hostRead (x : State) (c : Nat) (g : Core → Core) : (x.modCore c g).hostRead = x.hostRead := rfl
@[simp] theorem State.modCore_hostPoison (x : State) (c : Nat) (g : Core → Core) : (x.modCore c g).hostPoison = x.hostPoison := rfl
@[simp] theorem State.modCore_wakeShift (x : State) (c : Nat) (g : Core → Core) : (x.modCore c g).wakeShift = x.wakeShift := rfl
@[simp] theorem State.modCore_refTime (x : State) (c : Nat) (g : Core → Core) : (x.modCore c g).refTime = x.refTime := rfl
@[simp] theorem State.modCore_agenda (x : State) (c : Nat) (g : Core → Core) : (x.modCore c g).agenda = x.agenda := rfl
@[simp] theorem State.modCore_cur (x : State) (c : Nat) (g : Core → Core) : (x.modCore c g).cur = x.cur := rfl
@[simp] theorem State.modCore_uids (x : State) (c : Nat) (g : Core → Core) : (x.modCore c g).uids = x.uids := rfl
@[simp] theorem State.modCore_freeCount (x : State) (c : Nat) (g : Core → Core) : (x.modCore c g).freeCount = x.freeCount := rfl
@[simp] theorem State.modCore_turns (x : State) (c : Nat) (g : Core → Core) : (x.modCore c g).turns = x.turns := rfl
@[simp] theorem State.modCore_lastSlot (x : State) (c : Nat) (g : Core → Core) : (x.modCore c g).lastSlot = x.lastSlot := rfl
@[simp] theorem State.setCluster_mem (x : State) (c : Nat) (k : Cluster) : (x.setCluster c k).mem = x.mem := rfl
@[simp] theorem State.setCluster_poison (x : State) (c : Nat) (k : Cluster) : (x.setCluster c k).poison = x.poison := rfl
@[simp] theorem State.setCluster_cores (x : State) (c : Nat) (k : Cluster) : (x.setCluster c k).cores = x.cores := rfl
@[simp] theorem State.setCluster_dies (x : State) (c : Nat) (k : Cluster) : (x.setCluster c k).dies = x.dies := rfl
@[simp] theorem State.setCluster_parts (x : State) (c : Nat) (k : Cluster) : (x.setCluster c k).parts = x.parts := rfl
@[simp] theorem State.setCluster_ctxs (x : State) (c : Nat) (k : Cluster) : (x.setCluster c k).ctxs = x.ctxs := rfl
@[simp] theorem State.setCluster_launches (x : State) (c : Nat) (k : Cluster) : (x.setCluster c k).launches = x.launches := rfl
@[simp] theorem State.setCluster_runs (x : State) (c : Nat) (k : Cluster) : (x.setCluster c k).runs = x.runs := rfl
@[simp] theorem State.setCluster_jobs (x : State) (c : Nat) (k : Cluster) : (x.setCluster c k).jobs = x.jobs := rfl
@[simp] theorem State.setCluster_saved (x : State) (c : Nat) (k : Cluster) : (x.setCluster c k).saved = x.saved := rfl
@[simp] theorem State.setCluster_placement (x : State) (c : Nat) (k : Cluster) : (x.setCluster c k).placement = x.placement := rfl
@[simp] theorem State.setCluster_msc (x : State) (c : Nat) (k : Cluster) : (x.setCluster c k).msc = x.msc := rfl
@[simp] theorem State.setCluster_owned (x : State) (c : Nat) (k : Cluster) : (x.setCluster c k).owned = x.owned := rfl
@[simp] theorem State.setCluster_tlb1 (x : State) (c : Nat) (k : Cluster) : (x.setCluster c k).tlb1 = x.tlb1 := rfl
@[simp] theorem State.setCluster_tlb2 (x : State) (c : Nat) (k : Cluster) : (x.setCluster c k).tlb2 = x.tlb2 := rfl
@[simp] theorem State.setCluster_records (x : State) (c : Nat) (k : Cluster) : (x.setCluster c k).records = x.records := rfl
@[simp] theorem State.setCluster_met (x : State) (c : Nat) (k : Cluster) : (x.setCluster c k).met = x.met := rfl
@[simp] theorem State.setCluster_doomed (x : State) (c : Nat) (k : Cluster) : (x.setCluster c k).doomed = x.doomed := rfl
@[simp] theorem State.setCluster_unitWrites (x : State) (c : Nat) (k : Cluster) : (x.setCluster c k).unitWrites = x.unitWrites := rfl
@[simp] theorem State.setCluster_repeats (x : State) (c : Nat) (k : Cluster) : (x.setCluster c k).repeats = x.repeats := rfl
@[simp] theorem State.setCluster_net (x : State) (c : Nat) (k : Cluster) : (x.setCluster c k).net = x.net := rfl
@[simp] theorem State.setCluster_links (x : State) (c : Nat) (k : Cluster) : (x.setCluster c k).links = x.links := rfl
@[simp] theorem State.setCluster_uciDown (x : State) (c : Nat) (k : Cluster) : (x.setCluster c k).uciDown = x.uciDown := rfl
@[simp] theorem State.setCluster_mf (x : State) (c : Nat) (k : Cluster) : (x.setCluster c k).mf = x.mf := rfl
@[simp] theorem State.setCluster_msi (x : State) (c : Nat) (k : Cluster) : (x.setCluster c k).msi = x.msi := rfl
@[simp] theorem State.setCluster_halves (x : State) (c : Nat) (k : Cluster) : (x.setCluster c k).halves = x.halves := rfl
@[simp] theorem State.setCluster_hostRead (x : State) (c : Nat) (k : Cluster) : (x.setCluster c k).hostRead = x.hostRead := rfl
@[simp] theorem State.setCluster_hostPoison (x : State) (c : Nat) (k : Cluster) : (x.setCluster c k).hostPoison = x.hostPoison := rfl
@[simp] theorem State.setCluster_wakeShift (x : State) (c : Nat) (k : Cluster) : (x.setCluster c k).wakeShift = x.wakeShift := rfl
@[simp] theorem State.setCluster_refTime (x : State) (c : Nat) (k : Cluster) : (x.setCluster c k).refTime = x.refTime := rfl
@[simp] theorem State.setCluster_agenda (x : State) (c : Nat) (k : Cluster) : (x.setCluster c k).agenda = x.agenda := rfl
@[simp] theorem State.setCluster_cur (x : State) (c : Nat) (k : Cluster) : (x.setCluster c k).cur = x.cur := rfl
@[simp] theorem State.setCluster_uids (x : State) (c : Nat) (k : Cluster) : (x.setCluster c k).uids = x.uids := rfl
@[simp] theorem State.setCluster_freeCount (x : State) (c : Nat) (k : Cluster) : (x.setCluster c k).freeCount = x.freeCount := rfl
@[simp] theorem State.setCluster_turns (x : State) (c : Nat) (k : Cluster) : (x.setCluster c k).turns = x.turns := rfl
@[simp] theorem State.setCluster_lastSlot (x : State) (c : Nat) (k : Cluster) : (x.setCluster c k).lastSlot = x.lastSlot := rfl
@[simp] theorem State.modCluster_mem (x : State) (c : Nat) (g : Cluster → Cluster) : (x.modCluster c g).mem = x.mem := rfl
@[simp] theorem State.modCluster_poison (x : State) (c : Nat) (g : Cluster → Cluster) : (x.modCluster c g).poison = x.poison := rfl
@[simp] theorem State.modCluster_cores (x : State) (c : Nat) (g : Cluster → Cluster) : (x.modCluster c g).cores = x.cores := rfl
@[simp] theorem State.modCluster_dies (x : State) (c : Nat) (g : Cluster → Cluster) : (x.modCluster c g).dies = x.dies := rfl
@[simp] theorem State.modCluster_parts (x : State) (c : Nat) (g : Cluster → Cluster) : (x.modCluster c g).parts = x.parts := rfl
@[simp] theorem State.modCluster_ctxs (x : State) (c : Nat) (g : Cluster → Cluster) : (x.modCluster c g).ctxs = x.ctxs := rfl
@[simp] theorem State.modCluster_launches (x : State) (c : Nat) (g : Cluster → Cluster) : (x.modCluster c g).launches = x.launches := rfl
@[simp] theorem State.modCluster_runs (x : State) (c : Nat) (g : Cluster → Cluster) : (x.modCluster c g).runs = x.runs := rfl
@[simp] theorem State.modCluster_jobs (x : State) (c : Nat) (g : Cluster → Cluster) : (x.modCluster c g).jobs = x.jobs := rfl
@[simp] theorem State.modCluster_saved (x : State) (c : Nat) (g : Cluster → Cluster) : (x.modCluster c g).saved = x.saved := rfl
@[simp] theorem State.modCluster_placement (x : State) (c : Nat) (g : Cluster → Cluster) : (x.modCluster c g).placement = x.placement := rfl
@[simp] theorem State.modCluster_msc (x : State) (c : Nat) (g : Cluster → Cluster) : (x.modCluster c g).msc = x.msc := rfl
@[simp] theorem State.modCluster_owned (x : State) (c : Nat) (g : Cluster → Cluster) : (x.modCluster c g).owned = x.owned := rfl
@[simp] theorem State.modCluster_tlb1 (x : State) (c : Nat) (g : Cluster → Cluster) : (x.modCluster c g).tlb1 = x.tlb1 := rfl
@[simp] theorem State.modCluster_tlb2 (x : State) (c : Nat) (g : Cluster → Cluster) : (x.modCluster c g).tlb2 = x.tlb2 := rfl
@[simp] theorem State.modCluster_records (x : State) (c : Nat) (g : Cluster → Cluster) : (x.modCluster c g).records = x.records := rfl
@[simp] theorem State.modCluster_met (x : State) (c : Nat) (g : Cluster → Cluster) : (x.modCluster c g).met = x.met := rfl
@[simp] theorem State.modCluster_doomed (x : State) (c : Nat) (g : Cluster → Cluster) : (x.modCluster c g).doomed = x.doomed := rfl
@[simp] theorem State.modCluster_unitWrites (x : State) (c : Nat) (g : Cluster → Cluster) : (x.modCluster c g).unitWrites = x.unitWrites := rfl
@[simp] theorem State.modCluster_repeats (x : State) (c : Nat) (g : Cluster → Cluster) : (x.modCluster c g).repeats = x.repeats := rfl
@[simp] theorem State.modCluster_net (x : State) (c : Nat) (g : Cluster → Cluster) : (x.modCluster c g).net = x.net := rfl
@[simp] theorem State.modCluster_links (x : State) (c : Nat) (g : Cluster → Cluster) : (x.modCluster c g).links = x.links := rfl
@[simp] theorem State.modCluster_uciDown (x : State) (c : Nat) (g : Cluster → Cluster) : (x.modCluster c g).uciDown = x.uciDown := rfl
@[simp] theorem State.modCluster_mf (x : State) (c : Nat) (g : Cluster → Cluster) : (x.modCluster c g).mf = x.mf := rfl
@[simp] theorem State.modCluster_msi (x : State) (c : Nat) (g : Cluster → Cluster) : (x.modCluster c g).msi = x.msi := rfl
@[simp] theorem State.modCluster_halves (x : State) (c : Nat) (g : Cluster → Cluster) : (x.modCluster c g).halves = x.halves := rfl
@[simp] theorem State.modCluster_hostRead (x : State) (c : Nat) (g : Cluster → Cluster) : (x.modCluster c g).hostRead = x.hostRead := rfl
@[simp] theorem State.modCluster_hostPoison (x : State) (c : Nat) (g : Cluster → Cluster) : (x.modCluster c g).hostPoison = x.hostPoison := rfl
@[simp] theorem State.modCluster_wakeShift (x : State) (c : Nat) (g : Cluster → Cluster) : (x.modCluster c g).wakeShift = x.wakeShift := rfl
@[simp] theorem State.modCluster_refTime (x : State) (c : Nat) (g : Cluster → Cluster) : (x.modCluster c g).refTime = x.refTime := rfl
@[simp] theorem State.modCluster_agenda (x : State) (c : Nat) (g : Cluster → Cluster) : (x.modCluster c g).agenda = x.agenda := rfl
@[simp] theorem State.modCluster_cur (x : State) (c : Nat) (g : Cluster → Cluster) : (x.modCluster c g).cur = x.cur := rfl
@[simp] theorem State.modCluster_uids (x : State) (c : Nat) (g : Cluster → Cluster) : (x.modCluster c g).uids = x.uids := rfl
@[simp] theorem State.modCluster_freeCount (x : State) (c : Nat) (g : Cluster → Cluster) : (x.modCluster c g).freeCount = x.freeCount := rfl
@[simp] theorem State.modCluster_turns (x : State) (c : Nat) (g : Cluster → Cluster) : (x.modCluster c g).turns = x.turns := rfl
@[simp] theorem State.modCluster_lastSlot (x : State) (c : Nat) (g : Cluster → Cluster) : (x.modCluster c g).lastSlot = x.lastSlot := rfl
@[simp] theorem State.modDie_mem (x : State) (d : Nat) (g : Die → Die) : (x.modDie d g).mem = x.mem := rfl
@[simp] theorem State.modDie_poison (x : State) (d : Nat) (g : Die → Die) : (x.modDie d g).poison = x.poison := rfl
@[simp] theorem State.modDie_cores (x : State) (d : Nat) (g : Die → Die) : (x.modDie d g).cores = x.cores := rfl
@[simp] theorem State.modDie_clusters (x : State) (d : Nat) (g : Die → Die) : (x.modDie d g).clusters = x.clusters := rfl
@[simp] theorem State.modDie_parts (x : State) (d : Nat) (g : Die → Die) : (x.modDie d g).parts = x.parts := rfl
@[simp] theorem State.modDie_ctxs (x : State) (d : Nat) (g : Die → Die) : (x.modDie d g).ctxs = x.ctxs := rfl
@[simp] theorem State.modDie_launches (x : State) (d : Nat) (g : Die → Die) : (x.modDie d g).launches = x.launches := rfl
@[simp] theorem State.modDie_runs (x : State) (d : Nat) (g : Die → Die) : (x.modDie d g).runs = x.runs := rfl
@[simp] theorem State.modDie_jobs (x : State) (d : Nat) (g : Die → Die) : (x.modDie d g).jobs = x.jobs := rfl
@[simp] theorem State.modDie_saved (x : State) (d : Nat) (g : Die → Die) : (x.modDie d g).saved = x.saved := rfl
@[simp] theorem State.modDie_placement (x : State) (d : Nat) (g : Die → Die) : (x.modDie d g).placement = x.placement := rfl
@[simp] theorem State.modDie_msc (x : State) (d : Nat) (g : Die → Die) : (x.modDie d g).msc = x.msc := rfl
@[simp] theorem State.modDie_owned (x : State) (d : Nat) (g : Die → Die) : (x.modDie d g).owned = x.owned := rfl
@[simp] theorem State.modDie_tlb1 (x : State) (d : Nat) (g : Die → Die) : (x.modDie d g).tlb1 = x.tlb1 := rfl
@[simp] theorem State.modDie_tlb2 (x : State) (d : Nat) (g : Die → Die) : (x.modDie d g).tlb2 = x.tlb2 := rfl
@[simp] theorem State.modDie_records (x : State) (d : Nat) (g : Die → Die) : (x.modDie d g).records = x.records := rfl
@[simp] theorem State.modDie_met (x : State) (d : Nat) (g : Die → Die) : (x.modDie d g).met = x.met := rfl
@[simp] theorem State.modDie_doomed (x : State) (d : Nat) (g : Die → Die) : (x.modDie d g).doomed = x.doomed := rfl
@[simp] theorem State.modDie_unitWrites (x : State) (d : Nat) (g : Die → Die) : (x.modDie d g).unitWrites = x.unitWrites := rfl
@[simp] theorem State.modDie_repeats (x : State) (d : Nat) (g : Die → Die) : (x.modDie d g).repeats = x.repeats := rfl
@[simp] theorem State.modDie_net (x : State) (d : Nat) (g : Die → Die) : (x.modDie d g).net = x.net := rfl
@[simp] theorem State.modDie_links (x : State) (d : Nat) (g : Die → Die) : (x.modDie d g).links = x.links := rfl
@[simp] theorem State.modDie_uciDown (x : State) (d : Nat) (g : Die → Die) : (x.modDie d g).uciDown = x.uciDown := rfl
@[simp] theorem State.modDie_mf (x : State) (d : Nat) (g : Die → Die) : (x.modDie d g).mf = x.mf := rfl
@[simp] theorem State.modDie_msi (x : State) (d : Nat) (g : Die → Die) : (x.modDie d g).msi = x.msi := rfl
@[simp] theorem State.modDie_halves (x : State) (d : Nat) (g : Die → Die) : (x.modDie d g).halves = x.halves := rfl
@[simp] theorem State.modDie_hostRead (x : State) (d : Nat) (g : Die → Die) : (x.modDie d g).hostRead = x.hostRead := rfl
@[simp] theorem State.modDie_hostPoison (x : State) (d : Nat) (g : Die → Die) : (x.modDie d g).hostPoison = x.hostPoison := rfl
@[simp] theorem State.modDie_wakeShift (x : State) (d : Nat) (g : Die → Die) : (x.modDie d g).wakeShift = x.wakeShift := rfl
@[simp] theorem State.modDie_refTime (x : State) (d : Nat) (g : Die → Die) : (x.modDie d g).refTime = x.refTime := rfl
@[simp] theorem State.modDie_agenda (x : State) (d : Nat) (g : Die → Die) : (x.modDie d g).agenda = x.agenda := rfl
@[simp] theorem State.modDie_cur (x : State) (d : Nat) (g : Die → Die) : (x.modDie d g).cur = x.cur := rfl
@[simp] theorem State.modDie_uids (x : State) (d : Nat) (g : Die → Die) : (x.modDie d g).uids = x.uids := rfl
@[simp] theorem State.modDie_freeCount (x : State) (d : Nat) (g : Die → Die) : (x.modDie d g).freeCount = x.freeCount := rfl
@[simp] theorem State.modDie_turns (x : State) (d : Nat) (g : Die → Die) : (x.modDie d g).turns = x.turns := rfl
@[simp] theorem State.modDie_lastSlot (x : State) (d : Nat) (g : Die → Die) : (x.modDie d g).lastSlot = x.lastSlot := rfl
@[simp] theorem State.modPart_mem (x : State) (p : Nat) (g : Part → Part) : (x.modPart p g).mem = x.mem := rfl
@[simp] theorem State.modPart_poison (x : State) (p : Nat) (g : Part → Part) : (x.modPart p g).poison = x.poison := rfl
@[simp] theorem State.modPart_cores (x : State) (p : Nat) (g : Part → Part) : (x.modPart p g).cores = x.cores := rfl
@[simp] theorem State.modPart_clusters (x : State) (p : Nat) (g : Part → Part) : (x.modPart p g).clusters = x.clusters := rfl
@[simp] theorem State.modPart_dies (x : State) (p : Nat) (g : Part → Part) : (x.modPart p g).dies = x.dies := rfl
@[simp] theorem State.modPart_ctxs (x : State) (p : Nat) (g : Part → Part) : (x.modPart p g).ctxs = x.ctxs := rfl
@[simp] theorem State.modPart_launches (x : State) (p : Nat) (g : Part → Part) : (x.modPart p g).launches = x.launches := rfl
@[simp] theorem State.modPart_runs (x : State) (p : Nat) (g : Part → Part) : (x.modPart p g).runs = x.runs := rfl
@[simp] theorem State.modPart_jobs (x : State) (p : Nat) (g : Part → Part) : (x.modPart p g).jobs = x.jobs := rfl
@[simp] theorem State.modPart_saved (x : State) (p : Nat) (g : Part → Part) : (x.modPart p g).saved = x.saved := rfl
@[simp] theorem State.modPart_placement (x : State) (p : Nat) (g : Part → Part) : (x.modPart p g).placement = x.placement := rfl
@[simp] theorem State.modPart_msc (x : State) (p : Nat) (g : Part → Part) : (x.modPart p g).msc = x.msc := rfl
@[simp] theorem State.modPart_owned (x : State) (p : Nat) (g : Part → Part) : (x.modPart p g).owned = x.owned := rfl
@[simp] theorem State.modPart_tlb1 (x : State) (p : Nat) (g : Part → Part) : (x.modPart p g).tlb1 = x.tlb1 := rfl
@[simp] theorem State.modPart_tlb2 (x : State) (p : Nat) (g : Part → Part) : (x.modPart p g).tlb2 = x.tlb2 := rfl
@[simp] theorem State.modPart_records (x : State) (p : Nat) (g : Part → Part) : (x.modPart p g).records = x.records := rfl
@[simp] theorem State.modPart_met (x : State) (p : Nat) (g : Part → Part) : (x.modPart p g).met = x.met := rfl
@[simp] theorem State.modPart_doomed (x : State) (p : Nat) (g : Part → Part) : (x.modPart p g).doomed = x.doomed := rfl
@[simp] theorem State.modPart_unitWrites (x : State) (p : Nat) (g : Part → Part) : (x.modPart p g).unitWrites = x.unitWrites := rfl
@[simp] theorem State.modPart_repeats (x : State) (p : Nat) (g : Part → Part) : (x.modPart p g).repeats = x.repeats := rfl
@[simp] theorem State.modPart_net (x : State) (p : Nat) (g : Part → Part) : (x.modPart p g).net = x.net := rfl
@[simp] theorem State.modPart_links (x : State) (p : Nat) (g : Part → Part) : (x.modPart p g).links = x.links := rfl
@[simp] theorem State.modPart_uciDown (x : State) (p : Nat) (g : Part → Part) : (x.modPart p g).uciDown = x.uciDown := rfl
@[simp] theorem State.modPart_mf (x : State) (p : Nat) (g : Part → Part) : (x.modPart p g).mf = x.mf := rfl
@[simp] theorem State.modPart_msi (x : State) (p : Nat) (g : Part → Part) : (x.modPart p g).msi = x.msi := rfl
@[simp] theorem State.modPart_halves (x : State) (p : Nat) (g : Part → Part) : (x.modPart p g).halves = x.halves := rfl
@[simp] theorem State.modPart_hostRead (x : State) (p : Nat) (g : Part → Part) : (x.modPart p g).hostRead = x.hostRead := rfl
@[simp] theorem State.modPart_hostPoison (x : State) (p : Nat) (g : Part → Part) : (x.modPart p g).hostPoison = x.hostPoison := rfl
@[simp] theorem State.modPart_wakeShift (x : State) (p : Nat) (g : Part → Part) : (x.modPart p g).wakeShift = x.wakeShift := rfl
@[simp] theorem State.modPart_refTime (x : State) (p : Nat) (g : Part → Part) : (x.modPart p g).refTime = x.refTime := rfl
@[simp] theorem State.modPart_agenda (x : State) (p : Nat) (g : Part → Part) : (x.modPart p g).agenda = x.agenda := rfl
@[simp] theorem State.modPart_cur (x : State) (p : Nat) (g : Part → Part) : (x.modPart p g).cur = x.cur := rfl
@[simp] theorem State.modPart_uids (x : State) (p : Nat) (g : Part → Part) : (x.modPart p g).uids = x.uids := rfl
@[simp] theorem State.modPart_freeCount (x : State) (p : Nat) (g : Part → Part) : (x.modPart p g).freeCount = x.freeCount := rfl
@[simp] theorem State.modPart_turns (x : State) (p : Nat) (g : Part → Part) : (x.modPart p g).turns = x.turns := rfl
@[simp] theorem State.modPart_lastSlot (x : State) (p : Nat) (g : Part → Part) : (x.modPart p g).lastSlot = x.lastSlot := rfl
@[simp] theorem State.modCtx_mem (x : State) (c : CtxKey) (g : Ctx → Ctx) : (x.modCtx c g).mem = x.mem := rfl
@[simp] theorem State.modCtx_poison (x : State) (c : CtxKey) (g : Ctx → Ctx) : (x.modCtx c g).poison = x.poison := rfl
@[simp] theorem State.modCtx_cores (x : State) (c : CtxKey) (g : Ctx → Ctx) : (x.modCtx c g).cores = x.cores := rfl
@[simp] theorem State.modCtx_clusters (x : State) (c : CtxKey) (g : Ctx → Ctx) : (x.modCtx c g).clusters = x.clusters := rfl
@[simp] theorem State.modCtx_dies (x : State) (c : CtxKey) (g : Ctx → Ctx) : (x.modCtx c g).dies = x.dies := rfl
@[simp] theorem State.modCtx_parts (x : State) (c : CtxKey) (g : Ctx → Ctx) : (x.modCtx c g).parts = x.parts := rfl
@[simp] theorem State.modCtx_launches (x : State) (c : CtxKey) (g : Ctx → Ctx) : (x.modCtx c g).launches = x.launches := rfl
@[simp] theorem State.modCtx_runs (x : State) (c : CtxKey) (g : Ctx → Ctx) : (x.modCtx c g).runs = x.runs := rfl
@[simp] theorem State.modCtx_jobs (x : State) (c : CtxKey) (g : Ctx → Ctx) : (x.modCtx c g).jobs = x.jobs := rfl
@[simp] theorem State.modCtx_saved (x : State) (c : CtxKey) (g : Ctx → Ctx) : (x.modCtx c g).saved = x.saved := rfl
@[simp] theorem State.modCtx_placement (x : State) (c : CtxKey) (g : Ctx → Ctx) : (x.modCtx c g).placement = x.placement := rfl
@[simp] theorem State.modCtx_msc (x : State) (c : CtxKey) (g : Ctx → Ctx) : (x.modCtx c g).msc = x.msc := rfl
@[simp] theorem State.modCtx_owned (x : State) (c : CtxKey) (g : Ctx → Ctx) : (x.modCtx c g).owned = x.owned := rfl
@[simp] theorem State.modCtx_tlb1 (x : State) (c : CtxKey) (g : Ctx → Ctx) : (x.modCtx c g).tlb1 = x.tlb1 := rfl
@[simp] theorem State.modCtx_tlb2 (x : State) (c : CtxKey) (g : Ctx → Ctx) : (x.modCtx c g).tlb2 = x.tlb2 := rfl
@[simp] theorem State.modCtx_records (x : State) (c : CtxKey) (g : Ctx → Ctx) : (x.modCtx c g).records = x.records := rfl
@[simp] theorem State.modCtx_met (x : State) (c : CtxKey) (g : Ctx → Ctx) : (x.modCtx c g).met = x.met := rfl
@[simp] theorem State.modCtx_doomed (x : State) (c : CtxKey) (g : Ctx → Ctx) : (x.modCtx c g).doomed = x.doomed := rfl
@[simp] theorem State.modCtx_unitWrites (x : State) (c : CtxKey) (g : Ctx → Ctx) : (x.modCtx c g).unitWrites = x.unitWrites := rfl
@[simp] theorem State.modCtx_repeats (x : State) (c : CtxKey) (g : Ctx → Ctx) : (x.modCtx c g).repeats = x.repeats := rfl
@[simp] theorem State.modCtx_net (x : State) (c : CtxKey) (g : Ctx → Ctx) : (x.modCtx c g).net = x.net := rfl
@[simp] theorem State.modCtx_links (x : State) (c : CtxKey) (g : Ctx → Ctx) : (x.modCtx c g).links = x.links := rfl
@[simp] theorem State.modCtx_uciDown (x : State) (c : CtxKey) (g : Ctx → Ctx) : (x.modCtx c g).uciDown = x.uciDown := rfl
@[simp] theorem State.modCtx_mf (x : State) (c : CtxKey) (g : Ctx → Ctx) : (x.modCtx c g).mf = x.mf := rfl
@[simp] theorem State.modCtx_msi (x : State) (c : CtxKey) (g : Ctx → Ctx) : (x.modCtx c g).msi = x.msi := rfl
@[simp] theorem State.modCtx_halves (x : State) (c : CtxKey) (g : Ctx → Ctx) : (x.modCtx c g).halves = x.halves := rfl
@[simp] theorem State.modCtx_hostRead (x : State) (c : CtxKey) (g : Ctx → Ctx) : (x.modCtx c g).hostRead = x.hostRead := rfl
@[simp] theorem State.modCtx_hostPoison (x : State) (c : CtxKey) (g : Ctx → Ctx) : (x.modCtx c g).hostPoison = x.hostPoison := rfl
@[simp] theorem State.modCtx_wakeShift (x : State) (c : CtxKey) (g : Ctx → Ctx) : (x.modCtx c g).wakeShift = x.wakeShift := rfl
@[simp] theorem State.modCtx_refTime (x : State) (c : CtxKey) (g : Ctx → Ctx) : (x.modCtx c g).refTime = x.refTime := rfl
@[simp] theorem State.modCtx_agenda (x : State) (c : CtxKey) (g : Ctx → Ctx) : (x.modCtx c g).agenda = x.agenda := rfl
@[simp] theorem State.modCtx_cur (x : State) (c : CtxKey) (g : Ctx → Ctx) : (x.modCtx c g).cur = x.cur := rfl
@[simp] theorem State.modCtx_uids (x : State) (c : CtxKey) (g : Ctx → Ctx) : (x.modCtx c g).uids = x.uids := rfl
@[simp] theorem State.modCtx_freeCount (x : State) (c : CtxKey) (g : Ctx → Ctx) : (x.modCtx c g).freeCount = x.freeCount := rfl
@[simp] theorem State.modCtx_turns (x : State) (c : CtxKey) (g : Ctx → Ctx) : (x.modCtx c g).turns = x.turns := rfl
@[simp] theorem State.modCtx_lastSlot (x : State) (c : CtxKey) (g : Ctx → Ctx) : (x.modCtx c g).lastSlot = x.lastSlot := rfl
@[simp] theorem State.modLaunch_mem (x : State) (l : LaunchKey) (g : Launch → Launch) : (x.modLaunch l g).mem = x.mem := rfl
@[simp] theorem State.modLaunch_poison (x : State) (l : LaunchKey) (g : Launch → Launch) : (x.modLaunch l g).poison = x.poison := rfl
@[simp] theorem State.modLaunch_cores (x : State) (l : LaunchKey) (g : Launch → Launch) : (x.modLaunch l g).cores = x.cores := rfl
@[simp] theorem State.modLaunch_clusters (x : State) (l : LaunchKey) (g : Launch → Launch) : (x.modLaunch l g).clusters = x.clusters := rfl
@[simp] theorem State.modLaunch_dies (x : State) (l : LaunchKey) (g : Launch → Launch) : (x.modLaunch l g).dies = x.dies := rfl
@[simp] theorem State.modLaunch_parts (x : State) (l : LaunchKey) (g : Launch → Launch) : (x.modLaunch l g).parts = x.parts := rfl
@[simp] theorem State.modLaunch_ctxs (x : State) (l : LaunchKey) (g : Launch → Launch) : (x.modLaunch l g).ctxs = x.ctxs := rfl
@[simp] theorem State.modLaunch_runs (x : State) (l : LaunchKey) (g : Launch → Launch) : (x.modLaunch l g).runs = x.runs := rfl
@[simp] theorem State.modLaunch_jobs (x : State) (l : LaunchKey) (g : Launch → Launch) : (x.modLaunch l g).jobs = x.jobs := rfl
@[simp] theorem State.modLaunch_saved (x : State) (l : LaunchKey) (g : Launch → Launch) : (x.modLaunch l g).saved = x.saved := rfl
@[simp] theorem State.modLaunch_placement (x : State) (l : LaunchKey) (g : Launch → Launch) : (x.modLaunch l g).placement = x.placement := rfl
@[simp] theorem State.modLaunch_msc (x : State) (l : LaunchKey) (g : Launch → Launch) : (x.modLaunch l g).msc = x.msc := rfl
@[simp] theorem State.modLaunch_owned (x : State) (l : LaunchKey) (g : Launch → Launch) : (x.modLaunch l g).owned = x.owned := rfl
@[simp] theorem State.modLaunch_tlb1 (x : State) (l : LaunchKey) (g : Launch → Launch) : (x.modLaunch l g).tlb1 = x.tlb1 := rfl
@[simp] theorem State.modLaunch_tlb2 (x : State) (l : LaunchKey) (g : Launch → Launch) : (x.modLaunch l g).tlb2 = x.tlb2 := rfl
@[simp] theorem State.modLaunch_records (x : State) (l : LaunchKey) (g : Launch → Launch) : (x.modLaunch l g).records = x.records := rfl
@[simp] theorem State.modLaunch_met (x : State) (l : LaunchKey) (g : Launch → Launch) : (x.modLaunch l g).met = x.met := rfl
@[simp] theorem State.modLaunch_doomed (x : State) (l : LaunchKey) (g : Launch → Launch) : (x.modLaunch l g).doomed = x.doomed := rfl
@[simp] theorem State.modLaunch_unitWrites (x : State) (l : LaunchKey) (g : Launch → Launch) : (x.modLaunch l g).unitWrites = x.unitWrites := rfl
@[simp] theorem State.modLaunch_repeats (x : State) (l : LaunchKey) (g : Launch → Launch) : (x.modLaunch l g).repeats = x.repeats := rfl
@[simp] theorem State.modLaunch_net (x : State) (l : LaunchKey) (g : Launch → Launch) : (x.modLaunch l g).net = x.net := rfl
@[simp] theorem State.modLaunch_links (x : State) (l : LaunchKey) (g : Launch → Launch) : (x.modLaunch l g).links = x.links := rfl
@[simp] theorem State.modLaunch_uciDown (x : State) (l : LaunchKey) (g : Launch → Launch) : (x.modLaunch l g).uciDown = x.uciDown := rfl
@[simp] theorem State.modLaunch_mf (x : State) (l : LaunchKey) (g : Launch → Launch) : (x.modLaunch l g).mf = x.mf := rfl
@[simp] theorem State.modLaunch_msi (x : State) (l : LaunchKey) (g : Launch → Launch) : (x.modLaunch l g).msi = x.msi := rfl
@[simp] theorem State.modLaunch_halves (x : State) (l : LaunchKey) (g : Launch → Launch) : (x.modLaunch l g).halves = x.halves := rfl
@[simp] theorem State.modLaunch_hostRead (x : State) (l : LaunchKey) (g : Launch → Launch) : (x.modLaunch l g).hostRead = x.hostRead := rfl
@[simp] theorem State.modLaunch_hostPoison (x : State) (l : LaunchKey) (g : Launch → Launch) : (x.modLaunch l g).hostPoison = x.hostPoison := rfl
@[simp] theorem State.modLaunch_wakeShift (x : State) (l : LaunchKey) (g : Launch → Launch) : (x.modLaunch l g).wakeShift = x.wakeShift := rfl
@[simp] theorem State.modLaunch_refTime (x : State) (l : LaunchKey) (g : Launch → Launch) : (x.modLaunch l g).refTime = x.refTime := rfl
@[simp] theorem State.modLaunch_agenda (x : State) (l : LaunchKey) (g : Launch → Launch) : (x.modLaunch l g).agenda = x.agenda := rfl
@[simp] theorem State.modLaunch_cur (x : State) (l : LaunchKey) (g : Launch → Launch) : (x.modLaunch l g).cur = x.cur := rfl
@[simp] theorem State.modLaunch_uids (x : State) (l : LaunchKey) (g : Launch → Launch) : (x.modLaunch l g).uids = x.uids := rfl
@[simp] theorem State.modLaunch_freeCount (x : State) (l : LaunchKey) (g : Launch → Launch) : (x.modLaunch l g).freeCount = x.freeCount := rfl
@[simp] theorem State.modLaunch_turns (x : State) (l : LaunchKey) (g : Launch → Launch) : (x.modLaunch l g).turns = x.turns := rfl
@[simp] theorem State.modLaunch_lastSlot (x : State) (l : LaunchKey) (g : Launch → Launch) : (x.modLaunch l g).lastSlot = x.lastSlot := rfl
@[simp] theorem State.setWarp_mem (x : State) (c w : Nat) (y : Warp) : (x.setWarp c w y).mem = x.mem := rfl
@[simp] theorem State.setWarp_poison (x : State) (c w : Nat) (y : Warp) : (x.setWarp c w y).poison = x.poison := rfl
@[simp] theorem State.setWarp_clusters (x : State) (c w : Nat) (y : Warp) : (x.setWarp c w y).clusters = x.clusters := rfl
@[simp] theorem State.setWarp_dies (x : State) (c w : Nat) (y : Warp) : (x.setWarp c w y).dies = x.dies := rfl
@[simp] theorem State.setWarp_parts (x : State) (c w : Nat) (y : Warp) : (x.setWarp c w y).parts = x.parts := rfl
@[simp] theorem State.setWarp_ctxs (x : State) (c w : Nat) (y : Warp) : (x.setWarp c w y).ctxs = x.ctxs := rfl
@[simp] theorem State.setWarp_launches (x : State) (c w : Nat) (y : Warp) : (x.setWarp c w y).launches = x.launches := rfl
@[simp] theorem State.setWarp_runs (x : State) (c w : Nat) (y : Warp) : (x.setWarp c w y).runs = x.runs := rfl
@[simp] theorem State.setWarp_jobs (x : State) (c w : Nat) (y : Warp) : (x.setWarp c w y).jobs = x.jobs := rfl
@[simp] theorem State.setWarp_saved (x : State) (c w : Nat) (y : Warp) : (x.setWarp c w y).saved = x.saved := rfl
@[simp] theorem State.setWarp_placement (x : State) (c w : Nat) (y : Warp) : (x.setWarp c w y).placement = x.placement := rfl
@[simp] theorem State.setWarp_msc (x : State) (c w : Nat) (y : Warp) : (x.setWarp c w y).msc = x.msc := rfl
@[simp] theorem State.setWarp_owned (x : State) (c w : Nat) (y : Warp) : (x.setWarp c w y).owned = x.owned := rfl
@[simp] theorem State.setWarp_tlb1 (x : State) (c w : Nat) (y : Warp) : (x.setWarp c w y).tlb1 = x.tlb1 := rfl
@[simp] theorem State.setWarp_tlb2 (x : State) (c w : Nat) (y : Warp) : (x.setWarp c w y).tlb2 = x.tlb2 := rfl
@[simp] theorem State.setWarp_records (x : State) (c w : Nat) (y : Warp) : (x.setWarp c w y).records = x.records := rfl
@[simp] theorem State.setWarp_met (x : State) (c w : Nat) (y : Warp) : (x.setWarp c w y).met = x.met := rfl
@[simp] theorem State.setWarp_doomed (x : State) (c w : Nat) (y : Warp) : (x.setWarp c w y).doomed = x.doomed := rfl
@[simp] theorem State.setWarp_unitWrites (x : State) (c w : Nat) (y : Warp) : (x.setWarp c w y).unitWrites = x.unitWrites := rfl
@[simp] theorem State.setWarp_repeats (x : State) (c w : Nat) (y : Warp) : (x.setWarp c w y).repeats = x.repeats := rfl
@[simp] theorem State.setWarp_net (x : State) (c w : Nat) (y : Warp) : (x.setWarp c w y).net = x.net := rfl
@[simp] theorem State.setWarp_links (x : State) (c w : Nat) (y : Warp) : (x.setWarp c w y).links = x.links := rfl
@[simp] theorem State.setWarp_uciDown (x : State) (c w : Nat) (y : Warp) : (x.setWarp c w y).uciDown = x.uciDown := rfl
@[simp] theorem State.setWarp_mf (x : State) (c w : Nat) (y : Warp) : (x.setWarp c w y).mf = x.mf := rfl
@[simp] theorem State.setWarp_msi (x : State) (c w : Nat) (y : Warp) : (x.setWarp c w y).msi = x.msi := rfl
@[simp] theorem State.setWarp_halves (x : State) (c w : Nat) (y : Warp) : (x.setWarp c w y).halves = x.halves := rfl
@[simp] theorem State.setWarp_hostRead (x : State) (c w : Nat) (y : Warp) : (x.setWarp c w y).hostRead = x.hostRead := rfl
@[simp] theorem State.setWarp_hostPoison (x : State) (c w : Nat) (y : Warp) : (x.setWarp c w y).hostPoison = x.hostPoison := rfl
@[simp] theorem State.setWarp_wakeShift (x : State) (c w : Nat) (y : Warp) : (x.setWarp c w y).wakeShift = x.wakeShift := rfl
@[simp] theorem State.setWarp_refTime (x : State) (c w : Nat) (y : Warp) : (x.setWarp c w y).refTime = x.refTime := rfl
@[simp] theorem State.setWarp_agenda (x : State) (c w : Nat) (y : Warp) : (x.setWarp c w y).agenda = x.agenda := rfl
@[simp] theorem State.setWarp_cur (x : State) (c w : Nat) (y : Warp) : (x.setWarp c w y).cur = x.cur := rfl
@[simp] theorem State.setWarp_uids (x : State) (c w : Nat) (y : Warp) : (x.setWarp c w y).uids = x.uids := rfl
@[simp] theorem State.setWarp_freeCount (x : State) (c w : Nat) (y : Warp) : (x.setWarp c w y).freeCount = x.freeCount := rfl
@[simp] theorem State.setWarp_turns (x : State) (c w : Nat) (y : Warp) : (x.setWarp c w y).turns = x.turns := rfl
@[simp] theorem State.setWarp_lastSlot (x : State) (c w : Nat) (y : Warp) : (x.setWarp c w y).lastSlot = x.lastSlot := rfl
@[simp] theorem State.modWarp_mem (x : State) (c w : Nat) (g : Warp → Warp) : (x.modWarp c w g).mem = x.mem := rfl
@[simp] theorem State.modWarp_poison (x : State) (c w : Nat) (g : Warp → Warp) : (x.modWarp c w g).poison = x.poison := rfl
@[simp] theorem State.modWarp_clusters (x : State) (c w : Nat) (g : Warp → Warp) : (x.modWarp c w g).clusters = x.clusters := rfl
@[simp] theorem State.modWarp_dies (x : State) (c w : Nat) (g : Warp → Warp) : (x.modWarp c w g).dies = x.dies := rfl
@[simp] theorem State.modWarp_parts (x : State) (c w : Nat) (g : Warp → Warp) : (x.modWarp c w g).parts = x.parts := rfl
@[simp] theorem State.modWarp_ctxs (x : State) (c w : Nat) (g : Warp → Warp) : (x.modWarp c w g).ctxs = x.ctxs := rfl
@[simp] theorem State.modWarp_launches (x : State) (c w : Nat) (g : Warp → Warp) : (x.modWarp c w g).launches = x.launches := rfl
@[simp] theorem State.modWarp_runs (x : State) (c w : Nat) (g : Warp → Warp) : (x.modWarp c w g).runs = x.runs := rfl
@[simp] theorem State.modWarp_jobs (x : State) (c w : Nat) (g : Warp → Warp) : (x.modWarp c w g).jobs = x.jobs := rfl
@[simp] theorem State.modWarp_saved (x : State) (c w : Nat) (g : Warp → Warp) : (x.modWarp c w g).saved = x.saved := rfl
@[simp] theorem State.modWarp_placement (x : State) (c w : Nat) (g : Warp → Warp) : (x.modWarp c w g).placement = x.placement := rfl
@[simp] theorem State.modWarp_msc (x : State) (c w : Nat) (g : Warp → Warp) : (x.modWarp c w g).msc = x.msc := rfl
@[simp] theorem State.modWarp_owned (x : State) (c w : Nat) (g : Warp → Warp) : (x.modWarp c w g).owned = x.owned := rfl
@[simp] theorem State.modWarp_tlb1 (x : State) (c w : Nat) (g : Warp → Warp) : (x.modWarp c w g).tlb1 = x.tlb1 := rfl
@[simp] theorem State.modWarp_tlb2 (x : State) (c w : Nat) (g : Warp → Warp) : (x.modWarp c w g).tlb2 = x.tlb2 := rfl
@[simp] theorem State.modWarp_records (x : State) (c w : Nat) (g : Warp → Warp) : (x.modWarp c w g).records = x.records := rfl
@[simp] theorem State.modWarp_met (x : State) (c w : Nat) (g : Warp → Warp) : (x.modWarp c w g).met = x.met := rfl
@[simp] theorem State.modWarp_doomed (x : State) (c w : Nat) (g : Warp → Warp) : (x.modWarp c w g).doomed = x.doomed := rfl
@[simp] theorem State.modWarp_unitWrites (x : State) (c w : Nat) (g : Warp → Warp) : (x.modWarp c w g).unitWrites = x.unitWrites := rfl
@[simp] theorem State.modWarp_repeats (x : State) (c w : Nat) (g : Warp → Warp) : (x.modWarp c w g).repeats = x.repeats := rfl
@[simp] theorem State.modWarp_net (x : State) (c w : Nat) (g : Warp → Warp) : (x.modWarp c w g).net = x.net := rfl
@[simp] theorem State.modWarp_links (x : State) (c w : Nat) (g : Warp → Warp) : (x.modWarp c w g).links = x.links := rfl
@[simp] theorem State.modWarp_uciDown (x : State) (c w : Nat) (g : Warp → Warp) : (x.modWarp c w g).uciDown = x.uciDown := rfl
@[simp] theorem State.modWarp_mf (x : State) (c w : Nat) (g : Warp → Warp) : (x.modWarp c w g).mf = x.mf := rfl
@[simp] theorem State.modWarp_msi (x : State) (c w : Nat) (g : Warp → Warp) : (x.modWarp c w g).msi = x.msi := rfl
@[simp] theorem State.modWarp_halves (x : State) (c w : Nat) (g : Warp → Warp) : (x.modWarp c w g).halves = x.halves := rfl
@[simp] theorem State.modWarp_hostRead (x : State) (c w : Nat) (g : Warp → Warp) : (x.modWarp c w g).hostRead = x.hostRead := rfl
@[simp] theorem State.modWarp_hostPoison (x : State) (c w : Nat) (g : Warp → Warp) : (x.modWarp c w g).hostPoison = x.hostPoison := rfl
@[simp] theorem State.modWarp_wakeShift (x : State) (c w : Nat) (g : Warp → Warp) : (x.modWarp c w g).wakeShift = x.wakeShift := rfl
@[simp] theorem State.modWarp_refTime (x : State) (c w : Nat) (g : Warp → Warp) : (x.modWarp c w g).refTime = x.refTime := rfl
@[simp] theorem State.modWarp_agenda (x : State) (c w : Nat) (g : Warp → Warp) : (x.modWarp c w g).agenda = x.agenda := rfl
@[simp] theorem State.modWarp_cur (x : State) (c w : Nat) (g : Warp → Warp) : (x.modWarp c w g).cur = x.cur := rfl
@[simp] theorem State.modWarp_uids (x : State) (c w : Nat) (g : Warp → Warp) : (x.modWarp c w g).uids = x.uids := rfl
@[simp] theorem State.modWarp_freeCount (x : State) (c w : Nat) (g : Warp → Warp) : (x.modWarp c w g).freeCount = x.freeCount := rfl
@[simp] theorem State.modWarp_turns (x : State) (c w : Nat) (g : Warp → Warp) : (x.modWarp c w g).turns = x.turns := rfl
@[simp] theorem State.modWarp_lastSlot (x : State) (c w : Nat) (g : Warp → Warp) : (x.modWarp c w g).lastSlot = x.lastSlot := rfl
@[simp] theorem State.modFrag_mem (x : State) (c w i : Nat) (g : Frag → Frag) : (x.modFrag c w i g).mem = x.mem := rfl
@[simp] theorem State.modFrag_poison (x : State) (c w i : Nat) (g : Frag → Frag) : (x.modFrag c w i g).poison = x.poison := rfl
@[simp] theorem State.modFrag_clusters (x : State) (c w i : Nat) (g : Frag → Frag) : (x.modFrag c w i g).clusters = x.clusters := rfl
@[simp] theorem State.modFrag_dies (x : State) (c w i : Nat) (g : Frag → Frag) : (x.modFrag c w i g).dies = x.dies := rfl
@[simp] theorem State.modFrag_parts (x : State) (c w i : Nat) (g : Frag → Frag) : (x.modFrag c w i g).parts = x.parts := rfl
@[simp] theorem State.modFrag_ctxs (x : State) (c w i : Nat) (g : Frag → Frag) : (x.modFrag c w i g).ctxs = x.ctxs := rfl
@[simp] theorem State.modFrag_launches (x : State) (c w i : Nat) (g : Frag → Frag) : (x.modFrag c w i g).launches = x.launches := rfl
@[simp] theorem State.modFrag_runs (x : State) (c w i : Nat) (g : Frag → Frag) : (x.modFrag c w i g).runs = x.runs := rfl
@[simp] theorem State.modFrag_jobs (x : State) (c w i : Nat) (g : Frag → Frag) : (x.modFrag c w i g).jobs = x.jobs := rfl
@[simp] theorem State.modFrag_saved (x : State) (c w i : Nat) (g : Frag → Frag) : (x.modFrag c w i g).saved = x.saved := rfl
@[simp] theorem State.modFrag_placement (x : State) (c w i : Nat) (g : Frag → Frag) : (x.modFrag c w i g).placement = x.placement := rfl
@[simp] theorem State.modFrag_msc (x : State) (c w i : Nat) (g : Frag → Frag) : (x.modFrag c w i g).msc = x.msc := rfl
@[simp] theorem State.modFrag_owned (x : State) (c w i : Nat) (g : Frag → Frag) : (x.modFrag c w i g).owned = x.owned := rfl
@[simp] theorem State.modFrag_tlb1 (x : State) (c w i : Nat) (g : Frag → Frag) : (x.modFrag c w i g).tlb1 = x.tlb1 := rfl
@[simp] theorem State.modFrag_tlb2 (x : State) (c w i : Nat) (g : Frag → Frag) : (x.modFrag c w i g).tlb2 = x.tlb2 := rfl
@[simp] theorem State.modFrag_records (x : State) (c w i : Nat) (g : Frag → Frag) : (x.modFrag c w i g).records = x.records := rfl
@[simp] theorem State.modFrag_met (x : State) (c w i : Nat) (g : Frag → Frag) : (x.modFrag c w i g).met = x.met := rfl
@[simp] theorem State.modFrag_doomed (x : State) (c w i : Nat) (g : Frag → Frag) : (x.modFrag c w i g).doomed = x.doomed := rfl
@[simp] theorem State.modFrag_unitWrites (x : State) (c w i : Nat) (g : Frag → Frag) : (x.modFrag c w i g).unitWrites = x.unitWrites := rfl
@[simp] theorem State.modFrag_repeats (x : State) (c w i : Nat) (g : Frag → Frag) : (x.modFrag c w i g).repeats = x.repeats := rfl
@[simp] theorem State.modFrag_net (x : State) (c w i : Nat) (g : Frag → Frag) : (x.modFrag c w i g).net = x.net := rfl
@[simp] theorem State.modFrag_links (x : State) (c w i : Nat) (g : Frag → Frag) : (x.modFrag c w i g).links = x.links := rfl
@[simp] theorem State.modFrag_uciDown (x : State) (c w i : Nat) (g : Frag → Frag) : (x.modFrag c w i g).uciDown = x.uciDown := rfl
@[simp] theorem State.modFrag_mf (x : State) (c w i : Nat) (g : Frag → Frag) : (x.modFrag c w i g).mf = x.mf := rfl
@[simp] theorem State.modFrag_msi (x : State) (c w i : Nat) (g : Frag → Frag) : (x.modFrag c w i g).msi = x.msi := rfl
@[simp] theorem State.modFrag_halves (x : State) (c w i : Nat) (g : Frag → Frag) : (x.modFrag c w i g).halves = x.halves := rfl
@[simp] theorem State.modFrag_hostRead (x : State) (c w i : Nat) (g : Frag → Frag) : (x.modFrag c w i g).hostRead = x.hostRead := rfl
@[simp] theorem State.modFrag_hostPoison (x : State) (c w i : Nat) (g : Frag → Frag) : (x.modFrag c w i g).hostPoison = x.hostPoison := rfl
@[simp] theorem State.modFrag_wakeShift (x : State) (c w i : Nat) (g : Frag → Frag) : (x.modFrag c w i g).wakeShift = x.wakeShift := rfl
@[simp] theorem State.modFrag_refTime (x : State) (c w i : Nat) (g : Frag → Frag) : (x.modFrag c w i g).refTime = x.refTime := rfl
@[simp] theorem State.modFrag_agenda (x : State) (c w i : Nat) (g : Frag → Frag) : (x.modFrag c w i g).agenda = x.agenda := rfl
@[simp] theorem State.modFrag_cur (x : State) (c w i : Nat) (g : Frag → Frag) : (x.modFrag c w i g).cur = x.cur := rfl
@[simp] theorem State.modFrag_uids (x : State) (c w i : Nat) (g : Frag → Frag) : (x.modFrag c w i g).uids = x.uids := rfl
@[simp] theorem State.modFrag_freeCount (x : State) (c w i : Nat) (g : Frag → Frag) : (x.modFrag c w i g).freeCount = x.freeCount := rfl
@[simp] theorem State.modFrag_turns (x : State) (c w i : Nat) (g : Frag → Frag) : (x.modFrag c w i g).turns = x.turns := rfl
@[simp] theorem State.modFrag_lastSlot (x : State) (c w i : Nat) (g : Frag → Frag) : (x.modFrag c w i g).lastSlot = x.lastSlot := rfl
@[simp] theorem State.mwrite_poison (x : State) (pa n v : Nat) : (x.mwrite pa n v).poison = x.poison := rfl
@[simp] theorem State.mwrite_cores (x : State) (pa n v : Nat) : (x.mwrite pa n v).cores = x.cores := rfl
@[simp] theorem State.mwrite_clusters (x : State) (pa n v : Nat) : (x.mwrite pa n v).clusters = x.clusters := rfl
@[simp] theorem State.mwrite_dies (x : State) (pa n v : Nat) : (x.mwrite pa n v).dies = x.dies := rfl
@[simp] theorem State.mwrite_parts (x : State) (pa n v : Nat) : (x.mwrite pa n v).parts = x.parts := rfl
@[simp] theorem State.mwrite_ctxs (x : State) (pa n v : Nat) : (x.mwrite pa n v).ctxs = x.ctxs := rfl
@[simp] theorem State.mwrite_launches (x : State) (pa n v : Nat) : (x.mwrite pa n v).launches = x.launches := rfl
@[simp] theorem State.mwrite_runs (x : State) (pa n v : Nat) : (x.mwrite pa n v).runs = x.runs := rfl
@[simp] theorem State.mwrite_jobs (x : State) (pa n v : Nat) : (x.mwrite pa n v).jobs = x.jobs := rfl
@[simp] theorem State.mwrite_saved (x : State) (pa n v : Nat) : (x.mwrite pa n v).saved = x.saved := rfl
@[simp] theorem State.mwrite_placement (x : State) (pa n v : Nat) : (x.mwrite pa n v).placement = x.placement := rfl
@[simp] theorem State.mwrite_owned (x : State) (pa n v : Nat) : (x.mwrite pa n v).owned = x.owned := rfl
@[simp] theorem State.mwrite_tlb1 (x : State) (pa n v : Nat) : (x.mwrite pa n v).tlb1 = x.tlb1 := rfl
@[simp] theorem State.mwrite_tlb2 (x : State) (pa n v : Nat) : (x.mwrite pa n v).tlb2 = x.tlb2 := rfl
@[simp] theorem State.mwrite_records (x : State) (pa n v : Nat) : (x.mwrite pa n v).records = x.records := rfl
@[simp] theorem State.mwrite_met (x : State) (pa n v : Nat) : (x.mwrite pa n v).met = x.met := rfl
@[simp] theorem State.mwrite_doomed (x : State) (pa n v : Nat) : (x.mwrite pa n v).doomed = x.doomed := rfl
@[simp] theorem State.mwrite_unitWrites (x : State) (pa n v : Nat) : (x.mwrite pa n v).unitWrites = x.unitWrites := rfl
@[simp] theorem State.mwrite_repeats (x : State) (pa n v : Nat) : (x.mwrite pa n v).repeats = x.repeats := rfl
@[simp] theorem State.mwrite_net (x : State) (pa n v : Nat) : (x.mwrite pa n v).net = x.net := rfl
@[simp] theorem State.mwrite_links (x : State) (pa n v : Nat) : (x.mwrite pa n v).links = x.links := rfl
@[simp] theorem State.mwrite_uciDown (x : State) (pa n v : Nat) : (x.mwrite pa n v).uciDown = x.uciDown := rfl
@[simp] theorem State.mwrite_mf (x : State) (pa n v : Nat) : (x.mwrite pa n v).mf = x.mf := rfl
@[simp] theorem State.mwrite_msi (x : State) (pa n v : Nat) : (x.mwrite pa n v).msi = x.msi := rfl
@[simp] theorem State.mwrite_halves (x : State) (pa n v : Nat) : (x.mwrite pa n v).halves = x.halves := rfl
@[simp] theorem State.mwrite_hostRead (x : State) (pa n v : Nat) : (x.mwrite pa n v).hostRead = x.hostRead := rfl
@[simp] theorem State.mwrite_hostPoison (x : State) (pa n v : Nat) : (x.mwrite pa n v).hostPoison = x.hostPoison := rfl
@[simp] theorem State.mwrite_wakeShift (x : State) (pa n v : Nat) : (x.mwrite pa n v).wakeShift = x.wakeShift := rfl
@[simp] theorem State.mwrite_refTime (x : State) (pa n v : Nat) : (x.mwrite pa n v).refTime = x.refTime := rfl
@[simp] theorem State.mwrite_agenda (x : State) (pa n v : Nat) : (x.mwrite pa n v).agenda = x.agenda := rfl
@[simp] theorem State.mwrite_cur (x : State) (pa n v : Nat) : (x.mwrite pa n v).cur = x.cur := rfl
@[simp] theorem State.mwrite_uids (x : State) (pa n v : Nat) : (x.mwrite pa n v).uids = x.uids := rfl
@[simp] theorem State.mwrite_freeCount (x : State) (pa n v : Nat) : (x.mwrite pa n v).freeCount = x.freeCount := rfl
@[simp] theorem State.mwrite_turns (x : State) (pa n v : Nat) : (x.mwrite pa n v).turns = x.turns := rfl
@[simp] theorem State.mwrite_lastSlot (x : State) (pa n v : Nat) : (x.mwrite pa n v).lastSlot = x.lastSlot := rfl
@[simp] theorem State.mwriteBytes_poison (x : State) (pa : Nat) (l : List Byte) : (x.mwriteBytes pa l).poison = x.poison := rfl
@[simp] theorem State.mwriteBytes_cores (x : State) (pa : Nat) (l : List Byte) : (x.mwriteBytes pa l).cores = x.cores := rfl
@[simp] theorem State.mwriteBytes_clusters (x : State) (pa : Nat) (l : List Byte) : (x.mwriteBytes pa l).clusters = x.clusters := rfl
@[simp] theorem State.mwriteBytes_dies (x : State) (pa : Nat) (l : List Byte) : (x.mwriteBytes pa l).dies = x.dies := rfl
@[simp] theorem State.mwriteBytes_parts (x : State) (pa : Nat) (l : List Byte) : (x.mwriteBytes pa l).parts = x.parts := rfl
@[simp] theorem State.mwriteBytes_ctxs (x : State) (pa : Nat) (l : List Byte) : (x.mwriteBytes pa l).ctxs = x.ctxs := rfl
@[simp] theorem State.mwriteBytes_launches (x : State) (pa : Nat) (l : List Byte) : (x.mwriteBytes pa l).launches = x.launches := rfl
@[simp] theorem State.mwriteBytes_runs (x : State) (pa : Nat) (l : List Byte) : (x.mwriteBytes pa l).runs = x.runs := rfl
@[simp] theorem State.mwriteBytes_jobs (x : State) (pa : Nat) (l : List Byte) : (x.mwriteBytes pa l).jobs = x.jobs := rfl
@[simp] theorem State.mwriteBytes_saved (x : State) (pa : Nat) (l : List Byte) : (x.mwriteBytes pa l).saved = x.saved := rfl
@[simp] theorem State.mwriteBytes_placement (x : State) (pa : Nat) (l : List Byte) : (x.mwriteBytes pa l).placement = x.placement := rfl
@[simp] theorem State.mwriteBytes_owned (x : State) (pa : Nat) (l : List Byte) : (x.mwriteBytes pa l).owned = x.owned := rfl
@[simp] theorem State.mwriteBytes_tlb1 (x : State) (pa : Nat) (l : List Byte) : (x.mwriteBytes pa l).tlb1 = x.tlb1 := rfl
@[simp] theorem State.mwriteBytes_tlb2 (x : State) (pa : Nat) (l : List Byte) : (x.mwriteBytes pa l).tlb2 = x.tlb2 := rfl
@[simp] theorem State.mwriteBytes_records (x : State) (pa : Nat) (l : List Byte) : (x.mwriteBytes pa l).records = x.records := rfl
@[simp] theorem State.mwriteBytes_met (x : State) (pa : Nat) (l : List Byte) : (x.mwriteBytes pa l).met = x.met := rfl
@[simp] theorem State.mwriteBytes_doomed (x : State) (pa : Nat) (l : List Byte) : (x.mwriteBytes pa l).doomed = x.doomed := rfl
@[simp] theorem State.mwriteBytes_unitWrites (x : State) (pa : Nat) (l : List Byte) : (x.mwriteBytes pa l).unitWrites = x.unitWrites := rfl
@[simp] theorem State.mwriteBytes_repeats (x : State) (pa : Nat) (l : List Byte) : (x.mwriteBytes pa l).repeats = x.repeats := rfl
@[simp] theorem State.mwriteBytes_net (x : State) (pa : Nat) (l : List Byte) : (x.mwriteBytes pa l).net = x.net := rfl
@[simp] theorem State.mwriteBytes_links (x : State) (pa : Nat) (l : List Byte) : (x.mwriteBytes pa l).links = x.links := rfl
@[simp] theorem State.mwriteBytes_uciDown (x : State) (pa : Nat) (l : List Byte) : (x.mwriteBytes pa l).uciDown = x.uciDown := rfl
@[simp] theorem State.mwriteBytes_mf (x : State) (pa : Nat) (l : List Byte) : (x.mwriteBytes pa l).mf = x.mf := rfl
@[simp] theorem State.mwriteBytes_msi (x : State) (pa : Nat) (l : List Byte) : (x.mwriteBytes pa l).msi = x.msi := rfl
@[simp] theorem State.mwriteBytes_halves (x : State) (pa : Nat) (l : List Byte) : (x.mwriteBytes pa l).halves = x.halves := rfl
@[simp] theorem State.mwriteBytes_hostRead (x : State) (pa : Nat) (l : List Byte) : (x.mwriteBytes pa l).hostRead = x.hostRead := rfl
@[simp] theorem State.mwriteBytes_hostPoison (x : State) (pa : Nat) (l : List Byte) : (x.mwriteBytes pa l).hostPoison = x.hostPoison := rfl
@[simp] theorem State.mwriteBytes_wakeShift (x : State) (pa : Nat) (l : List Byte) : (x.mwriteBytes pa l).wakeShift = x.wakeShift := rfl
@[simp] theorem State.mwriteBytes_refTime (x : State) (pa : Nat) (l : List Byte) : (x.mwriteBytes pa l).refTime = x.refTime := rfl
@[simp] theorem State.mwriteBytes_agenda (x : State) (pa : Nat) (l : List Byte) : (x.mwriteBytes pa l).agenda = x.agenda := rfl
@[simp] theorem State.mwriteBytes_cur (x : State) (pa : Nat) (l : List Byte) : (x.mwriteBytes pa l).cur = x.cur := rfl
@[simp] theorem State.mwriteBytes_uids (x : State) (pa : Nat) (l : List Byte) : (x.mwriteBytes pa l).uids = x.uids := rfl
@[simp] theorem State.mwriteBytes_freeCount (x : State) (pa : Nat) (l : List Byte) : (x.mwriteBytes pa l).freeCount = x.freeCount := rfl
@[simp] theorem State.mwriteBytes_turns (x : State) (pa : Nat) (l : List Byte) : (x.mwriteBytes pa l).turns = x.turns := rfl
@[simp] theorem State.mwriteBytes_lastSlot (x : State) (pa : Nat) (l : List Byte) : (x.mwriteBytes pa l).lastSlot = x.lastSlot := rfl
@[simp] theorem Core.setWarp_wgs (x : Core) (w : Nat) (y : Warp) : (x.setWarp w y).wgs = x.wgs := rfl
@[simp] theorem Core.setWarp_cap (x : Core) (w : Nat) (y : Warp) : (x.setWarp w y).cap = x.cap := rfl
@[simp] theorem Core.setWarp_folios (x : Core) (w : Nat) (y : Warp) : (x.setWarp w y).folios = x.folios := rfl
@[simp] theorem Core.setWarp_pad (x : Core) (w : Nat) (y : Warp) : (x.setWarp w y).pad = x.pad := rfl
@[simp] theorem Core.setWarp_padBad (x : Core) (w : Nat) (y : Warp) : (x.setWarp w y).padBad = x.padBad := rfl
@[simp] theorem Core.setWarp_locks (x : Core) (w : Nat) (y : Warp) : (x.setWarp w y).locks = x.locks := rfl
@[simp] theorem Core.setWarp_lockTurn (x : Core) (w : Nat) (y : Warp) : (x.setWarp w y).lockTurn = x.lockTurn := rfl
@[simp] theorem Core.setWarp_gath (x : Core) (w : Nat) (y : Warp) : (x.setWarp w y).gath = x.gath := rfl
@[simp] theorem Core.setWarp_ops (x : Core) (w : Nat) (y : Warp) : (x.setWarp w y).ops = x.ops := rfl
@[simp] theorem Core.setWarp_cdc (x : Core) (w : Nat) (y : Warp) : (x.setWarp w y).cdc = x.cdc := rfl
@[simp] theorem Core.setWarp_icache (x : Core) (w : Nat) (y : Warp) : (x.setWarp w y).icache = x.icache := rfl
@[simp] theorem Core.setWarp_badLines (x : Core) (w : Nat) (y : Warp) : (x.setWarp w y).badLines = x.badLines := rfl
@[simp] theorem Core.setWarp_matrix (x : Core) (w : Nat) (y : Warp) : (x.setWarp w y).matrix = x.matrix := rfl
@[simp] theorem Core.setWarp_predictor (x : Core) (w : Nat) (y : Warp) : (x.setWarp w y).predictor = x.predictor := rfl
@[simp] theorem Core.setWarp_storeQ (x : Core) (w : Nat) (y : Warp) : (x.setWarp w y).storeQ = x.storeQ := rfl
@[simp] theorem Core.setWarp_lineClass (x : Core) (w : Nat) (y : Warp) : (x.setWarp w y).lineClass = x.lineClass := rfl
@[simp] theorem Core.setWarp_urgent (x : Core) (w : Nat) (y : Warp) : (x.setWarp w y).urgent = x.urgent := rfl
@[simp] theorem Core.setWarp_events (x : Core) (w : Nat) (y : Warp) : (x.setWarp w y).events = x.events := rfl
@[simp] theorem Core.setWarp_phys (x : Core) (w : Nat) (y : Warp) : (x.setWarp w y).phys = x.phys := rfl
@[simp] theorem Core.setWarp_drain (x : Core) (w : Nat) (y : Warp) : (x.setWarp w y).drain = x.drain := rfl
@[simp] theorem Core.setWarp_keyedAt (x : Core) (w : Nat) (y : Warp) : (x.setWarp w y).keyedAt = x.keyedAt := rfl
@[simp] theorem Core.modWg_warps (x : Core) (g : Nat) (h : Wg → Wg) : (x.modWg g h).warps = x.warps := rfl
@[simp] theorem Core.modWg_cap (x : Core) (g : Nat) (h : Wg → Wg) : (x.modWg g h).cap = x.cap := rfl
@[simp] theorem Core.modWg_folios (x : Core) (g : Nat) (h : Wg → Wg) : (x.modWg g h).folios = x.folios := rfl
@[simp] theorem Core.modWg_pad (x : Core) (g : Nat) (h : Wg → Wg) : (x.modWg g h).pad = x.pad := rfl
@[simp] theorem Core.modWg_padBad (x : Core) (g : Nat) (h : Wg → Wg) : (x.modWg g h).padBad = x.padBad := rfl
@[simp] theorem Core.modWg_locks (x : Core) (g : Nat) (h : Wg → Wg) : (x.modWg g h).locks = x.locks := rfl
@[simp] theorem Core.modWg_lockTurn (x : Core) (g : Nat) (h : Wg → Wg) : (x.modWg g h).lockTurn = x.lockTurn := rfl
@[simp] theorem Core.modWg_gath (x : Core) (g : Nat) (h : Wg → Wg) : (x.modWg g h).gath = x.gath := rfl
@[simp] theorem Core.modWg_ops (x : Core) (g : Nat) (h : Wg → Wg) : (x.modWg g h).ops = x.ops := rfl
@[simp] theorem Core.modWg_cdc (x : Core) (g : Nat) (h : Wg → Wg) : (x.modWg g h).cdc = x.cdc := rfl
@[simp] theorem Core.modWg_icache (x : Core) (g : Nat) (h : Wg → Wg) : (x.modWg g h).icache = x.icache := rfl
@[simp] theorem Core.modWg_badLines (x : Core) (g : Nat) (h : Wg → Wg) : (x.modWg g h).badLines = x.badLines := rfl
@[simp] theorem Core.modWg_matrix (x : Core) (g : Nat) (h : Wg → Wg) : (x.modWg g h).matrix = x.matrix := rfl
@[simp] theorem Core.modWg_predictor (x : Core) (g : Nat) (h : Wg → Wg) : (x.modWg g h).predictor = x.predictor := rfl
@[simp] theorem Core.modWg_storeQ (x : Core) (g : Nat) (h : Wg → Wg) : (x.modWg g h).storeQ = x.storeQ := rfl
@[simp] theorem Core.modWg_lineClass (x : Core) (g : Nat) (h : Wg → Wg) : (x.modWg g h).lineClass = x.lineClass := rfl
@[simp] theorem Core.modWg_urgent (x : Core) (g : Nat) (h : Wg → Wg) : (x.modWg g h).urgent = x.urgent := rfl
@[simp] theorem Core.modWg_events (x : Core) (g : Nat) (h : Wg → Wg) : (x.modWg g h).events = x.events := rfl
@[simp] theorem Core.modWg_phys (x : Core) (g : Nat) (h : Wg → Wg) : (x.modWg g h).phys = x.phys := rfl
@[simp] theorem Core.modWg_drain (x : Core) (g : Nat) (h : Wg → Wg) : (x.modWg g h).drain = x.drain := rfl
@[simp] theorem Core.modWg_keyedAt (x : Core) (g : Nat) (h : Wg → Wg) : (x.modWg g h).keyedAt = x.keyedAt := rfl
@[simp] theorem Core.modFolio_warps (x : Core) (i : Nat) (h : Folio → Folio) : (x.modFolio i h).warps = x.warps := rfl
@[simp] theorem Core.modFolio_wgs (x : Core) (i : Nat) (h : Folio → Folio) : (x.modFolio i h).wgs = x.wgs := rfl
@[simp] theorem Core.modFolio_cap (x : Core) (i : Nat) (h : Folio → Folio) : (x.modFolio i h).cap = x.cap := rfl
@[simp] theorem Core.modFolio_pad (x : Core) (i : Nat) (h : Folio → Folio) : (x.modFolio i h).pad = x.pad := rfl
@[simp] theorem Core.modFolio_padBad (x : Core) (i : Nat) (h : Folio → Folio) : (x.modFolio i h).padBad = x.padBad := rfl
@[simp] theorem Core.modFolio_locks (x : Core) (i : Nat) (h : Folio → Folio) : (x.modFolio i h).locks = x.locks := rfl
@[simp] theorem Core.modFolio_lockTurn (x : Core) (i : Nat) (h : Folio → Folio) : (x.modFolio i h).lockTurn = x.lockTurn := rfl
@[simp] theorem Core.modFolio_gath (x : Core) (i : Nat) (h : Folio → Folio) : (x.modFolio i h).gath = x.gath := rfl
@[simp] theorem Core.modFolio_ops (x : Core) (i : Nat) (h : Folio → Folio) : (x.modFolio i h).ops = x.ops := rfl
@[simp] theorem Core.modFolio_cdc (x : Core) (i : Nat) (h : Folio → Folio) : (x.modFolio i h).cdc = x.cdc := rfl
@[simp] theorem Core.modFolio_icache (x : Core) (i : Nat) (h : Folio → Folio) : (x.modFolio i h).icache = x.icache := rfl
@[simp] theorem Core.modFolio_badLines (x : Core) (i : Nat) (h : Folio → Folio) : (x.modFolio i h).badLines = x.badLines := rfl
@[simp] theorem Core.modFolio_matrix (x : Core) (i : Nat) (h : Folio → Folio) : (x.modFolio i h).matrix = x.matrix := rfl
@[simp] theorem Core.modFolio_predictor (x : Core) (i : Nat) (h : Folio → Folio) : (x.modFolio i h).predictor = x.predictor := rfl
@[simp] theorem Core.modFolio_storeQ (x : Core) (i : Nat) (h : Folio → Folio) : (x.modFolio i h).storeQ = x.storeQ := rfl
@[simp] theorem Core.modFolio_lineClass (x : Core) (i : Nat) (h : Folio → Folio) : (x.modFolio i h).lineClass = x.lineClass := rfl
@[simp] theorem Core.modFolio_urgent (x : Core) (i : Nat) (h : Folio → Folio) : (x.modFolio i h).urgent = x.urgent := rfl
@[simp] theorem Core.modFolio_events (x : Core) (i : Nat) (h : Folio → Folio) : (x.modFolio i h).events = x.events := rfl
@[simp] theorem Core.modFolio_phys (x : Core) (i : Nat) (h : Folio → Folio) : (x.modFolio i h).phys = x.phys := rfl
@[simp] theorem Core.modFolio_drain (x : Core) (i : Nat) (h : Folio → Folio) : (x.modFolio i h).drain = x.drain := rfl
@[simp] theorem Core.modFolio_keyedAt (x : Core) (i : Nat) (h : Folio → Folio) : (x.modFolio i h).keyedAt = x.keyedAt := rfl
@[simp] theorem Warp.setFrag_uid (x : Warp) (i : Nat) (f : Frag) : (x.setFrag i f).uid = x.uid := rfl
@[simp] theorem Warp.setFrag_wg (x : Warp) (i : Nat) (f : Frag) : (x.setFrag i f).wg = x.wg := rfl
@[simp] theorem Warp.setFrag_index (x : Warp) (i : Nat) (f : Frag) : (x.setFrag i f).index = x.index := rfl
@[simp] theorem Warp.setFrag_privIndex (x : Warp) (i : Nat) (f : Frag) : (x.setFrag i f).privIndex = x.privIndex := rfl
@[simp] theorem Warp.setFrag_live (x : Warp) (i : Nat) (f : Frag) : (x.setFrag i f).live = x.live := rfl
@[simp] theorem Warp.setFrag_recs (x : Warp) (i : Nat) (f : Frag) : (x.setFrag i f).recs = x.recs := rfl
@[simp] theorem Warp.setFrag_s (x : Warp) (i : Nat) (f : Frag) : (x.setFrag i f).s = x.s := rfl
@[simp] theorem Warp.setFrag_sTrap (x : Warp) (i : Nat) (f : Frag) : (x.setFrag i f).sTrap = x.sTrap := rfl
@[simp] theorem Warp.setFrag_v (x : Warp) (i : Nat) (f : Frag) : (x.setFrag i f).v = x.v := rfl
@[simp] theorem Warp.setFrag_vTrap (x : Warp) (i : Nat) (f : Frag) : (x.setFrag i f).vTrap = x.vTrap := rfl
@[simp] theorem Warp.setFrag_k (x : Warp) (i : Nat) (f : Frag) : (x.setFrag i f).k = x.k := rfl
@[simp] theorem Warp.setFrag_f (x : Warp) (i : Nat) (f : Frag) : (x.setFrag i f).f = x.f := rfl
@[simp] theorem Warp.setFrag_sflags (x : Warp) (i : Nat) (f : Frag) : (x.setFrag i f).sflags = x.sflags := rfl
@[simp] theorem Warp.setFrag_fflags (x : Warp) (i : Nat) (f : Frag) : (x.setFrag i f).fflags = x.fflags := rfl
@[simp] theorem Warp.setFrag_mprog (x : Warp) (i : Nat) (f : Frag) : (x.setFrag i f).mprog = x.mprog := rfl
@[simp] theorem Warp.setFrag_trap (x : Warp) (i : Nat) (f : Frag) : (x.setFrag i f).trap = x.trap := rfl
@[simp] theorem Warp.setFrag_deferred (x : Warp) (i : Nat) (f : Frag) : (x.setFrag i f).deferred = x.deferred := rfl
@[simp] theorem Warp.setFrag_counters (x : Warp) (i : Nat) (f : Frag) : (x.setFrag i f).counters = x.counters := rfl
@[simp] theorem Warp.setFrag_fails (x : Warp) (i : Nat) (f : Frag) : (x.setFrag i f).fails = x.fails := rfl
@[simp] theorem Warp.setFrag_quanta (x : Warp) (i : Nat) (f : Frag) : (x.setFrag i f).quanta = x.quanta := rfl
@[simp] theorem Warp.setFrag_lostQuanta (x : Warp) (i : Nat) (f : Frag) : (x.setFrag i f).lostQuanta = x.lostQuanta := rfl
@[simp] theorem Warp.setFrag_comps (x : Warp) (i : Nat) (f : Frag) : (x.setFrag i f).comps = x.comps := rfl
@[simp] theorem Warp.setFrag_reserved (x : Warp) (i : Nat) (f : Frag) : (x.setFrag i f).reserved = x.reserved := rfl
@[simp] theorem Warp.setFrag_revoked (x : Warp) (i : Nat) (f : Frag) : (x.setFrag i f).revoked = x.revoked := rfl
@[simp] theorem Warp.setFrag_spec (x : Warp) (i : Nat) (f : Frag) : (x.setFrag i f).spec = x.spec := rfl
@[simp] theorem Warp.setFrag_lastMask (x : Warp) (i : Nat) (f : Frag) : (x.setFrag i f).lastMask = x.lastMask := rfl
@[simp] theorem Warp.setFrag_kpend (x : Warp) (i : Nat) (f : Frag) : (x.setFrag i f).kpend = x.kpend := rfl
@[simp] theorem Warp.setFrag_vpend (x : Warp) (i : Nat) (f : Frag) : (x.setFrag i f).vpend = x.vpend := rfl
@[simp] theorem Warp.setFrag_queued (x : Warp) (i : Nat) (f : Frag) : (x.setFrag i f).queued = x.queued := rfl
@[simp] theorem Warp.setFrag_klvl (x : Warp) (i : Nat) (f : Frag) : (x.setFrag i f).klvl = x.klvl := rfl
@[simp] theorem Warp.setFrag_watchdog (x : Warp) (i : Nat) (f : Frag) : (x.setFrag i f).watchdog = x.watchdog := rfl
@[simp] theorem Warp.setFrag_lockOut (x : Warp) (i : Nat) (f : Frag) : (x.setFrag i f).lockOut = x.lockOut := rfl
@[simp] theorem Warp.setFrag_saving (x : Warp) (i : Nat) (f : Frag) : (x.setFrag i f).saving = x.saving := rfl
@[simp] theorem Warp.modFrag_uid (x : Warp) (i : Nat) (h : Frag → Frag) : (x.modFrag i h).uid = x.uid := rfl
@[simp] theorem Warp.modFrag_wg (x : Warp) (i : Nat) (h : Frag → Frag) : (x.modFrag i h).wg = x.wg := rfl
@[simp] theorem Warp.modFrag_index (x : Warp) (i : Nat) (h : Frag → Frag) : (x.modFrag i h).index = x.index := rfl
@[simp] theorem Warp.modFrag_privIndex (x : Warp) (i : Nat) (h : Frag → Frag) : (x.modFrag i h).privIndex = x.privIndex := rfl
@[simp] theorem Warp.modFrag_live (x : Warp) (i : Nat) (h : Frag → Frag) : (x.modFrag i h).live = x.live := rfl
@[simp] theorem Warp.modFrag_recs (x : Warp) (i : Nat) (h : Frag → Frag) : (x.modFrag i h).recs = x.recs := rfl
@[simp] theorem Warp.modFrag_s (x : Warp) (i : Nat) (h : Frag → Frag) : (x.modFrag i h).s = x.s := rfl
@[simp] theorem Warp.modFrag_sTrap (x : Warp) (i : Nat) (h : Frag → Frag) : (x.modFrag i h).sTrap = x.sTrap := rfl
@[simp] theorem Warp.modFrag_v (x : Warp) (i : Nat) (h : Frag → Frag) : (x.modFrag i h).v = x.v := rfl
@[simp] theorem Warp.modFrag_vTrap (x : Warp) (i : Nat) (h : Frag → Frag) : (x.modFrag i h).vTrap = x.vTrap := rfl
@[simp] theorem Warp.modFrag_k (x : Warp) (i : Nat) (h : Frag → Frag) : (x.modFrag i h).k = x.k := rfl
@[simp] theorem Warp.modFrag_f (x : Warp) (i : Nat) (h : Frag → Frag) : (x.modFrag i h).f = x.f := rfl
@[simp] theorem Warp.modFrag_sflags (x : Warp) (i : Nat) (h : Frag → Frag) : (x.modFrag i h).sflags = x.sflags := rfl
@[simp] theorem Warp.modFrag_fflags (x : Warp) (i : Nat) (h : Frag → Frag) : (x.modFrag i h).fflags = x.fflags := rfl
@[simp] theorem Warp.modFrag_mprog (x : Warp) (i : Nat) (h : Frag → Frag) : (x.modFrag i h).mprog = x.mprog := rfl
@[simp] theorem Warp.modFrag_trap (x : Warp) (i : Nat) (h : Frag → Frag) : (x.modFrag i h).trap = x.trap := rfl
@[simp] theorem Warp.modFrag_deferred (x : Warp) (i : Nat) (h : Frag → Frag) : (x.modFrag i h).deferred = x.deferred := rfl
@[simp] theorem Warp.modFrag_counters (x : Warp) (i : Nat) (h : Frag → Frag) : (x.modFrag i h).counters = x.counters := rfl
@[simp] theorem Warp.modFrag_fails (x : Warp) (i : Nat) (h : Frag → Frag) : (x.modFrag i h).fails = x.fails := rfl
@[simp] theorem Warp.modFrag_quanta (x : Warp) (i : Nat) (h : Frag → Frag) : (x.modFrag i h).quanta = x.quanta := rfl
@[simp] theorem Warp.modFrag_lostQuanta (x : Warp) (i : Nat) (h : Frag → Frag) : (x.modFrag i h).lostQuanta = x.lostQuanta := rfl
@[simp] theorem Warp.modFrag_comps (x : Warp) (i : Nat) (h : Frag → Frag) : (x.modFrag i h).comps = x.comps := rfl
@[simp] theorem Warp.modFrag_reserved (x : Warp) (i : Nat) (h : Frag → Frag) : (x.modFrag i h).reserved = x.reserved := rfl
@[simp] theorem Warp.modFrag_revoked (x : Warp) (i : Nat) (h : Frag → Frag) : (x.modFrag i h).revoked = x.revoked := rfl
@[simp] theorem Warp.modFrag_spec (x : Warp) (i : Nat) (h : Frag → Frag) : (x.modFrag i h).spec = x.spec := rfl
@[simp] theorem Warp.modFrag_lastMask (x : Warp) (i : Nat) (h : Frag → Frag) : (x.modFrag i h).lastMask = x.lastMask := rfl
@[simp] theorem Warp.modFrag_kpend (x : Warp) (i : Nat) (h : Frag → Frag) : (x.modFrag i h).kpend = x.kpend := rfl
@[simp] theorem Warp.modFrag_vpend (x : Warp) (i : Nat) (h : Frag → Frag) : (x.modFrag i h).vpend = x.vpend := rfl
@[simp] theorem Warp.modFrag_queued (x : Warp) (i : Nat) (h : Frag → Frag) : (x.modFrag i h).queued = x.queued := rfl
@[simp] theorem Warp.modFrag_klvl (x : Warp) (i : Nat) (h : Frag → Frag) : (x.modFrag i h).klvl = x.klvl := rfl
@[simp] theorem Warp.modFrag_watchdog (x : Warp) (i : Nat) (h : Frag → Frag) : (x.modFrag i h).watchdog = x.watchdog := rfl
@[simp] theorem Warp.modFrag_lockOut (x : Warp) (i : Nat) (h : Frag → Frag) : (x.modFrag i h).lockOut = x.lockOut := rfl
@[simp] theorem Warp.modFrag_saving (x : Warp) (i : Nat) (h : Frag → Frag) : (x.modFrag i h).saving = x.saving := rfl

/-! What the accessors read after an update. -/

@[simp] theorem State.core_setCore_self (s : State) (c : Nat) (k : Core) : (s.setCore c k).core c = k := by
  simp [State.core, State.setCore]

theorem State.core_setCore_ne (s : State) {c c' : Nat} (k : Core) (h : c ≠ c') : (s.setCore c k).core c' = s.core c' := by
  simp [State.core, State.setCore, FMap.getD_set, h]

@[simp] theorem State.core_modCore_self (s : State) (c : Nat) (g : Core → Core) : (s.modCore c g).core c = g (s.core c) := by
  simp [State.modCore]

theorem State.core_modCore_ne (s : State) {c c' : Nat} (g : Core → Core) (h : c ≠ c') :
    (s.modCore c g).core c' = s.core c' := by
  simp [State.modCore, State.core_setCore_ne s _ h]

@[simp] theorem State.cluster_modCluster_self (s : State) (c : Nat) (g : Cluster → Cluster) :
    (s.modCluster c g).cluster c = g (s.cluster c) := by
  simp [State.cluster, State.modCluster, State.setCluster]

theorem State.cluster_modCluster_ne (s : State) {c c' : Nat} (g : Cluster → Cluster) (h : c ≠ c') :
    (s.modCluster c g).cluster c' = s.cluster c' := by
  simp [State.cluster, State.modCluster, State.setCluster, FMap.getD_set, h]

@[simp] theorem State.die_modDie_self (s : State) (d : Nat) (g : Die → Die) : (s.modDie d g).die d = g (s.die d) := by
  simp [State.die, State.modDie]

theorem State.die_modDie_ne (s : State) {d d' : Nat} (g : Die → Die) (h : d ≠ d') : (s.modDie d g).die d' = s.die d' := by
  simp [State.die, State.modDie, FMap.getD_set, h]

@[simp] theorem State.part_modPart_self (s : State) (p : Nat) (g : Part → Part) : (s.modPart p g).part p = g (s.part p) := by
  simp [State.part, State.modPart]

theorem State.part_modPart_ne (s : State) {p p' : Nat} (g : Part → Part) (h : p ≠ p') :
    (s.modPart p g).part p' = s.part p' := by
  simp [State.part, State.modPart, FMap.getD_set, h]

@[simp] theorem State.warp_setWarp_self (s : State) (c w : Nat) (x : Warp) : (s.setWarp c w x).warp c w = some x := by
  simp [State.warp, State.setWarp, Core.setWarp]

theorem State.warp_modWarp_self (s : State) (c w : Nat) (g : Warp → Warp) :
    (s.modWarp c w g).warp c w = (s.warp c w).map g := by
  simp [State.warp, State.modWarp, FMap.get_modify]

theorem State.warp_modWarp_ne (s : State) {c w c' w' : Nat} (g : Warp → Warp) (h : c ≠ c' ∨ w ≠ w') :
    (s.modWarp c w g).warp c' w' = s.warp c' w' := by
  by_cases hc : c = c'
  · subst hc
    have hw : w ≠ w' := by simpa using h
    simp [State.warp, State.modWarp, FMap.get_modify, hw]
  · simp [State.warp, State.modWarp, State.core_modCore_ne s _ hc]

@[simp] theorem State.setCore_setCore (s : State) (c : Nat) (k l : Core) :
    (s.setCore c k).setCore c l = s.setCore c l := by
  simp [State.setCore, FMap.set_set]

end Sys2Proof.Machine
end

