-- ==== Sys2Proof/Laws/Ops.lean ====
section
/-!
SUPPORT. What the shared operations of instructions do: how a fragment issues, what the register writes leave, and how a
scalar and a vector instruction complete.
-/
namespace Sys2Proof.Machine

/-- What an issued fragment is made of. -/
theorem iss_eq {s : State} {i : Iss} (h : s.iss = some i) :
    i.c = s.cur.core ∧ i.wi = s.cur.warp ∧ i.fi = s.cur.frag ∧ i.core = s.core i.c ∧ i.late = s.cur.late ∧
      FMap.get i.core.warps i.wi = some i.w ∧ FMap.get i.w.frags i.fi = some i.f := by
  unfold State.iss at h
  split at h
  · simp at h
  · rename_i w hw
    split at h
    · simp at h
    · rename_i f hf
      simp only [Option.some.injEq] at h
      subst h
      exact ⟨rfl, rfl, rfl, rfl, rfl, hw, hf⟩

/-- An issued instruction traps as its own rule lets it. -/
theorem iss_strict {s : State} {i : Iss} (h : s.iss = some i) : i.strict = true := by
  unfold State.iss at h
  repeat' split at h
  all_goals simp_all
  exact h ▸ rfl

/-- The fragment that issues in a state with the same current fragment. -/
theorem iss_of {t : State} {k : Core} {w : Warp} {f : Frag} (hc : t.core t.cur.core = k)
    (hw : FMap.get k.warps t.cur.warp = some w) (hf : FMap.get w.frags t.cur.frag = some f) :
    t.iss = some { c := t.cur.core, wi := t.cur.warp, fi := t.cur.frag, core := k, w := w, f := f, late := t.cur.late, strict := true } := by
  subst hc
  simp [State.iss, State.warp, hw, hf]

/-- The fragment that issues after its core has been replaced. -/
theorem iss_setCore {s : State} {i : Iss} (h : s.iss = some i) {k : Core} {w : Warp} {f : Frag}
    (hw : FMap.get k.warps i.wi = some w) (hf : FMap.get w.frags i.fi = some f) :
    (s.setCore i.c k).iss = some { i with core := k, w := w, f := f } := by
  obtain ⟨h1, h2, h3, h4, h5, _, _⟩ := iss_eq h
  rw [iss_of (k := k) (w := w) (f := f)]
  · simp [h1, h2, h3, h5, iss_strict h]
  · simp [← h1]
  · simpa [← h2] using hw
  · simpa [← h3] using hf

/-- Noting which waits a write has ended changes nothing else. -/
theorem noticed_cases (s : State) : ∃ l, s.noticed = { s with met := l } := ⟨_, rfl⟩

@[simp] theorem noticed_mem (s : State) : s.noticed.mem = s.mem := rfl
@[simp] theorem noticed_cores (s : State) : s.noticed.cores = s.cores := rfl
@[simp] theorem noticed_core (s : State) (c : Nat) : s.noticed.core c = s.core c := rfl
@[simp] theorem noticed_warp (s : State) (c w : Nat) : s.noticed.warp c w = s.warp c w := rfl

/-- Judging a target keeps the line that it was judged by, or does nothing. -/
theorem sight_cases (s : State) (core : Nat) (ctx : CtxKey) (priv : Nat) (p : SlotAddr) :
    (s.sight core ctx priv p).2 = s ∨ ∃ num l plc, (s.sight core ctx priv p).2 = s.keepLine core num 0 l plc := by
  unfold State.sight
  split
  · exact .inl rfl
  · split
    · dsimp only
      split
      · exact .inr ⟨_, _, _, rfl⟩
      · exact .inl rfl
    · exact .inl rfl

/-- Flushing a line gives up copies of it, and changes no byte of memory nor any other core. -/
theorem flushLine_cases (s : State) (core pa : Nat) : ∃ m o, s.flushLine core pa = { s.cdcDrop core (pa / 64) with msc := m, owned := o } :=
  ⟨_, _, rfl⟩

@[simp] theorem flushLine_mem (s : State) (core pa : Nat) : (s.flushLine core pa).mem = s.mem := rfl
theorem onlyCore_flushLine (s : State) (core pa : Nat) {c : Nat} (h : core ≠ c) : (s.flushLine core pa).core c = s.core c :=
  State.core_setCore_ne s _ h

/-- Replacing a core changes no other, and no byte where the scratchpad stays. -/
theorem onlyCore_setCore (s : State) (c : Nat) (k : Core) : OnlyCore s (s.setCore c k) c :=
  ⟨rfl, fun _ h => State.core_setCore_ne s k h⟩

theorem sameBytes_setCore (s : State) (c : Nat) (k : Core) (h : k.pad = (s.core c).pad) : SameBytes s (s.setCore c k) := by
  refine ⟨fun _ => rfl, fun c' a => ?_⟩
  by_cases e : c = c'
  · subst e; simp [h]
  · rw [State.core_setCore_ne s k e]

/-- A core that differs in one warp and in the g registers of its workgroup. -/
def CoreWG (k k' : Core) (w g : Nat) : Prop :=
  k' = { k with warps := k'.warps, wgs := k'.wgs } ∧
    (∀ w', w ≠ w' → FMap.get k'.warps w' = FMap.get k.warps w') ∧
    (∀ g', g ≠ g' → FMap.get k'.wgs g' = FMap.get k.wgs g') ∧
    (FMap.get k'.wgs g).map (fun x => { x with g := [] }) = (FMap.get k.wgs g).map fun x => { x with g := [] }

theorem onlyWarpG_setCore {s : State} {c w g : Nat} {k : Core} (h : CoreWG (s.core c) k w g) :
    OnlyWarpG s (s.setCore c k) c w g ∧ SameBytes s (s.setCore c k) := by
  obtain ⟨h1, h2, h3, h4⟩ := h
  refine ⟨⟨onlyCore_setCore s c k, ?_, ?_, ?_, ?_⟩, sameBytes_setCore s c k ?_⟩
  · simpa using h1
  · intro w' hw; simpa [State.warp] using h2 w' hw
  · simpa using h3
  · simpa using h4
  · rw [h1]

theorem CoreWG.refl (k : Core) (w g : Nat) : CoreWG k k w g := ⟨rfl, fun _ _ => rfl, fun _ _ => rfl, rfl⟩

theorem CoreWG.setWarp {k k' : Core} {w g : Nat} (h : CoreWG k k' w g) (x : Warp) : CoreWG k (k'.setWarp w x) w g := by
  obtain ⟨h1, h2, h3, h4⟩ := h
  refine ⟨?_, ?_, h3, h4⟩
  · rw [h1]; rfl
  · intro w' hw; simp [Core.setWarp, FMap.get_set_ne _ _ hw, h2 w' hw]

theorem CoreWG.onWarp {k k' : Core} {g : Nat} (i : Iss) (h : CoreWG k k' i.wi g) (f : Warp → Warp) :
    CoreWG k (i.onWarp k' f) i.wi g := by
  obtain ⟨h1, h2, h3, h4⟩ := h
  refine ⟨?_, ?_, h3, h4⟩
  · rw [h1]; rfl
  · intro w' hw; simp [Iss.onWarp, FMap.get_modify, hw, h2 w' hw]

theorem CoreWG.putG {k k' : Core} {w : Nat} (i : Iss) (h : CoreWG k k' w i.w.wg) (n : Nat) (v : Word) :
    CoreWG k (i.putG n v k') w i.w.wg := by
  obtain ⟨h1, h2, h3, h4⟩ := h
  refine ⟨?_, h2, ?_, ?_⟩
  · rw [h1]; rfl
  · intro g' hg; simp [Iss.putG, Core.modWg, FMap.get_modify, hg, h3 g' hg]
  · rw [← h4]; simp [Iss.putG, Core.modWg, FMap.get_modify, Option.map_map, Function.comp_def]

/-! The registers a fragment reads, after its core has changed. -/

@[simp] theorem Frag.finish_mask (f : Frag) : f.finish.mask = f.mask := rfl
@[simp] theorem Frag.finish_trm (f : Frag) : f.finish.trm = f.trm := rfl
@[simp] theorem Frag.finish_sides (f : Frag) : f.finish.sides = f.sides := rfl
@[simp] theorem Frag.finish_state (f : Frag) : f.finish.state = f.state := rfl
@[simp] theorem Frag.finish_lvl (f : Frag) : f.finish.lvl = f.lvl := rfl
@[simp] theorem Frag.finish_rcd (f : Frag) : f.finish.rcd = f.rcd := rfl
@[simp] theorem Frag.finish_priv (f : Frag) : f.finish.priv = f.priv := rfl
@[simp] theorem Frag.finish_pend (f : Frag) : f.finish.pend = 0 := rfl
@[simp] theorem Frag.finish_pc (f : Frag) : f.finish.pc = nextSlot f.pc := rfl

theorem Warp.innermost_nil {w : Warp} {f : Frag} (h : f.sides = []) : w.innermost f = none := by
  simp [Warp.innermost, h, FMap.keys]

theorem Warp.chain_nil {w : Warp} {f : Frag} (h : f.sides = []) : w.chain f = [] := by
  simp [Warp.chain, Warp.innermost_nil h]

theorem Warp.readV_nil {w : Warp} {f : Frag} (h : f.sides = []) (n : Nat) :
    w.readV f n = ((FMap.get (if (f.trm && decide (56 ≤ n)) = true then w.vTrap else w.v) n).map (·.val)).getD
      (Lanes.splat 0) := by
  simp [Warp.readV, Warp.chain_nil h]

theorem Warp.readK_nil {w : Warp} {f : Frag} (h : f.sides = []) (n : Nat) : w.readK f n = FMap.getD w.k n 0 := by
  simp [Warp.readK, Warp.chain_nil h]

/-- An issued fragment that is not speculative waits for nothing. -/
theorem Issued.blocked {s : State} {i : Iss} (h : Issued s i) (g : Guard) (ops : List (Operand × Nat)) :
    i.blocked g ops = false := by
  have h1 := h.spec
  have h2 := h.kpend
  simp only [Iss.blocked, h2, List.any_nil, Bool.and_false, Bool.false_or, List.any_eq_false]
  intro p _
  unfold Iss.blockedOn
  split <;> simp [h1, h2, Iss.pendingV, h.vpend]

theorem Issued.held {s : State} {i : Iss} (h : Issued s i) (g : Guard) (ops : List (Operand × Nat)) (d : Operand)
    (n : Nat) (b : Bool) : i.held g ops d n b = none := by
  simp [Iss.held, Iss.poolEmpty, h.blocked, h.spec]

/-- A scalar instruction acts when its guard lets it. -/
theorem Issued.scalar {s : State} {i : Iss} (h : Issued s i) (g : Guard) (ops : List (Operand × Nat)) (act : Core → Eff)
    (hg : i.scalarGo g = true) : i.scalar g ops act = act i.begin := by
  simp [Iss.scalar, h.blocked, h.spec, hg]

/-- Where no lane passes the guard a scalar instruction only moves the fragment on. -/
theorem Issued.scalar_off {s : State} {i : Iss} (h : Issued s i) (g : Guard) (ops : List (Operand × Nat))
    (act : Core → Eff) (hg : i.scalarGo g = false) : i.scalar g ops act = .ok i.begin := by
  simp [Iss.scalar, h.blocked, h.spec, hg]

/-- A vector instruction acts for its active lanes. -/
theorem Issued.vector {s : State} {i : Iss} (h : Issued s i) (g : Guard) (lr : BitVec 3) (ops : List (Operand × Nat))
    (d : Operand) (n : Nat) (act : Mask → Core → Eff) :
    i.vector g lr ops d n act = act (i.active g) (i.lastReads lr ops (i.active g) i.begin) := by
  simp [Iss.vector, h.held]

theorem Issued.onCore {s : State} {i : Iss} (h : Issued s i) (act : Iss → Eff) : s.onCore act = s.commit i (act i) := by
  simp [State.onCore, h.iss]

theorem Issued.onIss {s : State} {i : Iss} (h : Issued s i) (act : Iss → State) : s.onIss act = act i := by
  simp [State.onIss, h.iss]

/-! Writing a scalar result. -/

@[simp] theorem Iss.onWarp_setWarp (i : Iss) (k : Core) (w : Warp) (f : Warp → Warp) :
    i.onWarp (k.setWarp i.wi w) f = k.setWarp i.wi (f w) := by
  simp [Iss.onWarp, Core.setWarp]

@[simp] theorem Core.setWarp_setWarp (k : Core) (n : Nat) (w x : Warp) : (k.setWarp n w).setWarp n x = k.setWarp n x := by
  simp [Core.setWarp, FMap.set_set]

/-- The state of a completed instruction that leaves its warp as `w` and writes no g register. -/
theorem scalarDone_warp {s : State} {i : Iss} (h : Issued s i) {wide : Bool} {d : Operand} {v : Dword} {fl : Word}
    (sv tv fv : FMap Word)
    (hd : ∀ j : Iss, j.w = { i.w with frags := FMap.set i.w.frags i.fi i.f.finish, s := sv, sTrap := tv, f := fv, sflags := fl } →
      j.f = i.f.finish → j.Holds wide d v)
    (ho : ∀ j : Iss, j.w = { i.w with frags := FMap.set i.w.frags i.fi i.f.finish, s := sv, sTrap := tv, f := fv, sflags := fl } →
      j.f = i.f.finish → j.wg = i.wg → ∀ o, apart wide d o → j.s32 o 0 = i.s32 o 0) :
    ScalarDone s i wide d v fl (s.setCore i.c (i.core.setWarp i.wi
      { i.w with frags := FMap.set i.w.frags i.fi i.f.finish, s := sv, sTrap := tv, f := fv, sflags := fl })) := by
  obtain ⟨_, _, _, h4, _, h6, _⟩ := iss_eq h.iss
  refine ⟨_, iss_setCore h.iss (f := i.f.finish) ?_ ?_, rfl, hd _ rfl rfl, rfl, ho _ rfl rfl rfl, rfl, ?_⟩
  · simp [Core.setWarp]
  · simp
  · refine onlyWarpG_setCore ?_
    rw [← h4]
    exact (CoreWG.refl _ _ _).setWarp _

theorem Iss.begin_eq (i : Iss) :
    i.begin = i.core.setWarp i.wi { i.w with frags := FMap.set i.w.frags i.fi i.f.finish } := rfl

/-- The s register a write of s registers below s61 leaves. -/
theorem putS_low (i : Iss) (l : List (Nat × Word)) (k : Core) (h : ∀ p ∈ l, p.1 < 61) :
    i.putS l k = .ok (i.onWarp k fun w => l.foldl (fun w p =>
      if i.f.trm && decide (48 ≤ p.1) && decide (p.1 ≤ 55) then { w with sTrap := FMap.set w.sTrap p.1 p.2 }
      else { w with s := FMap.set w.s p.1 p.2 }) w) := by
  have hany : l.any (fun p => decide (61 ≤ p.1)) = false := by
    simp only [List.any_eq_false, decide_eq_true_eq, Nat.not_le]
    exact h
  unfold Iss.putS
  simp only [hany, Bool.false_eq_true, if_false]
  congr 2
  funext w
  induction l generalizing w with
  | nil => rfl
  | cons p l ih =>
    have hp : ¬61 ≤ p.1 := by have := h p (by simp); omega
    simp only [List.foldl_cons, hp, if_false]
    exact ih (fun q hq => h q (by simp [hq])) (by
      simp only [List.any_cons, Bool.or_eq_false_iff] at hany; exact hany.2) _

/-- What a scalar write below s61 leaves of a warp. -/
def Warp.putSpec (f : Frag) (w : Warp) (n : Nat) (v : Word) : Warp :=
  if f.trm && decide (48 ≤ n) && decide (n ≤ 55) then { w with sTrap := FMap.set w.sTrap n v }
  else { w with s := FMap.set w.s n v }

/-- Reading an s register below s61 after one has been written. -/
theorem readS_putSpec (f f' : Frag) (w : Warp) (n m : Nat) (v : Word) (ht : f'.trm = f.trm) (hn : n < 61) :
    (Warp.putSpec f w n v).readS f' m = if n = m then v else w.readS f' m := by
  by_cases h61 : 61 ≤ m
  · have : n ≠ m := by omega
    unfold Warp.putSpec Warp.readS
    rw [if_neg this, if_pos h61, if_pos h61]
  · unfold Warp.putSpec Warp.readS
    simp only [h61, if_false, ht]
    by_cases hnm : n = m
    · subst hnm
      cases hb : (f.trm && decide (48 ≤ n) && decide (n ≤ 55)) <;> simp
    · cases hb : (f.trm && decide (48 ≤ n) && decide (n ≤ 55)) <;>
        cases hc : (f.trm && decide (48 ≤ m) && decide (m ≤ 55)) <;>
        simp only [hnm, if_false, if_true, Bool.false_eq_true, FMap.getD_set]

/-- What a scalar result leaves of the warp of an issued fragment. -/
def Iss.putSpec (i : Iss) (wide : Bool) (d : Operand) (v : Dword) (fl : Word) : Warp :=
  let w : Warp := { i.w with frags := FMap.set i.w.frags i.fi i.f.finish, sflags := fl }
  match d with
  | .s n =>
    if wide then Warp.putSpec i.f (Warp.putSpec i.f w n.toNat (v.extractLsb' 0 32)) (n.toNat + 1) (v.extractLsb' 32 32)
    else Warp.putSpec i.f w n.toNat (v.setWidth 32)
  | .f n => { w with f := FMap.set w.f n.toNat (v.setWidth 32) }
  | _ => w

/-- Reading a scalar register after it: the fields of the warp that matter. -/
theorem s32_eq {j i : Iss} (o : Operand) (hs : ∀ n, j.w.readS j.f n = i.w.readS i.f n) (hg : ∀ n, j.readG n = i.readG n)
    (hf : j.w.f = i.w.f) : j.s32 o 0 = i.s32 o 0 := by
  unfold Iss.s32
  split <;> simp [hs, hg, hf]

@[simp] theorem Warp.putSpec_frags (f : Frag) (w : Warp) (n : Nat) (v : Word) : (Warp.putSpec f w n v).frags = w.frags := by
  unfold Warp.putSpec; split <;> rfl

/-- A scalar write changes only the two banks of s registers. -/
theorem Warp.putSpec_eq (f : Frag) (w : Warp) (n : Nat) (v : Word) :
    Warp.putSpec f w n v = { w with s := (Warp.putSpec f w n v).s, sTrap := (Warp.putSpec f w n v).sTrap } := by
  unfold Warp.putSpec; split <;> rfl

/-- A completed scalar instruction whose result is no g register. -/
theorem scalarDone_s {s : State} {i : Iss} (h : Issued s i) {wide : Bool} {n : BitVec 6} (v : Dword) (fl : Word)
    (hd : scalarDst wide (.s n)) :
    ScalarDone s i wide (.s n) v fl (s.setCore i.c (i.core.setWarp i.wi (i.putSpec wide (.s n) v fl))) := by
  have hn : n.toNat < 61 := by
    unfold scalarDst at hd
    cases wide <;> simp at hd <;> omega
  have key : i.putSpec wide (.s n) v fl = { i.w with
      frags := FMap.set i.w.frags i.fi i.f.finish, s := (i.putSpec wide (.s n) v fl).s
      sTrap := (i.putSpec wide (.s n) v fl).sTrap, f := i.w.f, sflags := fl } := by
    unfold Iss.putSpec
    cases wide
    · simp only [Bool.false_eq_true, if_false]; rw [Warp.putSpec_eq]
    · simp only [if_true]
      rw [Warp.putSpec_eq, Warp.putSpec_eq i.f _ n.toNat]
  rw [key]
  refine scalarDone_warp h _ _ _ ?_ ?_
  · intro j hj hf
    have hw : j.w = i.putSpec wide (.s n) v fl := by rw [hj, ← key]
    have ht : j.f.trm = i.f.trm := by rw [hf]; rfl
    unfold Iss.Holds
    cases wide
    · simp [Iss.s32, hw, Iss.putSpec, readS_putSpec _ _ _ _ _ _ ht hn]
    · have hn2 : n.toNat + 1 < 61 := by simp [scalarDst] at hd; omega
      have e1 : j.w.readS j.f n.toNat = v.extractLsb' 0 32 := by
        rw [hw]; simp [Iss.putSpec, readS_putSpec _ _ _ _ _ _ ht hn2, readS_putSpec _ _ _ _ _ _ ht hn]
      have e2 : j.w.readS j.f (n.toNat + 1) = v.extractLsb' 32 32 := by
        rw [hw]; simp [Iss.putSpec, readS_putSpec _ _ _ _ _ _ ht hn2]
      simp only [if_true, Iss.s64, e1, e2]
      ext k hk
      simp only [BitVec.getElem_append, BitVec.getElem_extractLsb']
      by_cases hlt : k < 32
      · simp [hlt, BitVec.getLsbD_eq_getElem (show k < 64 by omega)]
      · simp [hlt, BitVec.getLsbD_eq_getElem (show k < 64 by omega), show 32 + (k - 32) = k by omega]
  · intro j hj hf hwg o ho
    have hw : j.w = i.putSpec wide (.s n) v fl := by rw [hj, ← key]
    have ht : j.f.trm = i.f.trm := by rw [hf]; rfl
    have hm : ∀ m, (if 61 ≤ m then maskWord j.f.mask (m - 61) else 0) = if 61 ≤ m then maskWord i.f.mask (m - 61) else 0 := by
      rw [hf]; intro m; rfl
    have hr : ∀ m : BitVec 6, apart wide (.s n) (.s m) → j.w.readS j.f m.toNat = i.w.readS i.f m.toNat := by
      intro m ha
      have hnm : n.toNat ≠ m.toNat := fun e => ha.1 (by rw [BitVec.eq_of_toNat_eq e])
      have h0 : ({ i.w with frags := FMap.set i.w.frags i.fi i.f.finish, sflags := fl } : Warp).readS j.f m.toNat =
          i.w.readS i.f m.toNat := by rw [hf]; rfl
      rw [hw]
      unfold Iss.putSpec
      cases wide
      · simp only [Bool.false_eq_true, if_false]
        rw [readS_putSpec _ _ _ _ _ _ ht hn, if_neg hnm, h0]
      · have hn2 : n.toNat + 1 < 61 := by simp [scalarDst] at hd; omega
        have ha2 : n.toNat + 1 ≠ m.toNat := fun e => ha.2 e.symm
        simp only [if_true]
        rw [readS_putSpec _ _ _ _ _ _ ht hn2, if_neg ha2, readS_putSpec _ _ _ _ _ _ ht hn, if_neg hnm, h0]
    have hg : ∀ m, j.readG m = i.readG m := by intro m; simp [Iss.readG, hwg]
    have hf' : j.w.f = i.w.f := by rw [hj]
    unfold Iss.s32
    split
    · rename_i m; exact hr m ho
    · exact hg _
    · rw [hf']
    · rfl
    · rfl

/-- A completed scalar instruction whose result is an f register. -/
theorem scalarDone_f {s : State} {i : Iss} (h : Issued s i) (n : BitVec 3) (v : Dword) (fl : Word) :
    ScalarDone s i false (.f n) v fl (s.setCore i.c (i.core.setWarp i.wi (i.putSpec false (.f n) v fl))) := by
  refine scalarDone_warp h i.w.s i.w.sTrap _ ?_ ?_
  · intro j hj hf; simp [Iss.Holds, Iss.s32, hj]
  · intro j hj hf hwg o ho
    unfold Iss.s32
    split
    · simp [Warp.readS, hj, hf]
    · simp [Iss.readG, hwg]
    · rename_i m
      have hnm : n.toNat ≠ m.toNat := fun e => ho.1 (by rw [BitVec.eq_of_toNat_eq e])
      simp [hj, FMap.getD_set, hnm]
    · rfl
    · rfl

/-- A completed scalar instruction without a destination. -/
theorem scalarDone_none {s : State} {i : Iss} (h : Issued s i) (wide : Bool) (v : Dword) (fl : Word) :
    ScalarDone s i wide .none v fl (s.setCore i.c (i.core.setWarp i.wi (i.putSpec wide .none v fl))) := by
  refine scalarDone_warp h i.w.s i.w.sTrap i.w.f ?_ ?_
  · intro j hj hf; trivial
  · intro j hj hf hwg o ho
    unfold Iss.s32
    split
    · simp [Warp.readS, hj, hf]
    · simp [Iss.readG, hwg]
    · simp [hj]
    · rfl
    · rfl

/-- A completed scalar instruction whose result is a g register. -/
theorem scalarDone_g {s : State} {i : Iss} (h : Issued s i) (n : BitVec 4) (v : Dword) (fl : Word) :
    ScalarDone s i false (.g n) v fl
      (s.setCore i.c (i.putG n.toNat (v.setWidth 32) (i.core.setWarp i.wi (i.putSpec false (.g n) v fl)))) := by
  obtain ⟨_, _, _, h4, _, h6, _⟩ := iss_eq h.iss
  obtain ⟨g, hg⟩ := Option.isSome_iff_exists.mp h.wg
  have hg' : FMap.get i.core.wgs i.w.wg = some g := hg
  refine ⟨_, iss_setCore h.iss (w := i.putSpec false (.g n) v fl) (f := i.f.finish) ?_ ?_, rfl, ?_, rfl, ?_, rfl, ?_⟩
  · simp [Iss.putG, Core.modWg, Core.setWarp]
  · simp [Iss.putSpec]
  · simp [Iss.Holds, Iss.s32, Iss.readG, Iss.wg, Iss.putG, Core.modWg, FMap.get_modify, Core.setWarp, Iss.putSpec, hg']
  · intro o ho
    unfold Iss.s32
    split
    · simp [Warp.readS, Iss.putSpec]
    · rename_i m
      have hnm : n.toNat ≠ m.toNat := fun e => ho.1 (by rw [BitVec.eq_of_toNat_eq e])
      simp [Iss.readG, Iss.wg, Iss.putG, Core.modWg, FMap.get_modify, Core.setWarp, Iss.putSpec, hg', FMap.getD_set, hnm]
    · simp [Iss.putSpec]
    · rfl
    · rfl
  · refine onlyWarpG_setCore ?_
    rw [← h4]
    exact CoreWG.putG i ((CoreWG.refl _ _ _).setWarp _) _ _

/-- What an instruction that writes a scalar result and the flags does, whatever the destination (08 R258, R265). -/
theorem Issued.putScalar {s : State} {i : Iss} (h : Issued s i) {wide : Bool} {d : Operand} (v : Dword) (fl : Word)
    (hd : scalarDst wide d) :
    ∃ k, i.putScalar wide d v (i.core.setWarp i.wi { i.w with frags := FMap.set i.w.frags i.fi i.f.finish, sflags := fl }) =
      .ok k ∧ ScalarDone s i wide d v fl (s.setCore i.c k) := by
  cases d with
  | s n =>
    have hn : n.toNat < 61 := by
      unfold scalarDst at hd
      cases wide <;> simp at hd <;> omega
    refine ⟨_, ?_, scalarDone_s h v fl hd⟩
    cases wide
    · simp only [Iss.putScalar, Bool.false_eq_true, if_false, Iss.put32]
      rw [putS_low _ _ _ (by simpa using hn)]
      simp [Iss.putSpec, Warp.putSpec]
    · have hn2 : n.toNat + 1 < 61 := by simp [scalarDst] at hd; omega
      simp only [Iss.putScalar, if_true, Iss.put64]
      rw [putS_low _ _ _ (by simp; omega)]
      simp [Iss.putSpec, Warp.putSpec]
  | g n =>
    have hw : wide = false := hd
    subst hw
    exact ⟨_, rfl, scalarDone_g h n v fl⟩
  | f n =>
    have hw : wide = false := hd
    subst hw
    refine ⟨_, ?_, scalarDone_f h n v fl⟩
    simp [Iss.putScalar, Iss.put32, Iss.putSpec]
  | none =>
    refine ⟨_, ?_, scalarDone_none h wide v fl⟩
    cases wide <;> rfl
  | v n => exact hd.elim
  | k n => exact hd.elim
  | reserved n => exact hd.elim
  | imm => exact hd.elim

end Sys2Proof.Machine
end

