-- ==== Sys2Proof/Laws/PerInstr.lean ====
section
/-!
SUPPORT. One statement for every instruction: an instruction of an encoding, taken apart into its mnemonic and fields, is the
instruction that those stand for, and its fields are of its mnemonic's format (07 R235 to R247).
-/
namespace Sys2Proof.Laws.FormRoundTrip

/-- Fields are of a format. -/
def fits : Fmt → Form → Prop
  | .r, .r _ | .i, .i _ | .m, .m _ | .b, .b _ | .x, .x _ => True
  | _, _ => False

/-- Taken apart and put together again, an instruction is itself. -/
def Statement (i : Instr) : Prop :=
  ∀ op form, i.parts = some (op, form) → i.formOk = true → Instr.ofParts op form = some i ∧ fits op.fmt form

theorem of_parts {i : Instr} {op : Op} {form : Form} (h : i.parts = some (op, form))
    (e : i.formOk = true → Instr.ofParts op form = some i) (f : fits op.fmt form) : Statement i := by
  intro op' form' h' hf
  rw [h] at h'
  cases h'
  exact ⟨e hf, f⟩

theorem of_event {i : Instr} (h : i.parts = none) : Statement i := by
  intro op form h'
  rw [h] at h'
  cases h'

theorem first {c : Bool} {x y z : Option Instr} (h : c = true) (e : x = z) : (if c = true then x else y) = z := by
  rw [if_pos h]; exact e

theorem later {c : Bool} {x y z : Option Instr} (h : ¬c = true) (e : y = z) : (if c = true then x else y) = z := by
  rw [if_neg h]; exact e

theorem differ {x a b : BitVec 2} (h : (x == a) = true) (n : a ≠ b) : ¬(x == b) = true :=
  fun h' => n ((eq_of_beq h).symm.trans (eq_of_beq h'))

theorem not_of {b : Bool} (h : b = true) : ¬(!b) = true := by simp [h]

theorem of_not {b : Bool} (h : (!b) = true) : ¬b = true := by simpa using h

theorem sadd (f : RForm) : Statement (.sadd f) := of_parts rfl (fun _ => rfl) trivial
theorem ssub (f : RForm) : Statement (.ssub f) := of_parts rfl (fun _ => rfl) trivial
theorem smul (f : RForm) : Statement (.smul f) := of_parts rfl (fun _ => rfl) trivial
theorem smulh (f : RForm) : Statement (.smulh f) := of_parts rfl (fun _ => rfl) trivial
theorem smad (f : RForm) : Statement (.smad f) := of_parts rfl (fun _ => rfl) trivial
theorem sdiv (f : RForm) : Statement (.sdiv f) := of_parts rfl (fun _ => rfl) trivial
theorem srem (f : RForm) : Statement (.srem f) := of_parts rfl (fun _ => rfl) trivial
theorem smin (f : RForm) : Statement (.smin f) := of_parts rfl (fun _ => rfl) trivial
theorem smax (f : RForm) : Statement (.smax f) := of_parts rfl (fun _ => rfl) trivial
theorem sand (f : RForm) : Statement (.sand f) := of_parts rfl (fun _ => rfl) trivial
theorem sor (f : RForm) : Statement (.sor f) := of_parts rfl (fun _ => rfl) trivial
theorem sxor (f : RForm) : Statement (.sxor f) := of_parts rfl (fun _ => rfl) trivial
theorem sshl (f : RForm) : Statement (.sshl f) := of_parts rfl (fun _ => rfl) trivial
theorem sshr (f : RForm) : Statement (.sshr f) := of_parts rfl (fun _ => rfl) trivial
theorem ssra (f : RForm) : Statement (.ssra f) := of_parts rfl (fun _ => rfl) trivial
theorem sbfx (f : RForm) : Statement (.sbfx f) := of_parts rfl (fun _ => rfl) trivial
theorem sbfi (f : RForm) : Statement (.sbfi f) := of_parts rfl (fun _ => rfl) trivial
theorem sclz (f : RForm) : Statement (.sclz f) := of_parts rfl (fun _ => rfl) trivial
theorem spop (f : RForm) : Statement (.spop f) := of_parts rfl (fun _ => rfl) trivial
theorem scmp (f : RForm) : Statement (.scmp f) := of_parts rfl (fun _ => rfl) trivial
theorem ssel (f : RForm) : Statement (.ssel f) := of_parts rfl (fun _ => rfl) trivial
theorem smov (f : RForm) : Statement (.smov f) := of_parts rfl (fun _ => rfl) trivial
theorem sli (f : IForm) : Statement (.sli f) := of_parts rfl (fun _ => rfl) trivial
theorem slea (f : RForm) : Statement (.slea f) := of_parts rfl (fun _ => rfl) trivial
theorem vadd (f : RForm) : Statement (.vadd f) := of_parts rfl (fun _ => rfl) trivial
theorem vsub (f : RForm) : Statement (.vsub f) := of_parts rfl (fun _ => rfl) trivial
theorem vmul (f : RForm) : Statement (.vmul f) := of_parts rfl (fun _ => rfl) trivial
theorem vmulh (f : RForm) : Statement (.vmulh f) := of_parts rfl (fun _ => rfl) trivial
theorem vmad (f : RForm) : Statement (.vmad f) := of_parts rfl (fun _ => rfl) trivial
theorem vabs (f : RForm) : Statement (.vabs f) := of_parts rfl (fun _ => rfl) trivial
theorem vneg (f : RForm) : Statement (.vneg f) := of_parts rfl (fun _ => rfl) trivial
theorem vmin (f : RForm) : Statement (.vmin f) := of_parts rfl (fun _ => rfl) trivial
theorem vmax (f : RForm) : Statement (.vmax f) := of_parts rfl (fun _ => rfl) trivial
theorem vand (f : RForm) : Statement (.vand f) := of_parts rfl (fun _ => rfl) trivial
theorem vor (f : RForm) : Statement (.vor f) := of_parts rfl (fun _ => rfl) trivial
theorem vxor (f : RForm) : Statement (.vxor f) := of_parts rfl (fun _ => rfl) trivial
theorem vnot (f : RForm) : Statement (.vnot f) := of_parts rfl (fun _ => rfl) trivial
theorem vshl (f : RForm) : Statement (.vshl f) := of_parts rfl (fun _ => rfl) trivial
theorem vshr (f : RForm) : Statement (.vshr f) := of_parts rfl (fun _ => rfl) trivial
theorem vsra (f : RForm) : Statement (.vsra f) := of_parts rfl (fun _ => rfl) trivial
theorem vrot (f : RForm) : Statement (.vrot f) := of_parts rfl (fun _ => rfl) trivial
theorem vbfx (f : RForm) : Statement (.vbfx f) := of_parts rfl (fun _ => rfl) trivial
theorem vbfi (f : RForm) : Statement (.vbfi f) := of_parts rfl (fun _ => rfl) trivial
theorem vclz (f : RForm) : Statement (.vclz f) := of_parts rfl (fun _ => rfl) trivial
theorem vpop (f : RForm) : Statement (.vpop f) := of_parts rfl (fun _ => rfl) trivial
theorem vbrev (f : RForm) : Statement (.vbrev f) := of_parts rfl (fun _ => rfl) trivial
theorem vcmp (f : RForm) : Statement (.vcmp f) := of_parts rfl (fun _ => rfl) trivial
theorem vsel (f : RForm) : Statement (.vsel f) := of_parts rfl (fun _ => rfl) trivial
theorem vmov (f : RForm) : Statement (.vmov f) := of_parts rfl (fun _ => rfl) trivial
theorem vli (f : IForm) : Statement (.vli f) := of_parts rfl (fun _ => rfl) trivial
theorem vdot4 (f : RForm) : Statement (.vdot4 f) := of_parts rfl (fun _ => rfl) trivial
theorem vlea (f : RForm) : Statement (.vlea f) := of_parts rfl (fun _ => rfl) trivial
theorem vlane (f : RForm) : Statement (.vlane f) := of_parts rfl (fun _ => rfl) trivial
theorem fadd (f : RForm) : Statement (.fadd f) := of_parts rfl (fun _ => rfl) trivial
theorem fsub (f : RForm) : Statement (.fsub f) := of_parts rfl (fun _ => rfl) trivial
theorem fmul (f : RForm) : Statement (.fmul f) := of_parts rfl (fun _ => rfl) trivial
theorem ffma (f : RForm) : Statement (.ffma f) := of_parts rfl (fun _ => rfl) trivial
theorem fmin (f : RForm) : Statement (.fmin f) := of_parts rfl (fun _ => rfl) trivial
theorem fmax (f : RForm) : Statement (.fmax f) := of_parts rfl (fun _ => rfl) trivial
theorem fcmp (f : RForm) : Statement (.fcmp f) := of_parts rfl (fun _ => rfl) trivial
theorem fclass (f : RForm) : Statement (.fclass f) := of_parts rfl (fun _ => rfl) trivial
theorem frcp (f : RForm) : Statement (.frcp f) := of_parts rfl (fun _ => rfl) trivial
theorem frsq (f : RForm) : Statement (.frsq f) := of_parts rfl (fun _ => rfl) trivial
theorem fsqrt (f : RForm) : Statement (.fsqrt f) := of_parts rfl (fun _ => rfl) trivial
theorem fexp2 (f : RForm) : Statement (.fexp2 f) := of_parts rfl (fun _ => rfl) trivial
theorem flog2 (f : RForm) : Statement (.flog2 f) := of_parts rfl (fun _ => rfl) trivial
theorem fsin (f : RForm) : Statement (.fsin f) := of_parts rfl (fun _ => rfl) trivial
theorem fcos (f : RForm) : Statement (.fcos f) := of_parts rfl (fun _ => rfl) trivial
theorem ftanh (f : RForm) : Statement (.ftanh f) := of_parts rfl (fun _ => rfl) trivial
theorem frnd (f : RForm) : Statement (.frnd f) := of_parts rfl (fun _ => rfl) trivial
theorem fcvt (f : RForm) : Statement (.fcvt f) := of_parts rfl (fun _ => rfl) trivial
theorem fscale (f : RForm) : Statement (.fscale f) := of_parts rfl (fun _ => rfl) trivial
theorem fxpk (f : RForm) : Statement (.fxpk f) := of_parts rfl (fun _ => rfl) trivial
theorem fxup (f : RForm) : Statement (.fxup f) := of_parts rfl (fun _ => rfl) trivial
theorem fdiv (f : RForm) : Statement (.fdiv f) := of_parts rfl (fun _ => rfl) trivial
theorem ld (f : MForm) : Statement (.ld f) := of_parts rfl (fun _ => rfl) trivial
theorem st (f : MForm) : Statement (.st f) := of_parts rfl (fun _ => rfl) trivial
theorem lds (f : MForm) : Statement (.lds f) := of_parts rfl (fun _ => rfl) trivial
theorem sts (f : MForm) : Statement (.sts f) := of_parts rfl (fun _ => rfl) trivial
theorem atom (f : MForm) : Statement (.atom f) := of_parts rfl (fun _ => rfl) trivial
theorem ldlk (f : MForm) : Statement (.ldlk f) := of_parts rfl (fun _ => rfl) trivial
theorem stul (f : MForm) : Statement (.stul f) := of_parts rfl (fun _ => rfl) trivial
theorem fenceAcq (f : RForm) : Statement (.fenceAcq f) := of_parts rfl (fun h => first h rfl) trivial
theorem fenceRel (f : RForm) : Statement (.fenceRel f) := of_parts rfl (fun h => later (differ h (by decide)) (first h rfl)) trivial
theorem fenceSc (f : RForm) : Statement (.fenceSc f) := of_parts rfl (fun h => later (differ h (by decide)) (later (differ h (by decide)) (first h rfl))) trivial
theorem pfm (f : MForm) : Statement (.pfm f) := of_parts rfl (fun _ => rfl) trivial
theorem cvta (f : RForm) : Statement (.cvta f) := of_parts rfl (fun _ => rfl) trivial
theorem falloc (f : IForm) : Statement (.falloc f) := of_parts rfl (fun h => first h rfl) trivial
theorem fallocC (f : IForm) : Statement (.fallocC f) := of_parts rfl (fun h => later (not_of h) (first h rfl)) trivial
theorem fopen (f : RForm) : Statement (.fopen f) := of_parts rfl (fun _ => rfl) trivial
theorem ffree (f : RForm) : Statement (.ffree f) := of_parts rfl (fun _ => rfl) trivial
theorem fbind (f : RForm) : Statement (.fbind f) := of_parts rfl (fun h => first h rfl) trivial
theorem fbindB (f : RForm) : Statement (.fbindB f) := of_parts rfl (fun h => later (not_of h) (first h rfl)) trivial
theorem fdone (f : RForm) : Statement (.fdone f) := of_parts rfl (fun _ => rfl) trivial
theorem frwaitSt (f : RForm) : Statement (.frwaitSt f) := of_parts rfl (fun h => first h rfl) trivial
theorem frwaitW (f : RForm) : Statement (.frwaitW f) := of_parts rfl (fun h => later (differ h (by decide)) (first h rfl)) trivial
theorem frwaitCap (f : RForm) : Statement (.frwaitCap f) := of_parts rfl (fun h => later (differ h (by decide)) (later (differ h (by decide)) (first h rfl))) trivial
theorem fdrop (f : RForm) : Statement (.fdrop f) := of_parts rfl (fun _ => rfl) trivial
theorem fquery (f : RForm) : Statement (.fquery f) := of_parts rfl (fun _ => rfl) trivial
theorem nop (f : RForm) : Statement (.nop f) := of_parts rfl (fun _ => rfl) trivial
theorem bra (f : BForm) : Statement (.bra f) := of_parts rfl (fun _ => rfl) trivial
theorem brs (f : BForm) : Statement (.brs f) := of_parts rfl (fun _ => rfl) trivial
theorem jmp (f : RForm) : Statement (.jmp f) := of_parts rfl (fun _ => rfl) trivial
theorem call (f : BForm) : Statement (.call f) := of_parts rfl (fun _ => rfl) trivial
theorem ret (f : RForm) : Statement (.ret f) := of_parts rfl (fun _ => rfl) trivial
theorem exit (f : RForm) : Statement (.exit f) := of_parts rfl (fun _ => rfl) trivial
theorem bar (f : RForm) : Statement (.bar f) := of_parts rfl (fun _ => rfl) trivial
theorem barr (f : RForm) : Statement (.barr f) := of_parts rfl (fun _ => rfl) trivial
theorem barw (f : RForm) : Statement (.barw f) := of_parts rfl (fun _ => rfl) trivial
theorem wcnt (f : RForm) : Statement (.wcnt f) := of_parts rfl (fun _ => rfl) trivial
theorem sleep (f : RForm) : Statement (.sleep f) := of_parts rfl (fun _ => rfl) trivial
theorem yield (f : RForm) : Statement (.yield f) := of_parts rfl (fun _ => rfl) trivial
theorem pfi (f : BForm) : Statement (.pfi f) := of_parts rfl (fun _ => rfl) trivial
theorem trap (f : RForm) : Statement (.trap f) := of_parts rfl (fun _ => rfl) trivial
theorem brk (f : RForm) : Statement (.brk f) := of_parts rfl (fun _ => rfl) trivial
theorem brx (f : RForm) : Statement (.brx f) := of_parts rfl (fun _ => rfl) trivial
theorem shfl (f : RForm) : Statement (.shfl f) := of_parts rfl (fun _ => rfl) trivial
theorem vote (f : RForm) : Statement (.vote f) := of_parts rfl (fun _ => rfl) trivial
theorem bal (f : RForm) : Statement (.bal f) := of_parts rfl (fun _ => rfl) trivial
theorem redux (f : RForm) : Statement (.redux f) := of_parts rfl (fun _ => rfl) trivial
theorem scan (f : RForm) : Statement (.scan f) := of_parts rfl (fun _ => rfl) trivial
theorem bcast (f : RForm) : Statement (.bcast f) := of_parts rfl (fun _ => rfl) trivial
theorem perm (f : RForm) : Statement (.perm f) := of_parts rfl (fun _ => rfl) trivial
theorem kand (f : RForm) : Statement (.kand f) := of_parts rfl (fun _ => rfl) trivial
theorem kor (f : RForm) : Statement (.kor f) := of_parts rfl (fun _ => rfl) trivial
theorem kxor (f : RForm) : Statement (.kxor f) := of_parts rfl (fun _ => rfl) trivial
theorem knot (f : RForm) : Statement (.knot f) := of_parts rfl (fun _ => rfl) trivial
theorem kmov (f : RForm) : Statement (.kmov f) := of_parts rfl (fun _ => rfl) trivial
theorem kpop (f : RForm) : Statement (.kpop f) := of_parts rfl (fun _ => rfl) trivial
theorem kfst (f : RForm) : Statement (.kfst f) := of_parts rfl (fun _ => rfl) trivial
theorem kfrom (f : RForm) : Statement (.kfrom f) := of_parts rfl (fun _ => rfl) trivial
theorem kto (f : RForm) : Statement (.kto f) := of_parts rfl (fun _ => rfl) trivial
theorem mmac (f : XForm) : Statement (.mmac f) := of_parts rfl (fun _ => rfl) trivial
theorem mclr (f : XForm) : Statement (.mclr f) := of_parts rfl (fun _ => rfl) trivial
theorem mld (f : XForm) : Statement (.mld f) := of_parts rfl (fun _ => rfl) trivial
theorem mst (f : XForm) : Statement (.mst f) := of_parts rfl (fun _ => rfl) trivial
theorem mxv (f : XForm) : Statement (.mxv f) := of_parts rfl (fun _ => rfl) trivial
theorem mvx (f : XForm) : Statement (.mvx f) := of_parts rfl (fun _ => rfl) trivial
theorem qmk (f : XForm) : Statement (.qmk f) := of_parts rfl (fun h => first h rfl) trivial
theorem qmkM (f : XForm) : Statement (.qmkM f) := of_parts rfl (fun h => later (not_of h) (first h rfl)) trivial
theorem qinv (f : XForm) : Statement (.qinv f) := of_parts rfl (fun _ => rfl) trivial
theorem cpy (f : XForm) : Statement (.cpy f) := of_parts rfl (fun h => first h rfl) trivial
theorem cpyRa (f : XForm) : Statement (.cpyRa f) := of_parts rfl (fun h => later (not_of h) (first h rfl)) trivial
theorem cpyg (f : XForm) : Statement (.cpyg f) := of_parts rfl (fun _ => rfl) trivial
theorem grinit (f : XForm) : Statement (.grinit f) := of_parts rfl (fun h => first h rfl) trivial
theorem grinitRe (f : XForm) : Statement (.grinitRe f) := of_parts rfl (fun h => later (not_of h) (first h rfl)) trivial
theorem grget (f : XForm) : Statement (.grget f) := of_parts rfl (fun _ => rfl) trivial
theorem grputRes (f : XForm) : Statement (.grputRes f) := of_parts rfl (fun h => first h rfl) trivial
theorem grput (f : XForm) : Statement (.grput f) := of_parts rfl (fun h => later (of_not h) (first h rfl)) trivial
theorem grrel (f : XForm) : Statement (.grrel f) := of_parts rfl (fun _ => rfl) trivial
theorem stch (f : XForm) : Statement (.stch f) := of_parts rfl (fun _ => rfl) trivial
theorem lnch (f : XForm) : Statement (.lnch f) := of_parts rfl (fun _ => rfl) trivial
theorem cnclLaunch (f : XForm) : Statement (.cnclLaunch f) := of_parts rfl (fun h => first h rfl) trivial
theorem cnclGraph (f : XForm) : Statement (.cnclGraph f) := of_parts rfl (fun h => later (differ h (by decide)) (first h rfl)) trivial
theorem cnclJob (f : XForm) : Statement (.cnclJob f) := of_parts rfl (fun h => later (differ h (by decide)) (later (differ h (by decide)) (first h rfl))) trivial
theorem pwrh (f : XForm) : Statement (.pwrh f) := of_parts rfl (fun _ => rfl) trivial
theorem rds (f : RForm) : Statement (.rds f) := of_parts rfl (fun _ => rfl) trivial
theorem wrs (f : RForm) : Statement (.wrs f) := of_parts rfl (fun _ => rfl) trivial
theorem tret (f : RForm) : Statement (.tret f) := of_parts rfl (fun _ => rfl) trivial
theorem cinv (f : MForm) : Statement (.cinv f) := of_parts rfl (fun _ => rfl) trivial
theorem cflush (f : MForm) : Statement (.cflush f) := of_parts rfl (fun _ => rfl) trivial
theorem tlbinvAddr (f : RForm) : Statement (.tlbinvAddr f) := of_parts rfl (fun h => first h rfl) trivial
theorem tlbinvCtx (f : RForm) : Statement (.tlbinvCtx f) := of_parts rfl (fun h => later (differ h (by decide)) (first h rfl)) trivial
theorem tlbinvRng (f : RForm) : Statement (.tlbinvRng f) := of_parts rfl (fun h => later (differ h (by decide)) (later (differ h (by decide)) (first h rfl))) trivial
theorem ctxsv (f : RForm) : Statement (.ctxsv f) := of_parts rfl (fun _ => rfl) trivial
theorem ctxld (f : RForm) : Statement (.ctxld f) := of_parts rfl (fun _ => rfl) trivial
theorem capset (f : RForm) : Statement (.capset f) := of_parts rfl (fun _ => rfl) trivial
theorem blst (f : RForm) : Statement (.blst f) := of_parts rfl (fun _ => rfl) trivial
theorem halt (f : RForm) : Statement (.halt f) := of_parts rfl (fun _ => rfl) trivial
theorem kernelPacket (part queue : Nat) : Statement (.kernelPacket part queue) := of_event rfl
theorem copyPacket (part queue : Nat) : Statement (.copyPacket part queue) := of_event rfl
theorem graphPacket (part queue : Nat) : Statement (.graphPacket part queue) := of_event rfl
theorem definePacket (part queue : Nat) : Statement (.definePacket part queue) := of_event rfl
theorem jobendPacket (part queue : Nat) : Statement (.jobendPacket part queue) := of_event rfl
theorem workgroupDispatch (part launch die : Nat) : Statement (.workgroupDispatch part launch die) := of_event rfl
theorem launchCompletion (part launch : Nat) : Statement (.launchCompletion part launch) := of_event rfl
theorem jobCompletion (part job : Nat) : Statement (.jobCompletion part job) := of_event rfl
theorem nodeKernelStart (part run node : Nat) : Statement (.nodeKernelStart part run node) := of_event rfl
theorem nodeCond (part run node : Nat) : Statement (.nodeCond part run node) := of_event rfl
theorem nodeWhile (part run node : Nat) : Statement (.nodeWhile part run node) := of_event rfl
theorem whilePassEnd (part run node : Nat) : Statement (.whilePassEnd part run node) := of_event rfl
theorem nodeJoin (part run node : Nat) : Statement (.nodeJoin part run node) := of_event rfl
theorem nodeSignal (part run node : Nat) : Statement (.nodeSignal part run node) := of_event rfl
theorem rdReadRequest (p : Packet) : Statement (.rdReadRequest p) := of_event rfl
theorem wrWrite (p : Packet) : Statement (.wrWrite p) := of_event rfl
theorem atAtomic (p : Packet) : Statement (.atAtomic p) := of_event rfl
theorem fenFenceProbe (p : Packet) : Statement (.fenFenceProbe p) := of_event rfl
theorem barBarrierMessage (p : Packet) : Statement (.barBarrierMessage p) := of_event rfl
theorem fltFaultReport (p : Packet) : Statement (.fltFaultReport p) := of_event rfl
theorem intInterrupt (p : Packet) : Statement (.intInterrupt p) := of_event rfl
theorem rdxReadData (p : Packet) : Statement (.rdxReadData p) := of_event rfl
theorem ackAcknowledgement (p : Packet) : Statement (.ackAcknowledgement p) := of_event rfl
theorem atrAtomicResult (p : Packet) : Statement (.atrAtomicResult p) := of_event rfl
theorem cerEngineRead (core : EngineOf) (op word : Nat) : Statement (.cerEngineRead core op word) := of_event rfl
theorem cewEngineWrite (core : EngineOf) (op word : Nat) : Statement (.cewEngineWrite core op word) := of_event rfl
theorem ctlContextTransfer (p : Packet) : Statement (.ctlContextTransfer p) := of_event rfl
theorem abortFlit (p : Packet) : Statement (.abortFlit p) := of_event rfl
theorem flitCrcFailure (link : Nat) : Statement (.flitCrcFailure link) := of_event rfl
theorem linkFailure (link : Nat) : Statement (.linkFailure link) := of_event rfl
theorem linkRetrainComplete (link : Nat) (ok : Bool) : Statement (.linkRetrainComplete link ok) := of_event rfl
theorem headerParityError (die : Nat) (inH0 : Bool) (p : Packet) : Statement (.headerParityError die inH0 p) := of_event rfl
theorem payloadError (p : Packet) : Statement (.payloadError p) := of_event rfl
theorem walkComplete (die walk : Nat) : Statement (.walkComplete die walk) := of_event rfl
theorem faultRecordWrite (queue : Nat) : Statement (.faultRecordWrite queue) := of_event rfl
theorem copyCompletion (core op : Nat) : Statement (.copyCompletion core op) := of_event rfl
theorem stitchCompletion (core op : Nat) : Statement (.stitchCompletion core op) := of_event rfl
theorem remoteCompletion (core op : Nat) (reply : RemoteReply) : Statement (.remoteCompletion core op reply) := of_event rfl
theorem gatheringReserve (core record : Nat) : Statement (.gatheringReserve core record) := of_event rfl
theorem mmacComplete (core : Nat) : Statement (.mmacComplete core) := of_event rfl
theorem speculationResolution (core warp record : Nat) : Statement (.speculationResolution core warp record) := of_event rfl
theorem quantumTimeout (core warp : Nat) : Statement (.quantumTimeout core warp) := of_event rfl
theorem lockRetry (core warp fragment : Nat) : Statement (.lockRetry core warp fragment) := of_event rfl
theorem lockTimeout (core bank index : Nat) : Statement (.lockTimeout core bank index) := of_event rfl
theorem watchdog (part launch : Nat) : Statement (.watchdog part launch) := of_event rfl
theorem splitfullDetection (core warp : Nat) : Statement (.splitfullDetection core warp) := of_event rfl
theorem issueAgeExpiry (core slot : Nat) : Statement (.issueAgeExpiry core slot) := of_event rfl
theorem waitTimeout (core warp fragment : Nat) : Statement (.waitTimeout core warp fragment) := of_event rfl
theorem sleepExpiry (core warp fragment : Nat) : Statement (.sleepExpiry core warp fragment) := of_event rfl
theorem timeSliceEnd (part ctx : Nat) : Statement (.timeSliceEnd part ctx) := of_event rfl
theorem forcedSaveTimeout (core wg : Nat) : Statement (.forcedSaveTimeout core wg) := of_event rfl
theorem workgroupSave (core wg : Nat) : Statement (.workgroupSave core wg) := of_event rfl
theorem workgroupRestore (index core : Nat) : Statement (.workgroupRestore index core) := of_event rfl
theorem moveStart (cluster : Nat) : Statement (.moveStart cluster) := of_event rfl
theorem bankClosePoint (core : Nat) : Statement (.bankClosePoint core) := of_event rfl
theorem banksDark (cluster : Nat) : Statement (.banksDark cluster) := of_event rfl
theorem relockComplete (cluster : Nat) : Statement (.relockComplete cluster) := of_event rfl
theorem voltageMoveComplete (cluster : Nat) : Statement (.voltageMoveComplete cluster) := of_event rfl
theorem powerControllerPeriod (watts : BitVec 12) (targets : List ControllerTarget) : Statement (.powerControllerPeriod watts targets) := of_event rfl
theorem temperatureTreeReading (readings : List Reading) : Statement (.temperatureTreeReading readings) := of_event rfl
theorem emergencyDarkening (cluster : Nat) : Statement (.emergencyDarkening cluster) := of_event rfl
theorem sewnEmergency (cluster : Nat) : Statement (.sewnEmergency cluster) := of_event rfl
theorem emergencyHoldRelease (cluster : Nat) : Statement (.emergencyHoldRelease cluster) := of_event rfl
theorem byteBudgetInterval (cluster : Nat) : Statement (.byteBudgetInterval cluster) := of_event rfl
theorem governorWindow (core : Nat) : Statement (.governorWindow core) := of_event rfl
theorem subarrayGate (core sub : Nat) : Statement (.subarrayGate core sub) := of_event rfl
theorem wakeSlotOpen (core : Nat) : Statement (.wakeSlotOpen core) := of_event rfl
theorem ballastLimitExpiry : Statement .ballastLimitExpiry := of_event rfl
theorem telemetryRecord (die : Nat) (milliwatts microjoules : Nat) (predicted : BitVec 16) : Statement (.telemetryRecord die milliwatts microjoules predicted) := of_event rfl
theorem illegalOpcode (opcode : BitVec 10) : Statement (.illegalOpcode opcode) := of_event rfl
theorem subarrayAwake (core : Nat) : Statement (.subarrayAwake core) := of_event rfl
theorem capsetRelightComplete (cluster : Nat) : Statement (.capsetRelightComplete cluster) := of_event rfl
theorem packageReset : Statement .packageReset := of_event rfl
theorem partitionReset (part : Nat) : Statement (.partitionReset part) := of_event rfl
theorem functionLevelReset (part : Nat) : Statement (.functionLevelReset part) := of_event rfl
theorem ctxcmdCreate (part : Nat) : Statement (.ctxcmdCreate part) := of_event rfl
theorem ctxcmdDestroy (part : Nat) : Statement (.ctxcmdDestroy part) := of_event rfl
theorem ctxcmdResume (part : Nat) : Statement (.ctxcmdResume part) := of_event rfl
theorem tlbcmdAddr (part ctx : Nat) : Statement (.tlbcmdAddr part ctx) := of_event rfl
theorem tlbcmdCtx (part ctx : Nat) : Statement (.tlbcmdCtx part ctx) := of_event rfl
theorem tlbcmdRng (part ctx : Nat) : Statement (.tlbcmdRng part ctx) := of_event rfl
theorem s2cmdPage (part : Nat) : Statement (.s2cmdPage part) := of_event rfl
theorem s2cmdPartition (part : Nat) : Statement (.s2cmdPartition part) := of_event rfl
theorem s2cmdRange (part : Nat) : Statement (.s2cmdRange part) := of_event rfl
theorem fqreplyRetry (queue : Nat) (fid : BitVec 16) : Statement (.fqreplyRetry queue fid) := of_event rfl
theorem fqreplyFatal (queue : Nat) (fid : BitVec 16) : Statement (.fqreplyFatal queue fid) := of_event rfl
theorem fqconsWrite (queue : Nat) (value : BitVec 17) : Statement (.fqconsWrite queue value) := of_event rfl
theorem precmd (part : Nat) (value : BitVec 32) : Statement (.precmd part value) := of_event rfl
theorem plrel (part : Nat) (value : BitVec 64) : Statement (.plrel part value) := of_event rfl
theorem pmove (value : BitVec 32) : Statement (.pmove value) := of_event rfl
theorem pmapWrite (part n : Nat) (value : BitVec 8) : Statement (.pmapWrite part n value) := of_event rfl
theorem pcfgWrite (part : Nat) (value : BitVec 32) : Statement (.pcfgWrite part value) := of_event rfl
theorem vfmboxWrite (cluster : Nat) (value : BitVec 32) : Statement (.vfmboxWrite cluster value) := of_event rfl
theorem fwload : Statement .fwload := of_event rfl
theorem attgo : Statement .attgo := of_event rfl
theorem fstateWrite (fn : Nat) (value : BitVec 32) : Statement (.fstateWrite fn value) := of_event rfl
theorem featackWrite (part : Nat) (value : BitVec 64) : Statement (.featackWrite part value) := of_event rfl
theorem aqiSubmission (part aqi : Nat) (pasid : Option (BitVec 20)) (whole : Bool) (packet : List (BitVec 64)) : Statement (.aqiSubmission part aqi pasid whole packet) := of_event rfl
theorem registerWrite (fn offset : Nat) (wide : Bool) (value : BitVec 64) : Statement (.registerWrite fn offset wide value) := of_event rfl
theorem rsRegisterRead (fn offset : Nat) : Statement (.rsRegisterRead fn offset) := of_event rfl
theorem hostBarAccess (part module ipa len : Nat) (write : Option (List (BitVec 8))) : Statement (.hostBarAccess part module ipa len write) := of_event rfl
theorem ucieModuleFailure (module : Nat) : Statement (.ucieModuleFailure module) := of_event rfl

end Sys2Proof.Laws.FormRoundTrip
end

