-- ==== Sys2Proof/Laws/Vector.lean ====
section
/-!
SUPPORT. What a vector instruction leaves: the marks of its last reads, and the lanes of its result.
-/
namespace Sys2Proof

theorem Lanes.at_lanesFrom (f : Nat → Word) {l : Nat} (h : l < 96) : (lanesFrom f).at l = f l := by
  simp [lanesFrom, Lanes.at, h]

theorem Lanes.at_merge (m : Mask) (a b : Lanes) {l : Nat} (h : l < 96) :
    (Lanes.merge m a b).at l = if m.getLsbD l then a.at l else b.at l := by
  simp [Lanes.merge, Lanes.at_lanesFrom _ h]

theorem Lanes.at_splat (x : Word) {l : Nat} (h : l < 96) : (Lanes.splat x).at l = x := by
  simp [Lanes.splat, Lanes.at_lanesFrom _ h]

/-- The lanes of a mask given by a predicate. -/
theorem getLsbD_maskOf (p : Nat → Bool) (l : Nat) : (maskOf p).getLsbD l = (decide (l < 96) && p l) := by
  have key : ∀ n, ((List.range n).foldl (fun m i => if p i then m ||| (1 <<< i) else m) 0).testBit l =
      (decide (l < n) && p l) := by
    intro n
    induction n with
    | zero => simp
    | succ n ih =>
      rw [List.range_succ, List.foldl_append]
      simp only [List.foldl_cons, List.foldl_nil]
      by_cases hl : l = n
      · subst hl
        cases hp : p l <;> simp_all [Nat.testBit_or, Nat.testBit_shiftLeft, Nat.testBit_zero]
      · have e : decide (l < n + 1) = decide (l < n) := by simp; omega
        rw [e, ← ih]
        split
        · rw [Nat.testBit_or]
          have : (1 <<< n).testBit l = false := by
            rw [Nat.one_shiftLeft, Nat.testBit_two_pow]; simp; omega
          simp [this]
        · rfl
  unfold maskOf
  rw [BitVec.getLsbD_ofNat, key]
  by_cases h : l < 96 <;> simp [h]

theorem mem_lanesOf {m : Mask} {l : Nat} : l ∈ lanesOf m ↔ l < 96 ∧ m.getLsbD l = true := by
  simp [lanesOf]

/-- A mask meets the lanes of a predicate where some lane of it passes. -/
theorem and_maskOf_eq_zero (m : Mask) (p : Nat → Bool) : (m &&& maskOf p == 0) = !((lanesOf m).any p) := by
  by_cases h : ∃ l ∈ lanesOf m, p l = true
  · obtain ⟨l, hl, hp⟩ := h
    obtain ⟨h1, h2⟩ := mem_lanesOf.mp hl
    have hn : m &&& maskOf p ≠ 0 := by
      intro e
      have := congrArg (fun x : Mask => x.getLsbD l) e
      simp only [BitVec.getLsbD_and, getLsbD_maskOf, h1, h2, hp] at this
      simp at this
    have ha : (lanesOf m).any p = true := List.any_eq_true.mpr ⟨l, hl, hp⟩
    rw [ha]; simpa using hn
  · have ha : (lanesOf m).any p = false := by
      rw [List.any_eq_false]; intro l hl hp; exact h ⟨l, hl, hp⟩
    rw [ha]
    have : m &&& maskOf p = 0 := by
      apply BitVec.eq_of_getLsbD_eq
      intro l hl
      rw [BitVec.getLsbD_and, getLsbD_maskOf]
      cases hm : m.getLsbD l with
      | false => simp
      | true =>
        have : p l = false := by
          cases hp : p l with
          | false => rfl
          | true => exact absurd ⟨l, mem_lanesOf.mpr ⟨hl, hm⟩, hp⟩ h
        simp [this]
    simp [this]

theorem FMap.length_set_le {α : Type} (m : FMap α) (k : Nat) (a : α) : (FMap.set m k a).length ≤ m.length + 1 := by
  induction m with
  | nil => simp [FMap.set]
  | cons x m ih =>
    obtain ⟨j, b⟩ := x
    unfold FMap.set
    split
    · simp
    · split
      · simp
      · simp; omega

@[simp] theorem FMap.length_modify {α : Type} (m : FMap α) (k : Nat) (f : α → α) :
    (FMap.modify m k f).length = m.length := by
  induction m with
  | nil => rfl
  | cons x m ih =>
    obtain ⟨j, b⟩ := x
    unfold FMap.modify
    split
    · rfl
    · simp [ih]

theorem FMap.length_keep_le {α : Type} (m : FMap α) (p : Nat → α → Bool) : (FMap.keep m p).length ≤ m.length :=
  List.length_filter_le _ _

end Sys2Proof

namespace Sys2Proof.Machine

/-- The warp of an issued fragment whose instruction has been performed, with given flags and vector banks. -/
def Iss.banks (i : Iss) (sf ff : Word) (v vTrap : FMap VReg) : Warp :=
  { i.w with frags := FMap.set i.w.frags i.fi i.f.finish, v := v, vTrap := vTrap, sflags := sf, fflags := ff }

variable {sf ff : Word}

theorem warpIn_setWarp (i : Iss) (k : Core) (w : Warp) : i.warpIn (k.setWarp i.wi w) = w := by
  simp [Iss.warpIn, Core.setWarp]

/-- Marking a last read changes only the vector banks, and allocates nothing. -/
theorem Issued.markRead {s : State} {i : Iss} (h : Issued s i) (n : Nat) (m : Mask) (v t : FMap VReg) :
    ∃ v' t', i.markRead n m (i.core.setWarp i.wi (i.banks sf ff v t)) = i.core.setWarp i.wi (i.banks sf ff v' t') ∧
      v'.length ≤ v.length := by
  unfold Iss.markRead
  rw [warpIn_setWarp, Warp.innermost_nil h.sides]
  simp only [Iss.onWarp_setWarp]
  split
  · refine ⟨_, _, rfl, ?_⟩
    exact FMap.length_keep_le _ _
  · refine ⟨_, _, rfl, ?_⟩
    exact Nat.le_trans (FMap.length_keep_le _ _) (by simp [Iss.banks])

/-- Where nothing is marked nothing changes. -/
theorem lastReads_zero (i : Iss) (ops : List (Operand × Nat)) (m : Mask) (k : Core) : i.lastReads 0 ops m k = k := by
  unfold Iss.lastReads
  generalize (List.range 3).zip ops = l
  induction l with
  | nil => rfl
  | cons p l ih => simpa using ih

/-- The marks of last reads change only the vector banks, and allocate nothing (05 R176). -/
theorem Issued.lastReads {s : State} {i : Iss} (h : Issued s i) (lr : BitVec 3) (ops : List (Operand × Nat)) (m : Mask) :
    ∃ v t, i.lastReads lr ops m i.begin = i.core.setWarp i.wi (i.banks i.w.sflags i.w.fflags v t) ∧
      v.length ≤ i.w.v.length ∧ (lr = 0 → v = i.w.v ∧ t = i.w.vTrap) := by
  by_cases e : lr = 0
  · subst e
    exact ⟨i.w.v, i.w.vTrap, lastReads_zero _ _ _ _, Nat.le_refl _, fun _ => ⟨rfl, rfl⟩⟩
  have one : ∀ (l : List Nat) (n : Nat) (v t : FMap VReg), v.length ≤ i.w.v.length →
      ∃ v' t', l.foldl (fun k j => i.markRead (n + j) m k) (i.core.setWarp i.wi (i.banks i.w.sflags i.w.fflags v t)) =
        i.core.setWarp i.wi (i.banks i.w.sflags i.w.fflags v' t') ∧ v'.length ≤ i.w.v.length := by
    intro l n
    induction l with
    | nil => intro v t hv; exact ⟨v, t, rfl, hv⟩
    | cons j l ih =>
      intro v t hv
      obtain ⟨v', t', e, hv'⟩ := h.markRead (sf := i.w.sflags) (ff := i.w.fflags) (n + j) m v t
      simp only [List.foldl_cons, e]
      exact ih v' t' (Nat.le_trans hv' hv)
  have all : ∀ (l : List (Nat × Operand × Nat)) (v t : FMap VReg), v.length ≤ i.w.v.length →
      ∃ v' t', l.foldl (fun k p =>
        if lr.getLsbD p.1 then
          match p.2.1 with
          | .v n => (List.range p.2.2).foldl (fun k j => i.markRead (n.toNat + j) m k) k
          | _ => k
        else k) (i.core.setWarp i.wi (i.banks i.w.sflags i.w.fflags v t)) = i.core.setWarp i.wi (i.banks i.w.sflags i.w.fflags v' t') ∧
        v'.length ≤ i.w.v.length := by
    intro l
    induction l with
    | nil => intro v t hv; exact ⟨v, t, rfl, hv⟩
    | cons p l ih =>
      intro v t hv
      simp only [List.foldl_cons]
      split
      · split
        · rename_i n _
          obtain ⟨v', t', e, hv'⟩ := one (List.range p.2.2) n.toNat v t hv
          rw [e]; exact ih v' t' hv'
        · exact ih v t hv
      · exact ih v t hv
  obtain ⟨v, t, h1, h2⟩ := all _ i.w.v i.w.vTrap (Nat.le_refl _)
  exact ⟨v, t, h1, h2, fun e' => absurd e' e⟩

/-- The banks after lanes of a v register have been written. -/
def Iss.vset (i : Iss) (b : FMap VReg × FMap VReg) (n : Nat) (m : Mask) (l : Lanes) : FMap VReg × FMap VReg :=
  if m == 0 then b
  else if i.f.trm && decide (56 ≤ n) then
    (b.1, FMap.set b.2 n (((FMap.get b.2 n).getD VReg.zero).write m l))
  else (FMap.set b.1 n (((FMap.get b.1 n).getD VReg.zero).write m l), b.2)

/-- Writing lanes of a v register that has its place, or finds one (05 R175). -/
theorem Issued.putV {s : State} {i : Iss} (h : Issued s i) (n : Nat) (m : Mask) (l : Lanes) (v t : FMap VReg)
    (room : FMap.has v n = true ∨ ∀ g, i.wg = some g → v.length < g.live) :
    i.putV n m l (i.core.setWarp i.wi (i.banks sf ff v t)) =
      .ok (i.core.setWarp i.wi (i.banks sf ff (i.vset (v, t) n m l).1 (i.vset (v, t) n m l).2)) := by
  obtain ⟨g, hg⟩ := Option.isSome_iff_exists.mp h.wg
  have hin : ∀ w : Warp, w.innermost i.f = none := fun w => Warp.innermost_nil h.sides
  unfold Iss.putV Iss.openV Iss.vset
  simp only [warpIn_setWarp, hin]
  by_cases hm : (m == 0) = true
  · simp only [hm, if_true]
  · simp only [hm, Bool.false_eq_true, if_false]
    by_cases hb : (i.f.trm && decide (56 ≤ n)) = true
    · simp only [hb, if_true, Iss.onWarp_setWarp]
      simp [Iss.banks]
    · have hr : (!FMap.has (i.banks sf ff v t).v n && decide ((i.wg.map (·.live)).getD 0 ≤ (i.banks sf ff v t).v.length)) = false := by
        rcases room with hr | hr
        · simp [Iss.banks, hr]
        · have := hr g hg
          simp [Iss.banks, hg]; intro _; omega
      simp only [hb, Bool.false_eq_true, if_false, hr, Iss.onWarp_setWarp]
      simp [Iss.banks]

/-- A lane of a v register after lanes of one have been written. -/
theorem readV_vset {i : Iss} {f : Frag} (b : FMap VReg × FMap VReg) (n n' : Nat) (m : Mask) (l : Lanes) {x : Nat}
    (hx : x < 96) (hs : f.sides = []) (ht : f.trm = i.f.trm) :
    ((i.banks sf ff (i.vset b n m l).1 (i.vset b n m l).2).readV f n').at x =
      if n = n' ∧ m.getLsbD x = true then l.at x else ((i.banks sf ff b.1 b.2).readV f n').at x := by
  rw [Warp.readV_nil hs, Warp.readV_nil hs, ht]
  unfold Iss.vset
  by_cases hm : (m == 0) = true
  · have : m = 0 := by simpa using hm
    subst this; simp
  · simp only [hm, Bool.false_eq_true, if_false]
    have zero : ∀ (o : Option VReg), ((o.map (·.val)).getD (Lanes.splat 0)) = (o.getD VReg.zero).val := by
      intro o; cases o <;> rfl
    simp only [zero]
    by_cases hn : n = n'
    · subst hn
      by_cases hb : (i.f.trm && decide (56 ≤ n)) = true
      · simp only [hb, if_true, Iss.banks, FMap.get_set_self, Option.getD_some, VReg.write, true_and]
        rw [Lanes.at_merge _ _ _ hx]
      · simp only [hb, Bool.false_eq_true, if_false, Iss.banks, FMap.get_set_self, Option.getD_some, VReg.write, true_and]
        rw [Lanes.at_merge _ _ _ hx]
    · simp only [hn, false_and, if_false]
      by_cases hb : (i.f.trm && decide (56 ≤ n)) = true
      · simp only [hb, if_true]
        by_cases hc : (i.f.trm && decide (56 ≤ n')) = true
        · simp [hc, Iss.banks, FMap.get_set_ne _ _ hn]
        · simp [hc, Iss.banks]
      · simp only [hb, Bool.false_eq_true, if_false]
        by_cases hc : (i.f.trm && decide (56 ≤ n')) = true
        · simp [hc, Iss.banks]
        · simp [hc, Iss.banks, FMap.get_set_ne _ _ hn]

theorem has_vset {i : Iss} (b : FMap VReg × FMap VReg) (n n' : Nat) (m : Mask) (l : Lanes)
    (h : FMap.has b.1 n' = true) : FMap.has (i.vset b n m l).1 n' = true := by
  unfold Iss.vset
  split
  · exact h
  · split
    · exact h
    · unfold FMap.has at h ⊢
      rw [FMap.get_set]; split
      · rfl
      · exact h

theorem length_vset {i : Iss} (b : FMap VReg × FMap VReg) (n : Nat) (m : Mask) (l : Lanes) :
    (i.vset b n m l).1.length ≤ b.1.length + 1 := by
  unfold Iss.vset
  split
  · omega
  · split
    · simp
    · exact FMap.length_set_le _ _ _

/-- A vector instruction that leaves its warp with given banks and writes no g register. -/
theorem vectorDone_banks {s : State} {i : Iss} (h : Issued s i) {lr : BitVec 3} {wide : Bool} {d : Operand} {m : Mask}
    {r : Nat → Dword} (v t : FMap VReg)
    (hd : ∀ f : Frag, f.sides = [] → f.trm = i.f.trm → match d with
      | .v n => ∀ l, l < 96 → m.getLsbD l = true →
          ((i.banks sf ff v t).readV f n.toNat).at l = (r l).setWidth 32 ∧
            (wide = true → ((i.banks sf ff v t).readV f (n.toNat + 1)).at l = (r l).extractLsb' 32 32)
      | .g _ => highLane m = none
      | _ => True)
    (ho : lr = 0 → ∀ f : Frag, f.sides = [] → f.trm = i.f.trm → ∀ n l, l < 96 →
      ¬(m.getLsbD l = true ∧ n ∈ dstNames d (regsOf wide)) → ((i.banks sf ff v t).readV f n).at l = (i.w.readV f n).at l) :
    VectorDone s i lr wide d m r sf ff (s.setCore i.c (i.core.setWarp i.wi (i.banks sf ff v t))) := by
  obtain ⟨_, _, _, h4, _, h6, _⟩ := iss_eq h.iss
  refine ⟨_, iss_setCore h.iss (w := i.banks sf ff v t) (f := i.f.finish) ?_ ?_, rfl, ?_, ?_, ?_, rfl, ?_⟩
  · simp [Core.setWarp]
  · simp [Iss.banks]
  · have := hd i.f.finish (by simpa using h.sides) rfl
    cases d <;> simp_all
  · intro e n l hl hn
    have := ho e i.f.finish (by simpa using h.sides) rfl n l hl hn
    rw [this, Warp.readV_nil (by simpa using h.sides), Warp.readV_nil h.sides]
    rfl
  · intro o _
    refine s32_eq o ?_ ?_ rfl
    · intro n; rfl
    · intro n; rfl
  · refine onlyWarpG_setCore ?_
    rw [← h4]
    exact (CoreWG.refl _ _ _).setWarp _

/-- A g register written by a vector instruction. -/
theorem vectorDone_g {s : State} {i : Iss} (h : Issued s i) {lr : BitVec 3} {n : BitVec 4} {m : Mask} {r : Nat → Dword}
    {x : Nat} (hx : highLane m = some x) (v t : FMap VReg) (hv : lr = 0 → v = i.w.v ∧ t = i.w.vTrap) :
    VectorDone s i lr false (.g n) m r sf ff
      (s.setCore i.c (i.putG n.toNat ((r x).setWidth 32) (i.core.setWarp i.wi (i.banks sf ff v t)))) := by
  obtain ⟨_, _, _, h4, _, h6, _⟩ := iss_eq h.iss
  obtain ⟨g, hg⟩ := Option.isSome_iff_exists.mp h.wg
  have hg' : FMap.get i.core.wgs i.w.wg = some g := hg
  refine ⟨_, iss_setCore h.iss (w := i.banks sf ff v t) (f := i.f.finish) ?_ ?_, rfl, ?_, ?_, ?_, rfl, ?_⟩
  · simp [Iss.putG, Core.modWg, Core.setWarp]
  · simp [Iss.banks]
  · intro y hy
    rw [hx] at hy; cases hy
    simp [Iss.readG, Iss.wg, Iss.putG, Core.modWg, FMap.get_modify, Core.setWarp, Iss.banks, hg']
  · intro e n' l hl _
    obtain ⟨rfl, rfl⟩ := hv e
    rw [Warp.readV_nil (by simpa using h.sides), Warp.readV_nil h.sides]
    rfl
  · intro o ho
    unfold Iss.s32
    split
    · simp [Warp.readS, Iss.banks]
    · rename_i k
      have hnm : n.toNat ≠ k.toNat := fun e => ho (by rw [BitVec.eq_of_toNat_eq e])
      simp [Iss.readG, Iss.wg, Iss.putG, Core.modWg, FMap.get_modify, Core.setWarp, Iss.banks, hg', FMap.getD_set, hnm]
    · simp [Iss.banks]
    · rfl
    · rfl
  · refine onlyWarpG_setCore ?_
    rw [← h4]
    exact CoreWG.putG i ((CoreWG.refl _ _ _).setWarp _) _ _

/-- The high lane of a mask is one of it. -/
theorem highLane_mem {m : Mask} {x : Nat} (h : highLane m = some x) : x < 96 ∧ m.getLsbD x = true := by
  have := List.mem_of_getLast? h
  simpa using this

/-- What a vector instruction that writes its destination does, whatever the destination, once its last reads have been
marked and its flags set (05 R181, 08 R262). -/
theorem Issued.putSrcAt {s : State} {i : Iss} (h : Issued s i) (lr : BitVec 3) {wide : Bool} {d : Operand} (m : Mask)
    (r : Nat → Dword) (hd : vectorDst wide d) (room : i.room lr wide d) {v t : FMap VReg}
    (hlen : v.length ≤ i.w.v.length) (hz : lr = 0 → v = i.w.v ∧ t = i.w.vTrap) :
    ∃ k, i.putSrc wide d m r (i.core.setWarp i.wi (i.banks sf ff v t)) = .ok k ∧
      VectorDone s i lr wide d m r sf ff (s.setCore i.c k) := by
  have room1 : ∀ n ∈ dstNames d (regsOf wide), FMap.has v n = true ∨ ∀ g, i.wg = some g → v.length + regsOf wide ≤ g.live := by
    intro n hn
    rcases room with ⟨e, hr⟩ | hr
    · obtain ⟨rfl, _⟩ := hz e
      exact .inl (hr n hn)
    · right; intro g hg; have := hr g hg; omega
  cases d with
  | v n =>
    have hn0 : n.toNat ∈ dstNames (.v n) (regsOf wide) := by cases wide <;> simp [dstNames, regsOf]
    cases wide with
    | false =>
      have hroom : FMap.has v n.toNat = true ∨ ∀ g, i.wg = some g → v.length < g.live := by
        rcases room1 _ hn0 with hr | hr
        · exact .inl hr
        · right; intro g hg; have := hr g hg; simp [regsOf] at this; omega
      refine ⟨_, h.putV n.toNat m _ v t hroom, vectorDone_banks h _ _ ?_ ?_⟩
      · intro f hs ht l hl hm
        rw [readV_vset (v, t) _ _ _ _ hl hs ht]
        simp [hm, Lanes.at_lanesFrom _ hl]
      · intro e f hs ht n' l hl hno
        obtain ⟨rfl, rfl⟩ := hz e
        rw [readV_vset (i.w.v, i.w.vTrap) _ _ _ _ hl hs ht, if_neg]
        · rw [Warp.readV_nil hs, Warp.readV_nil hs]; rfl
        · rintro ⟨rfl, hm⟩; exact hno ⟨hm, hn0⟩
    | true =>
      have hn1 : n.toNat + 1 ∈ dstNames (.v n) (regsOf true) := by simp [dstNames, regsOf, List.range_succ]
      have hroom : FMap.has v n.toNat = true ∨ ∀ g, i.wg = some g → v.length < g.live := by
        rcases room1 _ hn0 with hr | hr
        · exact .inl hr
        · right; intro g hg; have := hr g hg; simp [regsOf] at this; omega
      generalize hlo : (lanesFrom fun l => if m.getLsbD l then (r l).setWidth 32 else 0) = lo
      generalize hhi : (lanesFrom fun l => if m.getLsbD l then (r l).extractLsb' 32 32 else 0) = hi
      have hroom2 : FMap.has (i.vset (v, t) n.toNat m lo).1 (n.toNat + 1) = true ∨
          ∀ g, i.wg = some g → (i.vset (v, t) n.toNat m lo).1.length < g.live := by
        rcases room1 _ hn1 with hr | hr
        · exact .inl (has_vset _ _ _ _ _ hr)
        · right; intro g hg
          have h1 := hr g hg
          have h2 := length_vset (i := i) (v, t) n.toNat m lo
          simp [regsOf] at h1 h2; omega
      have hput : i.putSrc true (.v n) m r (i.core.setWarp i.wi (i.banks sf ff v t)) =
          i.putV (n.toNat + 1) m hi (i.core.setWarp i.wi
            (i.banks sf ff (i.vset (v, t) n.toNat m lo).1 (i.vset (v, t) n.toNat m lo).2)) := by
        simp only [Iss.putSrc, Iss.putLanes2, if_true, hlo, hhi, h.putV n.toNat m lo v t hroom, Eff.andThen]
      refine ⟨_, hput.trans (h.putV (n.toNat + 1) m hi _ _ hroom2), vectorDone_banks h _ _ ?_ ?_⟩
      · intro f hs ht l hl hm
        have e0 : n.toNat + 1 ≠ n.toNat := by omega
        refine ⟨?_, fun _ => ?_⟩
        · rw [readV_vset _ _ _ _ _ hl hs ht, if_neg (by omega), readV_vset (v, t) _ _ _ _ hl hs ht]
          simp [hm, ← hlo, Lanes.at_lanesFrom _ hl]
        · rw [readV_vset _ _ _ _ _ hl hs ht]
          simp [hm, ← hhi, Lanes.at_lanesFrom _ hl]
      · intro e f hs ht n' l hl hno
        obtain ⟨rfl, rfl⟩ := hz e
        rw [readV_vset _ _ _ _ _ hl hs ht, if_neg, readV_vset (i.w.v, i.w.vTrap) _ _ _ _ hl hs ht, if_neg]
        · rw [Warp.readV_nil hs, Warp.readV_nil hs]; rfl
        · rintro ⟨rfl, hm⟩; exact hno ⟨hm, hn0⟩
        · rintro ⟨rfl, hm⟩; exact hno ⟨hm, hn1⟩
  | g n =>
    have hw : wide = false := hd
    subst hw
    cases hx : highLane m with
    | none =>
      refine ⟨i.core.setWarp i.wi (i.banks sf ff v t), ?_, vectorDone_banks h v t ?_ ?_⟩
      · simp [Iss.putSrc, Iss.putLanes2, Iss.putLanes, hx]
      · intro f hs ht; exact hx
      · intro e f hs ht n' l hl _
        obtain ⟨rfl, rfl⟩ := hz e
        rw [Warp.readV_nil hs, Warp.readV_nil hs]; rfl
    | some x =>
      obtain ⟨hx1, hx2⟩ := highLane_mem hx
      refine ⟨_, ?_, vectorDone_g h hx v t hz⟩
      simp [Iss.putSrc, Iss.putLanes2, Iss.putLanes, hx, Lanes.at_lanesFrom _ hx1, hx2]
  | none =>
    refine ⟨i.core.setWarp i.wi (i.banks sf ff v t), ?_, vectorDone_banks h v t ?_ ?_⟩
    · cases wide <;> rfl
    · intro f hs ht; trivial
    · intro e f hs ht n' l hl _
      obtain ⟨rfl, rfl⟩ := hz e
      rw [Warp.readV_nil hs, Warp.readV_nil hs]; rfl
  | s n => exact hd.elim
  | k n => exact hd.elim
  | f n => exact hd.elim
  | reserved n => exact hd.elim
  | imm => exact hd.elim

/-- What a vector instruction that writes its destination and leaves the flags does (05 R181, 08 R262). -/
theorem Issued.putSrc {s : State} {i : Iss} (h : Issued s i) (lr : BitVec 3) (ops : List (Operand × Nat)) {wide : Bool}
    {d : Operand} (m : Mask) (r : Nat → Dword) (hd : vectorDst wide d) (room : i.room lr wide d) :
    ∃ k, i.putSrc wide d m r (i.lastReads lr ops m i.begin) = .ok k ∧
      VectorDone s i lr wide d m r i.w.sflags i.w.fflags (s.setCore i.c k) := by
  obtain ⟨v, t, hk, hlen, hz⟩ := h.lastReads lr ops m
  rw [hk]
  exact h.putSrcAt lr m r hd room hlen hz

/-- What an instruction that writes a k register does, once its last reads have been marked and its flags set (05 R173). -/
theorem Issued.putK {s : State} {i : Iss} (h : Issued s i) (n : Nat) (m bits : Mask) (fast : Bool) (v t : FMap VReg) :
    ∃ k, i.putK n m bits fast (i.core.setWarp i.wi (i.banks sf ff v t)) = .ok k ∧
      KDone s i n m bits fast sf ff (s.setCore i.c k) := by
  obtain ⟨_, _, _, h4, _, h6, _⟩ := iss_eq h.iss
  have hin : ∀ w : Warp, w.innermost i.f = none := fun w => Warp.innermost_nil h.sides
  have hsides : i.f.finish.sides = [] := by simpa using h.sides
  have wrap : ∀ (kk : FMap Mask) (kp : List KPend),
      (if (i.late && fast) = true then
        kk = i.w.k ∧ kp = [{ frag := i.fi, owner := i.f.mask, k := n, lanes := m, bits := bits &&& m, record := none }]
      else kp = [] ∧ ∀ n' l, ((FMap.getD kk n' 0 : Mask)).getLsbD l =
        if n' = n ∧ m.getLsbD l = true then bits.getLsbD l else (FMap.getD i.w.k n' 0 : Mask).getLsbD l) →
      KDone s i n m bits fast sf ff
        (s.setCore i.c (i.core.setWarp i.wi { i.banks sf ff v t with k := kk, kpend := kp })) := by
    intro kk kp hk
    refine ⟨_, iss_setCore h.iss (w := { i.banks sf ff v t with k := kk, kpend := kp }) (f := i.f.finish) ?_ ?_, rfl, ?_,
      ?_, rfl, ?_⟩
    · simp [Core.setWarp]
    · simp [Iss.banks]
    · simpa only [Warp.readK_nil hsides, Warp.readK_nil h.sides] using hk
    · intro o
      exact s32_eq o (fun _ => rfl) (fun _ => rfl) rfl
    · refine onlyWarpG_setCore ?_
      rw [← h4]
      exact (CoreWG.refl _ _ _).setWarp _
  unfold Iss.putK
  by_cases hl : (i.late && fast) = true
  · simp only [hl, if_true, Iss.onWarp_setWarp]
    refine ⟨_, rfl, ?_⟩
    have := wrap i.w.k [{ frag := i.fi, owner := i.f.mask, k := n, lanes := m, bits := bits &&& m, record := none }] (by simp [hl])
    simp only [hin]
    simpa [Iss.banks, h.kpend] using this
  · simp only [hl, Bool.false_eq_true, if_false, warpIn_setWarp, hin, Iss.onWarp_setWarp]
    refine ⟨_, rfl, ?_⟩
    have := wrap (FMap.set i.w.k n ((FMap.getD i.w.k n 0 &&& ~~~m) ||| (bits &&& m))) [] (by
      simp only [hl, Bool.false_eq_true, if_false, true_and]
      intro n' l
      rw [FMap.getD_set]
      by_cases e : n = n'
      · subst e
        by_cases hb : l < 96
        · simp only [if_true, true_and, BitVec.getLsbD_or, BitVec.getLsbD_and, BitVec.getLsbD_not, hb, decide_true, Bool.true_and]
          cases m.getLsbD l <;> simp
        · simp [BitVec.getLsbD_of_ge _ _ (show 96 ≤ l by omega)]
      · have e' : n' ≠ n := fun x => e x.symm
        simp [e, e'])
    simpa [Iss.banks, h.kpend] using this

end Sys2Proof.Machine
end

