-- ==== Sys2Proof/Laws/Results.lean ====
section
/-!
SUPPORT. What the common forms of the arithmetic instructions do: the scalar and vector forms of the integer
instructions, the flags that float lanes raise, and the collectives.
-/
namespace Sys2Proof.Machine

/-- The common scalar form that sets SFLAGS (08 R265, R268). -/
theorem Issued.aluScalar {s : State} {i : Iss} (h : Issued s i) (f : RForm) (n : Nat) (wd wa wb wc : Bool) (op : AluOp)
    (hd : scalarDst wd f.d) (hg : i.scalarGo f.guard = true) :
    let r := op (i.scalarSrc wa f.a 0) (i.scalarSrc wb f.b (imm24 f.ext)) (i.scalarSrc wc f.c 0)
    ScalarDone s i wd f.d (BitVec.ofInt 64 r.r) (r.flags f.ty i.w.sflags)
      (s.onCore fun i => i.aluScalar f n wd wa wb wc op) := by
  intro r
  obtain ⟨k, hk, hdone⟩ := h.putScalar (BitVec.ofInt 64 r.r) (r.flags f.ty i.w.sflags) hd
  rw [h.onCore, Iss.aluScalar, h.scalar _ _ _ hg]
  simp only [Iss.begin_eq, Iss.onWarp_setWarp]
  rw [hk]
  exact hdone

/-- The scalar form that leaves SFLAGS alone (08 R273, R274). -/
theorem Issued.plainScalar {s : State} {i : Iss} (h : Issued s i) (g : Guard) (wd : Bool) (d : Operand)
    (ops : List (Operand × Nat)) (r : Dword) (hd : scalarDst wd d) (hg : i.scalarGo g = true) :
    ScalarDone s i wd d r i.w.sflags (s.commit i (i.plainScalar g wd d ops r)) := by
  obtain ⟨k, hk, hdone⟩ := h.putScalar r i.w.sflags hd
  rw [Iss.plainScalar, h.scalar _ _ _ hg, Iss.begin_eq]
  have hk' : i.putScalar wd d r (i.core.setWarp i.wi { i.w with frags := FMap.set i.w.frags i.fi i.f.finish }) = .ok k := hk
  rw [hk']
  exact hdone

/-- The common vector form (08 R262, R275). -/
theorem Issued.aluVector {s : State} {i : Iss} (h : Issued s i) (f : RForm) (n : Nat) (wd wa wb wc : Bool) (op : AluOp)
    (hd : vectorDst wd f.d) (room : i.room f.lr wd f.d) :
    VectorDone s i f.lr wd f.d (i.active f.guard)
      (fun l => BitVec.ofInt 64 (op (i.src wa f.a 0 l) (i.src wb f.b (imm24 f.ext) l) (i.src wc f.c 0 l)).r)
      i.w.sflags i.w.fflags (s.onCore fun i => i.aluVector f n wd wa wb wc op) := by
  obtain ⟨k, hk, hdone⟩ := h.putSrc f.lr ([(f.a, regsOf wa), (f.b, regsOf wb), (f.c, regsOf wc)].take n) (i.active f.guard)
    (fun l => BitVec.ofInt 64 (op (i.src wa f.a 0 l) (i.src wb f.b (imm24 f.ext) l) (i.src wc f.c 0 l)).r) hd room
  rw [h.onCore, Iss.aluVector, h.vector]
  rw [hk]
  exact hdone

/-- A vector form that only writes its destination (08 R277, R278). -/
theorem Issued.vectorPut {s : State} {i : Iss} (h : Issued s i) (g : Guard) (lr : BitVec 3) (ops : List (Operand × Nat))
    (wide : Bool) (d : Operand) (n : Nat) (r : Nat → Dword) (hd : vectorDst wide d) (room : i.room lr wide d) :
    VectorDone s i lr wide d (i.active g) r i.w.sflags i.w.fflags
      (s.commit i (i.vector g lr ops d n fun m k => i.putSrc wide d m r k)) := by
  obtain ⟨k, hk, hdone⟩ := h.putSrc lr ops (i.active g) r hd room
  rw [h.vector, hk]
  exact hdone

/-- A lane of the results of a float operation. -/
theorem floatLanes_at (m : Mask) (op : Nat → FRes) {l : Nat} (h : l < 96) (hm : m.getLsbD l = true) :
    FLanes.at (floatLanes m op) l = op l := by
  simp [FLanes.at, floatLanes, h, hm]

/-- FFLAGS after the lanes of a mask have raised their flags (09 R286). -/
def flagsAfter (m : Mask) (r : FLanes) (ff : Word) : Word :=
  (List.range 5).foldl (fun x b =>
    if m &&& maskOf (fun l => (r.at l).flags.testBit b) == 0 then x else x ||| BitVec.ofNat 32 (2 ^ b)) ff

/-- Raising flags changes FFLAGS alone, outside speculation. -/
theorem Issued.raiseLanes {s : State} {i : Iss} (h : Issued s i) (m : Mask) (r : FLanes) (sf ff : Word)
    (v t : FMap VReg) :
    i.raiseLanes m r (i.core.setWarp i.wi (i.banks sf ff v t)) =
      i.core.setWarp i.wi (i.banks sf (flagsAfter m r ff) v t) := by
  have hin : ∀ w : Warp, w.innermost i.f = none := fun w => Warp.innermost_nil h.sides
  unfold Iss.raiseLanes flagsAfter
  have hpos : ∀ b ∈ List.range 5, ((2 ^ b : Nat) == 0) = false := by
    intro b hb; simp
  generalize List.range 5 = l at hpos
  induction l generalizing ff with
  | nil => rfl
  | cons b l ih =>
    simp only [List.foldl_cons]
    have hb := hpos b (by simp)
    have key : i.raiseFlags (m &&& maskOf fun l => (r.at l).flags.testBit b) (2 ^ b)
        (i.core.setWarp i.wi (i.banks sf ff v t)) =
        i.core.setWarp i.wi (i.banks sf
          (if m &&& maskOf (fun l => (r.at l).flags.testBit b) == 0 then ff else ff ||| BitVec.ofNat 32 (2 ^ b)) v t) := by
      unfold Iss.raiseFlags
      simp only [hb, Bool.false_or]
      split
      · rfl
      · simp only [Iss.onWarp_setWarp, hin]
        rfl
    rw [key]
    exact ih _ fun c hc => hpos c (by simp [hc])

/-- A collective that holds every live lane is performed (05 R191). -/
theorem Issued.collective {s : State} {i : Iss} (h : Issued s i) (ops : List (Operand × Nat)) (act : Core → Eff)
    (hl : i.f.mask = i.w.live) : i.collective ops act = act i.begin := by
  simp [Iss.collective, h.spec, h.blocked, hl]

end Sys2Proof.Machine
end

