-- ==== Sys2Proof/Tests/Slice0.lean ====
section
/-!
SUPPORT. Tests: ill-formed terms that well-formedness refuses, words written out from the spec's encodings, one step on small
states, and for each statement of the certificates a state and operands that meet its hypotheses.
-/
open Sys2Proof Sys2Proof.Machine Sys2Proof.Claims

namespace Sys2Proof.Tests

-- one theorem after another: each waiting kernel check holds a thread and its stack
set_option Elab.async false

/-! Instructions with every field zero. -/

def zR : RForm := zeroR
def zI : IForm :=
  { lr := 0, guard := zR.guard, a := .v 0, d := .v 0, ty := .i32, mod := zR.mod, b := .v 0, imm := 0, ext8 := 0 }
def zM : MForm :=
  { lr := 0, guard := zR.guard, a := .v 0, d := .v 0, space := 0, width := 0, ord := 0, scope := 0, sx := false, b := .v 0
    c := .v 0, ncls := 0, use := 0, scale := 0, aop := 0, off := 0 }
def zB : BForm := { lr := 0, guard := zR.guard, a := .v 0, d := .v 0, cond := 0, hint := 0, tgt := 0, rcv := 0 }
def zX : XForm :=
  { lr := 0, guard := zR.guard, a := .v 0, d := .v 0, tile := 0, xfl := 0, b := .v 0, c := .v 0, ext := 0 }
def gd (k : BitVec 4) (n : Bool) : Guard := { k := k, n := n, e := true }

/-! Well-formedness: one ill-formed term for each check (07 R236, R238 to R245). -/

def illFormed : List Instr := [
  -- a specifier that names no register, and one not written as it is read
  .sadd { zR with a := .reserved 0xB0, d := .s 1, b := .s 2 }, .sadd { zR with a := .reserved 0x41, d := .s 1, b := .s 2 },
  -- the sub-form
  .fbindB { zR with a := .f 1, d := .s 1 }, .fbind { zR with a := .f 1, d := .s 1, ext := 1 },
  -- the guard: of an unguarded instruction, and bits without its enable
  .jmp { zR with a := .s 2, guard := gd 0 false },
  .nop { zR with guard := { k := 3, n := false, e := false } }, .nop { zR with guard := { k := 0, n := true, e := false } },
  -- TY and MOD
  .smulh { zR with a := .s 2, d := .s 4, b := .s 6, ty := .i64 }, .fadd { zR with b := .v 1 },
  .sand { zR with a := .s 2, d := .s 4, b := .s 6, mod := { zR.mod with sat := true } },
  .fmin { zR with b := .v 1, ty := .f32, mod := { zR.mod with rnd := 1 } },
  -- classes and pairs of A, B, C and D
  .sadd { zR with a := .v 1, d := .s 1, b := .s 2 }, .sadd { zR with a := .s 1, d := .s 1, b := .v 2 },
  .vsel { zR with b := .v 2, c := .v 3 }, .vcmp { zR with d := .v 1, b := .v 2 },
  .sadd { zR with a := .s 1, d := .s 1, b := .s 2, c := .s 1 }, .sadd { zR with a := .s 2, d := .s 5, b := .s 2, ty := .i64 },
  .kto { zR with d := .s 59, a := .k 1 }, .bal { zR with d := .s 59, b := .imm },
  -- EXT24 without the immediate, a condition code, a shift
  .sadd { zR with a := .s 1, d := .s 1, b := .s 2, ext := 1 }, .scmp { zR with a := .s 1, d := .s 1, b := .s 2, c := .v 8 },
  .slea { zR with a := .s 2, d := .s 4, b := .s 2, c := .v 8, ty := .i64 },
  -- the extension fields of single entries
  .fxpk { zR with ty := .f32, ext := 1 }, .fxpk { zR with ty := .f32, ext := 9 }, .fcvt { zR with ty := .f32, ext := 8 },
  .fenceAcq { zR with ext := 1 + 4 * 5 }, .redux { zR with d := .s 1, c := .k 0, ext := 9 }, .redux { zR with d := .s 1, ext := 0 },
  .vote { zR with a := .k 0, d := .k 0, c := .v 3 }, .shfl { zR with b := .imm, c := .v 24 }, .wcnt { zR with ext := 3 },
  .bar { zR with ext := 16 }, .sleep { zR with b := .imm, ext := 0x800000 }, .trap { zR with a := .none, ext := 0x10000 },
  .brx { zR with a := .v 2 }, .rds { zR with d := .s 1, ext := 0x12 }, .wrs { zR with a := .s 1, ext := 0x28 },
  -- Format I
  .sli { zI with d := .s 1, ext8 := 1 }, .falloc { zI with d := .f 0, a := .s 2 }, .falloc { zI with d := .f 0, a := .s 4, ext8 := 0x10 },
  -- Format M: SPACE, base, index, WIDTH, SCOPE, ORD, SX, NCLS, USE, AOP
  .lds { zM with a := .s 2, d := .s 4, b := .none, space := 3 }, .ld { zM with a := .v 2, b := .none, space := 2 },
  .ld { zM with a := .v 3, b := .none }, .ld { zM with b := .none, scale := 1 }, .atom { zM with b := .none, width := 1 },
  .ld { zM with b := .none, width := 5 }, .ld { zM with b := .none, scope := 5 }, .ld { zM with b := .none, ord := 2 },
  .st { zM with b := .none, ord := 1 }, .ld { zM with b := .none, width := 2, sx := true },
  .ld { zM with b := .none, ord := 1, ncls := 1 }, .ld { zM with b := .none, use := 1 }, .atom { zM with b := .none, width := 2, use := 6 },
  .atom { zM with b := .none, width := 2, aop := 13 }, .atom { zM with b := .none, width := 2, aop := 6, use := 4, d := .none },
  .atom { zM with b := .none, width := 2, aop := 1, use := 5 }, .atom { zM with b := .none, width := 3, aop := 10 },
  .atom { zM with b := .none, width := 2, use := 4, d := .v 1 }, .ldlk { zM with b := .none, width := 2 },
  .cinv { zM with b := .none, aop := 3 },
  -- Format B: HINT, RCV24, COND, TGT24's instruction unguarded
  .bra { zB with guard := gd 0 false, hint := 3, rcv := 1 }, .bra { zB with guard := gd 0 false }, .bra { zB with rcv := 1 },
  .brs { zB with cond := 14 }, .brs { zB with cond := 11 }, .call { zB with d := .s 2, guard := gd 0 false },
  -- Format X: TILE, XFL, EXT32, the register groups
  .qinv { zX with a := .s 1, tile := 1 }, .mclr { zX with xfl := 1 }, .mxv { zX with ext := 30 }, .mld { zX with a := .s 2, b := .none, c := .none, ext := 3 },
  .mld { zX with a := .s 2, b := .none, c := .none, xfl := 2 }, .qmk { zX with d := .s 1, a := .s 4, b := .s 3 },
  .cpy { zX with a := .s 2, b := .s 4, c := .s 6, xfl := 0xA }, .lnch { zX with d := .s 1, a := .s 8, b := .s 3 },
  .cnclLaunch { zX with d := .none, a := .s 3, ext := 4 }]

theorem test_illFormed : illFormed.all (fun i => !i.wellFormed) = true := by decide +kernel

theorem test_wellFormed_event : (Instr.packageReset).wellFormed = true := rfl

/-! Decoding. -/

/-- Each word decodes to its instruction, and the instruction is well-formed and encodes to the word. -/
def decodes (l : List (Nat × Instr)) : Bool :=
  l.all fun p => decodeTableWord 96 p.1 = some p.2 && p.2.wellFormed && encode p.2 = some (BitVec.ofNat 96 p.1)

/-- A zero word is no instruction, nor is one with bit 35, with a reserved bit of its format, or of an unassigned opcode. -/
theorem test_decode_refuses :
    [0, 0x800000200, 2 ^ 88 + 0x200, 2 ^ 71 + 0x0000_0000_00FE_0000_0000_0180, 0x019, 0x3FF].all (fun w => (decodeTableWord 96 w).isNone) = true := by
  decide +kernel

/-- Words of the scalar family, written out from 07 R235 to R246, and what they stand for. -/
theorem test_decode_scalar : decodes [
  (0x000000000042043035051001, .sadd { zR with d := .s 4, a := .s 1, b := .s 2, ty := .n16, guard := gd 3 false, mod := { zR.mod with sat := true } }),
  (0x000000000042043035051002, .ssub { zR with d := .s 4, a := .s 1, b := .s 2, ty := .n16, guard := gd 3 false, mod := { zR.mod with sat := true } }),
  (0x000000000042043035051003, .smul { zR with d := .s 4, a := .s 1, b := .s 2, ty := .n16, guard := gd 3 false, mod := { zR.mod with sat := true } }),
  (0x00000000009F004001064C04, .smulh { zR with d := .g 3, a := .s 1, b := .g 15, ty := .i8 }),
  (0x007FFFFF48FF00600119F805, .smad { zR with d := .s 62, a := .s 6, b := .imm, c := .s 8, ty := .i64, ext := 8388607 }),
  (0x00000000004E0070FD312806, .sdiv { zR with d := .s 10, a := .s 12, b := .s 14, ty := .n64, guard := gd 15 true }),
  (0x00000000004E0070FD312807, .srem { zR with d := .s 10, a := .s 12, b := .s 14, ty := .n64, guard := gd 15 true }),
  (0x00000000004E0070FD312808, .smin { zR with d := .s 10, a := .s 12, b := .s 14, ty := .n64, guard := gd 15 true }),
  (0x00000000004E0070FD312809, .smax { zR with d := .s 10, a := .s 12, b := .s 14, ty := .n64, guard := gd 15 true }),
  (0x00000000004E0070FD31280A, .sand { zR with d := .s 10, a := .s 12, b := .s 14, ty := .n64, guard := gd 15 true }),
  (0x00000000004E0070FD31280B, .sor { zR with d := .s 10, a := .s 12, b := .s 14, ty := .n64, guard := gd 15 true }),
  (0x00000000004E0070FD31280C, .sxor { zR with d := .s 10, a := .s 12, b := .s 14, ty := .n64, guard := gd 15 true }),
  (0x00000000004D04600131280D, .sshl { zR with d := .s 10, a := .s 12, b := .s 13, ty := .i64, mod := { zR.mod with sat := true } }),
  (0x0000001F00FF00500131280E, .sshr { zR with d := .s 10, a := .s 12, b := .imm, ext := 31, ty := .n8 }),
  (0x0000001F00FF00500131280F, .ssra { zR with d := .s 10, a := .s 12, b := .imm, ext := 31, ty := .n8 }),
  (0x00001F0500FF001001090410, .sbfx { zR with d := .s 1, a := .s 2, b := .imm, ext := 7941, ty := .n32 }),
  (0x000000004443000001090411, .sbfi { zR with d := .s 1, a := .s 2, b := .s 3, c := .s 4 }),
  (0x000000000000007001292412, .sclz { zR with d := .s 9, a := .s 10, ty := .n64 }),
  (0x000000000000007001292413, .spop { zR with d := .s 9, a := .s 10, ty := .n64 }),
  (0x00000000074200200107F814, .scmp { zR with d := .none, a := .s 1, b := .s 2, c := .v 7, ty := .i16 }),
  (0x000000000546006001110815, .ssel { zR with d := .s 2, a := .s 4, b := .s 6, c := .v 5, ty := .i64 }),
  (0x000000000000000002669C16, .smov { zR with d := .f 7, a := .g 9 }),
  (0x00FFFFFFFF00001000028417, .sli { zI with d := .f 1, imm := 4294967295, ty := .n32 }),
  (0x000000000647007001110818, .slea { zR with d := .s 2, a := .s 4, b := .s 7, c := .v 6, ty := .n64 })] = true := by decide +kernel

/-- Words of the vector family, written out from 07 R235 to R246, and what they stand for. -/
theorem test_decode_vector : decodes [
  (0x00000000004204551C04FC80, .vadd { zR with d := .v 63, a := .v 1, b := .s 2, ty := .n8, guard := gd 1 true, lr := 5, mod := { zR.mod with sat := true } }),
  (0x00000000004204551C04FC81, .vsub { zR with d := .v 63, a := .v 1, b := .s 2, ty := .n8, guard := gd 1 true, lr := 5, mod := { zR.mod with sat := true } }),
  (0x00000000004204551C04FC82, .vmul { zR with d := .v 63, a := .v 1, b := .s 2, ty := .n8, guard := gd 1 true, lr := 5, mod := { zR.mod with sat := true } }),
  (0x00000000009F002000064C83, .vmulh { zR with d := .g 3, a := .v 1, b := .g 15, ty := .i16 }),
  (0x0080000048FF040000181484, .vmad { zR with d := .v 5, a := .v 6, b := .imm, c := .s 8, ext := 8388608, mod := { zR.mod with sat := true } }),
  (0x000000000000044000181485, .vabs { zR with d := .v 5, a := .v 6, ty := .i8, mod := { zR.mod with sat := true } }),
  (0x000000000000047000181086, .vneg { zR with d := .v 4, a := .v 6, ty := .n64, mod := { zR.mod with sat := true } }),
  (0x00000000000E0062FC302887, .vmin { zR with d := .v 10, a := .v 12, b := .v 14, ty := .i64, guard := gd 15 true, lr := 2 }),
  (0x00000000000E0062FC302888, .vmax { zR with d := .v 10, a := .v 12, b := .v 14, ty := .i64, guard := gd 15 true, lr := 2 }),
  (0x00000000000E0062FC302889, .vand { zR with d := .v 10, a := .v 12, b := .v 14, ty := .i64, guard := gd 15 true, lr := 2 }),
  (0x00000000000E0062FC30288A, .vor { zR with d := .v 10, a := .v 12, b := .v 14, ty := .i64, guard := gd 15 true, lr := 2 }),
  (0x00000000000E0062FC30288B, .vxor { zR with d := .v 10, a := .v 12, b := .v 14, ty := .i64, guard := gd 15 true, lr := 2 }),
  (0x00000000000000300030288C, .vnot { zR with d := .v 10, a := .v 12, ty := .n16 }),
  (0x00000000000D04600030288D, .vshl { zR with d := .v 10, a := .v 12, b := .v 13, ty := .i64, mod := { zR.mod with sat := true } }),
  (0x0000001F00FF00500030288E, .vshr { zR with d := .v 10, a := .v 12, b := .imm, ext := 31, ty := .n8 }),
  (0x0000001F00FF00500030288F, .vsra { zR with d := .v 10, a := .v 12, b := .imm, ext := 31, ty := .n8 }),
  (0x00000000000C0030002C2890, .vrot { zR with d := .v 10, a := .v 11, b := .v 12, ty := .n16 }),
  (0x00001F0500FF001000080491, .vbfx { zR with d := .v 1, a := .v 2, b := .imm, ext := 7941, ty := .n32 }),
  (0x000000000403000400080492, .vbfi { zR with d := .v 1, a := .v 2, b := .v 3, c := .v 4, lr := 4 }),
  (0x000000000000007000282493, .vclz { zR with d := .v 9, a := .v 10, ty := .n64 }),
  (0x000000000000007000282494, .vpop { zR with d := .v 9, a := .v 10, ty := .n64 }),
  (0x000000000000004000282495, .vbrev { zR with d := .v 9, a := .v 10, ty := .i8 }),
  (0x000000000702002000063C96, .vcmp { zR with d := .k 15, a := .v 1, b := .v 2, c := .v 7, ty := .i16 }),
  (0x000000008506006000100897, .vsel { zR with d := .v 2, a := .v 4, b := .v 6, c := .k 5, ty := .i64 }),
  (0x000000000000007001182098, .vmov { zR with d := .v 8, a := .s 6, ty := .n64 }),
  (0x008000000100006000000899, .vli { zI with d := .v 2, imm := 2147483649, ty := .i64 }),
  (0x00000001040304000008049A, .vdot4 { zR with d := .v 1, a := .v 2, b := .v 3, c := .v 4, ext := 1, mod := { zR.mod with sat := true } }),
  (0x00000000060700700010089B, .vlea { zR with d := .v 2, a := .v 4, b := .v 7, c := .v 6, ty := .n64 }),
  (0x0000000C00FF00100000249C, .vlane { zR with d := .v 9, b := .imm, ext := 12, ty := .n32 })] = true := by decide +kernel

/-- Words of the float family, written out from 07 R235 to R246, and what they stand for. -/
theorem test_decode_float : decodes [
  (0x0000000000038A9000080500, .fadd { zR with d := .v 1, a := .v 2, b := .v 3, ty := .f16, mod := { zR.mod with rnd := 2, nega := true, absb := true } }),
  (0x0000000000038A9000080501, .fsub { zR with d := .v 1, a := .v 2, b := .v 3, ty := .f16, mod := { zR.mod with rnd := 2, nega := true, absb := true } }),
  (0x0000000000038A9000080502, .fmul { zR with d := .v 1, a := .v 2, b := .v 3, ty := .f16, mod := { zR.mod with rnd := 2, nega := true, absb := true } }),
  (0x0000000000038A9000080515, .fdiv { zR with d := .v 1, a := .v 2, b := .v 3, ty := .f16, mod := { zR.mod with rnd := 2, nega := true, absb := true } }),
  (0x00000000040373A000080503, .ffma { zR with d := .v 1, a := .v 2, b := .v 3, c := .v 4, ty := .bf16, mod := { zR.mod with rnd := 3, negc := true, absa := true, negb := true } }),
  (0x0003F80000FF088000080504, .fmin { zR with d := .v 1, a := .v 2, b := .imm, ext := 260096, ty := .f32, mod := { zR.mod with nega := true } }),
  (0x0003F80000FF088000080505, .fmax { zR with d := .v 1, a := .v 2, b := .imm, ext := 260096, ty := .f32, mod := { zR.mod with nega := true } }),
  (0x0000000007030080000A0906, .fcmp { zR with d := .k 2, a := .v 2, b := .v 3, c := .v 7, ty := .f32 }),
  (0x00000000000000A001080507, .fclass { zR with d := .v 1, a := .s 2, ty := .bf16 }),
  (0x000000000000408024080508, .frcp { zR with d := .v 1, a := .v 2, ty := .f32, guard := gd 2 false, mod := { zR.mod with absa := true } }),
  (0x000000000000408024080509, .frsq { zR with d := .v 1, a := .v 2, ty := .f32, guard := gd 2 false, mod := { zR.mod with absa := true } }),
  (0x00000000000040802408050B, .fexp2 { zR with d := .v 1, a := .v 2, ty := .f32, guard := gd 2 false, mod := { zR.mod with absa := true } }),
  (0x00000000000040802408050C, .flog2 { zR with d := .v 1, a := .v 2, ty := .f32, guard := gd 2 false, mod := { zR.mod with absa := true } }),
  (0x00000000000040802408050D, .fsin { zR with d := .v 1, a := .v 2, ty := .f32, guard := gd 2 false, mod := { zR.mod with absa := true } }),
  (0x00000000000040802408050E, .fcos { zR with d := .v 1, a := .v 2, ty := .f32, guard := gd 2 false, mod := { zR.mod with absa := true } }),
  (0x00000000000040802408050F, .ftanh { zR with d := .v 1, a := .v 2, ty := .f32, guard := gd 2 false, mod := { zR.mod with absa := true } }),
  (0x00000000000009900008050A, .fsqrt { zR with d := .v 1, a := .v 2, ty := .f16, mod := { zR.mod with rnd := 1, nega := true } }),
  (0x000000000000099000080510, .frnd { zR with d := .v 1, a := .v 2, ty := .f16, mod := { zR.mod with rnd := 1, nega := true } }),
  (0x000000060000028000100911, .fcvt { zR with d := .v 2, a := .v 4, ty := .f32, ext := 6, mod := { zR.mod with rnd := 2 } }),
  (0x000000000005018000100912, .fscale { zR with d := .v 2, a := .v 4, b := .v 5, ty := .f32, mod := { zR.mod with rnd := 1 } }),
  (0x000000340000009000100913, .fxpk { zR with d := .v 2, a := .v 4, ty := .f16, ext := 52 }),
  (0x00000008000003A000100914, .fxup { zR with d := .v 2, a := .v 4, ty := .bf16, ext := 8, mod := { zR.mod with rnd := 3 } })] = true := by decide +kernel

/-- Words of the memory family, written out from 07 R235 to R246, and what they stand for. -/
theorem test_decode_memory : decodes [
  (0x800000600049460314181180, .ld { zM with d := .v 4, a := .v 6, b := .s 9, scale := 3, off := 524288, width := 4, ord := 1, scope := 4, guard := gd 1 false, lr := 3 }),
  (0xFFFFF00008FE399001080181, .st { zM with a := .s 2, b := .none, c := .v 8, space := 1, width := 3, ord := 2, scope := 3, off := 1048575 }),
  (0x00000022004980A0028D1182, .lds { zM with d := .s 4, a := .f 3, b := .s 9, scale := 1, space := 2, width := 1, sx := true, ncls := 2 }),
  (0x0000000149FE010001200183, .sts { zM with a := .s 8, b := .none, c := .s 9, width := 2, ncls := 1 }),
  (0x0000070048094D8001181184, .atom { zM with d := .v 4, a := .s 6, b := .v 9, c := .s 8, width := 3, aop := 7, ord := 3, scope := 4 }),
  (0x000000000009152002981185, .ldlk { zM with d := .v 4, a := .f 6, b := .v 9, space := 2, width := 2, ord := 1, scope := 1 }),
  (0x0000000003091920029A1186, .stul { zM with d := .k 4, a := .f 6, b := .v 9, c := .v 3, space := 2, width := 2, ord := 2, scope := 1 }),
  (0x000000090000000000000187, .fenceAcq { zR with ext := 9 }),
  (0x0000000E0000000000000187, .fenceRel { zR with ext := 14 }),
  (0x000000130000000000000187, .fenceSc { zR with ext := 19 }),
  (0x0000000200FE021000180188, .pfm { zM with a := .v 6, b := .none, space := 1, width := 4, ncls := 2 }),
  (0x00000000000000002C181189, .cvta { zR with d := .v 4, a := .v 6, guard := gd 2 true }),
  (0x07000100000000000112858A, .falloc { zI with d := .f 1, a := .s 4, imm := 65536, ext8 := 7 }),
  (0x090000020045000001210D8A, .fallocC { zI with d := .s 3, a := .s 8, b := .s 5, imm := 512, ext8 := 9 }),
  (0x00FFFFFF00FF00000001058B, .fopen { zR with d := .s 1, b := .imm, ext := 16777215 }),
  (0x00000000000000000284018C, .ffree { zR with a := .f 1 }),
  (0x000000000000000002840190, .fdrop { zR with a := .f 1 }),
  (0x00000000000000000285098D, .fbind { zR with d := .s 2, a := .f 1 }),
  (0x00000001000000000107F98D, .fbindB { zR with d := .none, a := .s 1, ext := 1 }),
  (0x00000000000000000285098E, .fdone { zR with d := .s 2, a := .f 1 }),
  (0x0003FFFC000000000285098F, .frwaitSt { zR with d := .s 2, a := .f 1, ext := 262140 }),
  (0x00000005444300000285098F, .frwaitW { zR with d := .s 2, a := .f 1, b := .s 3, c := .s 4, ext := 5 }),
  (0x0000000A000000000001098F, .frwaitCap { zR with d := .s 2, ext := 10 }),
  (0x000000020000000001050991, .fquery { zR with d := .s 2, a := .s 1, ext := 2 })] = true := by decide +kernel

/-- Words of the control family, written out from 07 R235 to R246, and what they stand for. -/
theorem test_decode_control : decodes [
  (0x000000000000000000000200, .nop zR),
  (0x00000580000002007C000201, .bra { zB with guard := gd 7 true, hint := 2, tgt := 8388608, rcv := 5 }),
  (0x0000007FFFFF00D074000202, .brs { zB with cond := 13, tgt := 8388607, guard := gd 7 false }),
  (0x000000000000000001180203, .jmp { zR with a := .s 6 }),
  (0x000000123456000000000A04, .call { zB with d := .v 2, tgt := 1193046 }),
  (0x000000000000000100080205, .ret { zR with a := .v 2, lr := 1 }),
  (0x00000000000000009C000206, .exit { zR with guard := gd 9 true }),
  (0x0000000F0000000000000207, .bar { zR with ext := 15 }),
  (0x0000000E0000000000000208, .barr { zR with ext := 14 }),
  (0x0000000D0000000000000209, .barw { zR with ext := 13 }),
  (0x000000FE000000000000020A, .wcnt { zR with ext := 254 }),
  (0x00000000009400000000020B, .sleep { zR with b := .g 4 }),
  (0x00000000000000000000020C, .yield zR),
  (0x000000FFFFFF00900000020D, .pfi { zB with tgt := 16777215, cond := 9 }),
  (0x0000FFFF00000000150C020E, .trap { zR with a := .s 3, ext := 65535, guard := gd 1 false }),
  (0x00008001000000000000020F, .brk { zR with ext := 32769 }),
  (0x008000010000000000080210, .brx { zR with a := .v 2, ext := 8388609 })] = true := by decide +kernel

/-- Words of the lanes family, written out from 07 R235 to R246, and what they stand for. -/
theorem test_decode_lanes : decodes [
  (0x0000000317FF006000100A80, .shfl { zR with d := .v 2, a := .v 4, b := .imm, c := .v 23, ty := .i64, ext := 3 }),
  (0x0000000002000000020E0A81, .vote { zR with d := .k 2, a := .k 3, c := .v 2 }),
  (0x0000001F00FF00000011EA82, .bal { zR with d := .s 58, a := .v 4, b := .imm, ext := 31 }),
  (0x000000068300028000124A83, .redux { zR with d := .g 2, a := .v 4, c := .k 3, ty := .f32, ext := 6, mod := { zR.mod with rnd := 2 } }),
  (0x000000350000001000100A84, .scan { zR with d := .v 2, a := .v 4, ty := .n32, ext := 53 }),
  (0x000000000043006000100A85, .bcast { zR with d := .v 2, a := .v 4, b := .s 3, ty := .i64 }),
  (0x000000000003000000100A86, .perm { zR with d := .v 2, a := .v 4, b := .v 3 }),
  (0x00000000008F1800020A0687, .kand { zR with d := .k 1, a := .k 2, b := .k 15, mod := { zR.mod with negb := true, nega := true } }),
  (0x00000000008F1800020A0688, .kor { zR with d := .k 1, a := .k 2, b := .k 15, mod := { zR.mod with negb := true, nega := true } }),
  (0x00000000008F1800020A0689, .kxor { zR with d := .k 1, a := .k 2, b := .k 15, mod := { zR.mod with negb := true, nega := true } }),
  (0x00000000000000003E0A068A, .knot { zR with d := .k 1, a := .k 2, guard := gd 3 true }),
  (0x00000000000000003E0A068B, .kmov { zR with d := .k 1, a := .k 2, guard := gd 3 true }),
  (0x00000000000000000209068C, .kpop { zR with d := .s 1, a := .k 2 }),
  (0x00000000000000000209068D, .kfst { zR with d := .s 1, a := .k 2 }),
  (0x000000000000000001F6068E, .kfrom { zR with d := .k 1, a := .s 61 }),
  (0x00000000000000000225EA8F, .kto { zR with d := .s 58, a := .k 9 })] = true := by decide +kernel

/-- Words of the engines family, written out from 07 R235 to R246, and what they stand for. -/
theorem test_decode_engines : decodes [
  (0x0000000043420FF001040300, .mmac { zX with a := .s 1, b := .s 2, c := .s 3, tile := 127, xfl := 1 }),
  (0x000000000000001000000301, .mclr { zX with tile := 1 }),
  (0x00000014FE44002001080302, .mld { zX with a := .s 2, b := .s 4, c := .none, tile := 2, ext := 20 }),
  (0x0000000245FE083002880303, .mst { zX with a := .f 2, b := .none, c := .s 5, tile := 3, xfl := 1, ext := 2 }),
  (0x0000001D0000004000002704, .mxv { zX with d := .v 9, tile := 4, ext := 29 }),
  (0x0000001C0000005000240305, .mvx { zX with a := .v 9, tile := 5, ext := 28 }),
  (0x0000007F0043000001210706, .qmk { zX with d := .s 1, a := .s 8, b := .s 3, ext := 127 }),
  (0x000000000043080001190706, .qmkM { zX with d := .s 1, a := .s 6, b := .s 3, xfl := 1 }),
  (0x000000000000000015180307, .qinv { zX with a := .s 6, guard := gd 1 false }),
  (0x00001FFF4744100001080308, .cpy { zX with a := .s 2, b := .s 4, c := .s 7, xfl := 2, ext := 8191 }),
  (0x000120004844F00001080308, .cpyRa { zX with a := .s 2, b := .s 4, c := .s 8, xfl := 30, ext := 73728 }),
  (0x000000004644280001080B09, .cpyg { zX with d := .v 2, a := .s 2, b := .s 4, c := .s 6, xfl := 5 }),
  (0x000000004544000002890B0A, .grinit { zX with d := .s 2, a := .f 2, b := .s 4, c := .s 5 }),
  (0x0000000F4544080002890B0A, .grinitRe { zX with d := .s 2, a := .f 2, b := .s 4, c := .s 5, xfl := 1, ext := 15 }),
  (0x000000000000000001150B0B, .grget { zX with d := .s 2, a := .s 5 }),
  (0x000000000000080001150B0C, .grputRes { zX with d := .s 2, a := .s 5, xfl := 1 }),
  (0x00000000000000000114030C, .grput { zX with a := .s 5 }),
  (0x00000000000000000114030D, .grrel { zX with a := .s 5 }),
  (0x00000000000000000120030E, .stch { zX with a := .s 8 }),
  (0x00000000004300000141070F, .lnch { zX with d := .s 1, a := .s 16, b := .s 3 }),
  (0x0000000000000000010FFB10, .cnclLaunch { zX with d := .none, a := .s 3, ext := 0 }),
  (0x0000000100000000010FFB10, .cnclGraph { zX with d := .none, a := .s 3, ext := 1 }),
  (0x0000000200000000010FFB10, .cnclJob { zX with d := .none, a := .s 3, ext := 2 }),
  (0xDEADBEEF0000000000000311, .pwrh { zX with ext := 3735928559 })] = true := by decide +kernel

/-- Words of the system family, written out from 07 R235 to R246, and what they stand for. -/
theorem test_decode_system : decodes [
  (0x000000180000007000010B80, .rds { zR with d := .s 2, ty := .n64, ext := 24 }),
  (0x000000280000007001080381, .wrs { zR with a := .s 2, ty := .n64, ext := 40 }),
  (0x000000000000000000000382, .tret zR),
  (0x0000020000FE021000180383, .cinv { zM with a := .v 6, b := .none, width := 4, aop := 2, space := 1 }),
  (0x0000000000FE001001180384, .cflush { zM with a := .s 6, b := .none, space := 1 }),
  (0x0000000000FE000001080385, .tlbinvAddr { zR with a := .s 2, b := .none, ext := 0 }),
  (0x0000000100FE000001080385, .tlbinvCtx { zR with a := .s 2, b := .none, ext := 1 }),
  (0x0000000200FE000001080385, .tlbinvRng { zR with a := .s 2, b := .none, ext := 2 }),
  (0x000000000045000001090786, .ctxsv { zR with d := .s 1, a := .s 2, b := .s 5 }),
  (0x000000000045000001090787, .ctxld { zR with d := .s 1, a := .s 2, b := .s 5 }),
  (0x000000000045000001090788, .capset { zR with d := .s 1, a := .s 2, b := .s 5 }),
  (0x000000000000000001080389, .blst { zR with a := .s 2 }),
  (0x00000000000000000000038A, .halt zR)] = true := by decide +kernel

/-! States and operands that meet the hypotheses of each statement of the certificates. -/

/-- A warp about to issue, with every field of its state as a program's start leaves it. -/
def b0 : State := State.reset.withFetchWord 96 0x200

def onCore (s : State) (f : Core → Core) : State := s.modCore 0 f
def onWarp (s : State) (f : Warp → Warp) : State := s.modWarp 0 0 f
def onFrag (s : State) (f : Frag → Frag) : State := s.modFrag 0 0 0 f
def onWg (s : State) (f : Wg → Wg) : State := s.modCore 0 fun k => k.modWg 0 f
/-- The s registers of the issuing warp, by rising number. -/
def regs (l : List (Nat × Word)) (s : State) : State := onWarp s fun w => { w with s := l }
/-- Every lane of a v register the same. -/
def vreg (x : Word) : VReg := { val := Lanes.splat x, dead := 0 }
/-- k0 holds lane 0 alone, so a guard on it leaves one active lane. -/
def b1 : State := onWarp b0 fun w => { w with k := [(0, 1)] }
/-- That guard. -/
def g0 : Guard := gd 0 false

/-- What issues. -/
def the (s : State) : Iss :=
  s.iss.getD { c := 0, wi := 0, fi := 0, core := Core.reset, w := placedWarp 0x80, late := false, strict := true
               f := ((placedWarp 0x80).frags.headD (0, { state := .ready, lvl := 0, rpl := false, held := false, trm := false
                                                         pc := 0, rcd := none, wait := .none, ptrap := 0, mask := 0, pend := 0
                                                         priv := 0, fids := [], notes := [], step := false, stepped := false
                                                         age := 0, deferred := false, sides := [], entry := none
                                                         behind := none, quires := none, half := [] })).2 }

def okNow (s : State) : Bool :=
  s.iss.isSome && !(the s).spec && (the s).f.sides.isEmpty && (the s).w.kpend.isEmpty && (the s).w.vpend.isEmpty && (the s).wg.isSome

theorem issued {s : State} (h : okNow s = true) : Issued s (the s) := by
  simp only [okNow, Bool.and_eq_true, Bool.not_eq_true', List.isEmpty_iff] at h
  obtain ⟨⟨⟨⟨⟨h1, h2⟩, h3⟩, h4⟩, h5⟩, h6⟩ := h
  refine ⟨?_, h2, h3, h4, h5, h6⟩
  obtain ⟨i, hi⟩ := Option.isSome_iff_exists.mp h1
  simp [the, hi]

theorem room_of {i : Iss} {lr : BitVec 3} {wide : Bool} {d : Operand}
    (h : (i.wg.all fun g => decide (i.w.v.length + regsOf wide ≤ g.live)) = true) : i.room lr wide d := by
  right
  intro g hg
  simpa [hg] using h

theorem roomFor_of {i : Iss} {n : Nat} (h : (i.wg.all fun g => decide (i.w.v.length + n ≤ g.live)) = true) : roomFor i n := by
  intro g hg
  simpa [hg] using h

theorem granted_of {l : List (Nat × LaneOut)}
    (h : (l.all fun o => match o.2 with | .go _ => true | .gone => true | _ => false) = true) : Granted l := by
  intro o ho
  have := List.all_eq_true.mp h o ho
  split at this
  · exact .inl ⟨_, by assumption⟩
  · exact .inr (by assumption)
  · simp at this

theorem free_of {s : State} {i : Iss} {acc : Acc} {bulk : Option Nat} {outs : List (Nat × LaneOut)}
    (h : (i.w.quanta.isEmpty && i.core.linesFit (requestLines (goLanes outs)) &&
      !s.waitsGrant i.c acc bulk (allPieces (goLanes outs))) = true) : Free s i acc bulk outs := by
  simp only [Bool.and_eq_true, Bool.not_eq_true', List.isEmpty_iff] at h
  exact ⟨h.1.2, h.2, by simp [h.1.1]⟩

/-- The second of two fragments of the issuing warp. -/
def twin (f : Frag → Frag) (s : State) : State :=
  onWarp s fun w => { w with frags := (FMap.set w.frags 1 (f ((the s).f))) }
/-- A second line of marked targets, at slot address 0x88. -/
def line2 (s : State) : State := s.mwrite 0x440 64 (placedLine 0x200)

theorem issAt_of {s : State} (h : okNow s = true) (hc : s.cur = { core := 0, warp := 0, frag := 0, late := false })
    (hi : (the s).c = 0 ∧ (the s).wi = 0 ∧ (the s).fi = 0) : s.issAt (the s).c (the s).wi (the s).fi = some (the s) := by
  rw [hi.1, hi.2.1, hi.2.2]
  show State.iss { s with cur := { core := 0, warp := 0, frag := 0, late := false } } = _
  rw [← hc]
  exact (issued h).iss

def sAdd (d : Operand) (g : Guard) : Instr := .sadd { zR with a := .s 1, d := d, b := .s 2, guard := g }

/-- A word for s63, in a fragment without a record or under one, with a free entry or with none. -/
def mMask : Instr := .smov { zR with a := .s 1, d := .s 63 }
def rec2 : Rec := { addr := 0x88, expect := ~~~0, arrive := 0, outer := none }
def fullSplit (s : State) : State := onWarp s fun w => { w with frags := (List.range Config.fragEntries).map fun n => (n, (the s).f) }
def bMask (v : Word) (r : Option Nat) (full : Bool) : State :=
  let s := onWarp (onFrag (regs [(1, v)] b0) fun f => { f with rcd := r }) fun w => { w with recs := [(2, rec2)] }
  if full then fullSplit s else s

/-- D the last register that no mask is, and the last even pair; a guard that no lane passes; and a mask register, alone and in a
pair. -/
theorem witness_ScalarCompletes :
    (∃ s i x g w d v fl, Issued s i ∧ scalarResult i x = some (g, w, d, v, fl) ∧ scalarDst w d ∧ d = .s 60 ∧ i.scalarGo g = true) ∧
    (∃ s i x g d v fl, Issued s i ∧ scalarResult i x = some (g, true, d, v, fl) ∧ scalarDst true d ∧ d = .s 58 ∧
      i.scalarGo g = true) ∧
    (∃ s i x g w d v fl, Issued s i ∧ scalarResult i x = some (g, w, d, v, fl) ∧ i.scalarGo g = false) ∧
    (∀ v r full, (v = (~~~0 : Word) ∨ v = 0) → (r = none ∨ r = some 2) → let s := bMask v r full
      Issued s (the s) ∧ scalarResult (the s) mMask = some (zR.guard, false, .s 63, v.setWidth 64, (the s).w.sflags) ∧
        (the s).scalarGo zR.guard = true ∧ ((the s).f.mask &&& ~~~(Claims.keepOf false 63 (v.setWidth 64)) = 0 ↔ v = ~~~0) ∧
        (the s).f.rcd = r ∧ FMap.get (the s).w.recs 2 = some rec2 ∧ (the s).w.freeEntry = (if full then none else some 1) ∧
        FMap.sorted (the s).w.frags = true ∧
        subMask (rec2.expect &&& (the s).w.live) (rec2.arrive ||| ((the s).f.mask &&& ~~~(Claims.keepOf false 63 0))) = false) ∧
    ∃ s i x g v fl, Issued s i ∧ scalarResult i x = some (g, true, .s 60, v, fl) ∧ i.scalarGo g = true :=
  ⟨⟨b0, the b0, sAdd (.s 60) zR.guard, _, _, _, _, _, issued (by decide +kernel), rfl, by simp [scalarDst, zR, zeroR, Ty.is64], rfl, by decide +kernel⟩,
   ⟨b0, the b0, .slea { zR with a := .s 2, d := .s 58, b := .s 4 }, _, _, _, _, issued (by decide +kernel), rfl, by simp [scalarDst], rfl,
    by decide +kernel⟩,
   ⟨b0, the b0, sAdd (.s 1) g0, _, _, _, _, _, issued (by decide +kernel), rfl, by decide +kernel⟩, by
    rintro v r full (rfl | rfl) (rfl | rfl) <;> cases full <;>
      exact ⟨issued (by decide +kernel), by decide +kernel, by decide +kernel, by decide +kernel, by decide +kernel, by decide +kernel,
        by decide +kernel, by decide +kernel, by decide +kernel⟩,
   b0, the b0, .slea { zR with a := .s 2, d := .s 60, b := .s 4 }, _, _, _, issued (by decide +kernel), rfl, by decide +kernel⟩

/-- A warp of a live peak that has v0 to v61. -/
def bPeak (live : Nat) : State :=
  onWg (onWarp b0 fun w => { w with v := (List.range 62).map fun q => (q, vreg 7) }) fun g => { g with live := live }

/-- With room for a new register, and with a register that is there; and with no room for the first or for the second of a pair. -/
theorem witness_VectorCompletes :
    (∃ s i x g lr w d r, Issued s i ∧ vectorResult i x = some (g, lr, w, d, r) ∧ vectorDst w d ∧ i.room lr w d ∧ d = .v 63) ∧
    (∃ s i x g d r, Issued s i ∧ vectorResult i x = some (g, 0, true, d, r) ∧ vectorDst true d ∧ i.room 0 true d ∧
      i.w.v.length = 64) ∧
    ∀ n, n = 62 ∨ n = 63 → let s := bPeak n
      ∃ x r wg, Issued s (the s) ∧ vectorResult (the s) x = some (zR.guard, 0, true, .v 62, r) ∧ vectorDst true (.v 62) ∧
        (the s).active zR.guard ≠ 0 ∧ (the s).wg = some wg ∧
        ((dstNames (.v 62) 2).filter fun y => !FMap.has (the s).w.v y)[wg.live - (the s).w.v.length]? = some n :=
  ⟨⟨b0, the b0, .vadd { zR with d := .v 63, b := .v 1 }, _, _, _, _, _, issued (by decide +kernel), rfl,
    by simp [vectorDst, zR, zeroR, Ty.is64], room_of (by decide +kernel), rfl⟩,
   let s := onWarp b0 fun w => { w with v := (List.range 64).map fun n => (n, vreg 7) }
   ⟨s, the s, .vlea { zR with d := .v 62, a := .v 2, b := .v 4 }, _, _, _, issued (by decide +kernel), rfl, by simp [vectorDst],
    .inl ⟨rfl, by decide +kernel⟩, by decide +kernel⟩, by
    rintro n (rfl | rfl) <;>
      exact ⟨.vlea { zR with d := .v 62, a := .v 2, b := .v 4 }, _, _, issued (by decide +kernel), rfl, by simp [vectorDst],
        by decide +kernel, rfl, by decide +kernel⟩⟩

theorem witness_FloatCompletes :
    ∃ s i x f w r, Issued s i ∧ floatResult i x = some (f, w, r) ∧ vectorDst w f.d ∧ i.room f.lr w f.d :=
  ⟨b0, the b0, .fadd { zR with d := .v 63, b := .v 1, ty := .f32 }, _, _, _, issued (by decide +kernel), rfl,
    by simp [vectorDst], room_of (by decide +kernel)⟩

theorem witness_CompareCompletes : ∃ (s : State) (i : Iss) (f : RForm) (n : BitVec 4), Issued s i ∧ f.d = .k n ∧ i.active f.guard ≠ 0 :=
  ⟨b0, the b0, { zR with d := .k 15, b := .v 1 }, 15, issued (by decide +kernel), rfl, by decide +kernel⟩

theorem witness_PredicateCompletes :
    (∃ s i x f bits n, Issued s i ∧ predicateOf i x = some (f, bits) ∧ f.d = .k n ∧ i.active f.guard ≠ 0) ∧
    (∃ (s : State) (i : Iss) (f : RForm), Issued s i ∧ scalarDst false f.d ∧ i.kBits f.a &&& i.active f.guard ≠ 0) ∧
    ∃ (s : State) (i : Iss) (f : RForm) (n : BitVec 6), Issued s i ∧ f.d = .s n ∧ n.toNat < 59 ∧ n = 58 :=
  ⟨⟨b0, the b0, .kand { zR with d := .k 15, a := .k 1, b := .k 2 }, _, _, 15, issued (by decide +kernel), rfl, rfl, by decide +kernel⟩,
   ⟨b1, the b1, { zR with d := .s 60, a := .k 0 }, issued (by decide +kernel), by simp [scalarDst], by decide +kernel⟩,
   b0, the b0, { zR with d := .s 58, a := .k 0 }, 58, issued (by decide +kernel), rfl, by decide, rfl⟩

/-- Half of a warp's lanes in each of two fragments, the other READY, or parked. -/
def split (f : Frag → Frag) : State :=
  onFrag (twin (fun x => f { x with mask := ~~~(0xFFFF_FFFF : Mask) }) b0) fun x => { x with mask := 0xFFFF_FFFF }

theorem witness_CollectiveCompletes :
    (∃ (s : State) (i : Iss) (f : RForm), Issued s i ∧ i.f.mask = i.w.live ∧ vectorDst f.ty.is64 f.d ∧
      i.room f.lr f.ty.is64 f.d) ∧
    (∃ (s : State) (i : Iss) (f : RForm), Issued s i ∧ i.f.mask = i.w.live ∧ f.d = .k 15) ∧
    (∃ (s : State) (i : Iss) (f : RForm), Issued s i ∧ i.f.mask = i.w.live ∧ scalarDst f.ty.is64 f.d ∧ f.d = .s 58) ∧
    (∃ (s : State) (i : Iss), Issued s i ∧ i.f.mask ≠ i.w.live ∧
      ∀ p ∈ i.w.frags, p.1 = i.fi ∨ p.2.state = .parked ∨ p.2.rpl = true) ∧
    (∃ (s : State) (i : Iss), Issued s i ∧ i.f.mask ≠ i.w.live ∧
      ∃ p ∈ i.w.frags, p.1 ≠ i.fi ∧ p.2.state ≠ .parked ∧ p.2.rpl = false) :=
  ⟨⟨b0, the b0, { zR with d := .v 63 }, issued (by decide +kernel), by decide +kernel, by simp [vectorDst, zR, zeroR, Ty.is64], room_of (by decide +kernel)⟩,
   ⟨b0, the b0, { zR with d := .k 15 }, issued (by decide +kernel), by decide +kernel, rfl⟩,
   ⟨b0, the b0, { zR with d := .s 58 }, issued (by decide +kernel), by decide +kernel, by simp [scalarDst, Ty.is64, zR, zeroR], rfl⟩,
   ⟨split fun x => { x with state := .parked }, the _, issued (by decide +kernel), by decide +kernel, by decide +kernel⟩,
   split id, the _, issued (by decide +kernel), by decide +kernel, by decide +kernel⟩

/-- A global access of lane 0: its base is the v pair 2, 3, its data v 4. -/
def gM (w : BitVec 3) (d : Operand) : MForm :=
  { zM with a := .v 2, b := .none, c := .v 4, d := d, width := w, guard := g0 }
/-- A local access of lane 0 at an offset of the folio that f2 names. -/
def lM (off : BitVec 20) (d : Operand) : MForm :=
  { zM with a := .f 2, b := .none, c := .v 4, d := d, width := 2, guard := g0, space := 2, off := off }
/-- A folio in slot 0, of the context and workgroup of the issuing warp. -/
def fo0 : Folio :=
  { gen := 1, state := .bound, rank := 0, pers := false, clm := none, own := some 0, size := 1, start := 0, handler := 0
    backing := 0, key := 0, ctx := 0, inSewn := false }
def h0 : Word := handleOf 0 1
/-- That folio on the core, its handle in f2, s2 and every lane of v2. -/
def bF (f : Folio → Folio) (s : State) : State :=
  onWarp (onCore s fun k => { k with folios := [(0, f fo0)] }) fun w => { w with
    f := [(2, h0)], s := [(2, h0)], v := [(2, vreg h0)] }
/-- An access by one piece. -/
def pG (pa : Nat) : Piece := { loc := .global pa, bytes := 4, dirty := [], plc := 0, die := 0, backed := false }
def pL (off : Nat) : Piece := { loc := .folio 0 off, bytes := 4, dirty := [], plc := 0, die := 0, backed := false }

theorem traps_of {outs : List (Nat × LaneOut)} (h : (outs.all fun o => match o.2 with | .bad _ _ _ _ _ => true | _ => false) = true) :
    ∀ o ∈ outs, o.2.isMiss = false ∧ ∀ a b, o.2 ≠ .broken a b := by
  intro o ho
  have := List.all_eq_true.mp h o ho
  split at this <;> simp_all [LaneOut.isMiss]

/-- The folio claimed by the warp, its claim lost to another, in the state of a claim that a new one has taken. -/
def goneL : State := bF (fun f => { f with state := .rebinding, clm := some 1 }) (onWarp b1 fun w => { w with revoked := [0] })
/-- The issue says that halves are performed apart. -/
def halves (s : State) : State := { s with cur := { s.cur with late := true } }

/-- A vector load into the last v register, from global memory and from the end of a folio, with a lane whose claim is lost, and a
scalar one into s60, its guard passed or not; the halves of a 16-byte load, apart and the upper ones after the lower; a part at .co
with and without a cached line. -/
theorem witness_LoadCompletes :
    (∀ f ∈ [gM 2 (.v 63), lM 508 (.v 63)], let s := bF id b1
      let outs := s.probes (the s) f .load f.bytes ((the s).active f.guard)
      Issued s (the s) ∧ f.d = .v 63 ∧ Granted outs ∧ outs ≠ [] ∧ Free s (the s) .load (plainClass f) outs ∧
      (the s).splits f outs = false ∧ s.poisoned (the s).c f.scope.toNat (allPieces (goLanes outs)) = false ∧
      roomFor (the s) (regsFor f.bytes)) ∧
    (let f := lM 508 (.v 63)
     Issued goneL (the goneL) ∧ goneL.probes (the goneL) f .load 4 ((the goneL).active f.guard) = [(0, .gone)]) ∧
    (let f := { gM 2 (.s 60) with a := .s 4 }
     Issued b1 (the b1) ∧ (60 : BitVec 6).toNat + regsFor f.bytes ≤ 61 ∧
     (the b1).scalarGo f.guard = true ∧ Granted (b1.scalarProbe (the b1) f .load) ∧
     Free b1 (the b1) .load (plainClass f) (b1.scalarProbe (the b1) f .load) ∧
     (the b1).splits f (b1.scalarProbe (the b1) f .load) = false ∧ b1.poison = [] ∧ (the b0).scalarGo f.guard = false) ∧
    (let s := halves b1
     let f := gM 4 (.v 60)
     let outs := s.probes (the s) f .load f.bytes ((the s).active f.guard)
     Issued s (the s) ∧ (the s).splits f outs = true ∧ s.budgetSpent (the s).c = false ∧ (the s).w.quanta = [] ∧ s.poison = []) ∧
    (let s := onFrag (halves b1) fun x => { x with half := [(0, 7)] }
     let f := gM 4 (.v 60)
     (the s).splits f (s.probes (the s) f .load f.bytes ((the s).active f.guard)) = false) ∧
    FMap.get ((onCore b0 fun k => { k with cdc := [(16, List.replicate 64 7)] }).core 0).cdc ((1024 : Nat) / 64) =
      some (List.replicate 64 7) ∧ FMap.get (b0.core 0).cdc ((1024 : Nat) / 64) = none := by
  refine ⟨?_, ⟨issued (by decide +kernel), by decide +kernel⟩, ⟨issued (by decide +kernel), by decide, by decide +kernel,
    granted_of (by decide +kernel), free_of (by decide +kernel), by decide +kernel, rfl, by decide +kernel⟩,
    ⟨issued (by decide +kernel), by decide +kernel, by decide +kernel, by decide +kernel, rfl⟩, by decide +kernel, by decide +kernel,
    by decide +kernel⟩
  intro f hf
  simp only [List.mem_cons, List.not_mem_nil, or_false] at hf
  rcases hf with rfl | rfl
  · exact ⟨issued (by decide +kernel), rfl, granted_of (by decide +kernel), by decide +kernel, free_of (by decide +kernel),
      by decide +kernel, by decide +kernel, roomFor_of (by decide +kernel)⟩
  · exact ⟨issued (by decide +kernel), rfl, granted_of (by decide +kernel), by decide +kernel, free_of (by decide +kernel),
      by decide +kernel, by decide +kernel, roomFor_of (by decide +kernel)⟩

theorem quiet_of {w : Warp} (h : (w.quanta.isEmpty && w.lostQuanta.isEmpty && w.comps.isEmpty) = true) : Quiet w := by
  simpa [Quiet, and_assoc] using h

theorem released_of {i : Iss} {ord : BitVec 2}
    (h : (i.w.quanta.isEmpty && i.w.lostQuanta.isEmpty && i.w.comps.isEmpty && !i.queueBefore (i.f.behind.getD i.w.queued)) = true) :
    Released i ord := by
  intro _
  simp only [Bool.and_eq_true, Bool.not_eq_true'] at h
  exact ⟨quiet_of (by simp [h.1]), h.2⟩

/-- A vector store to the end of a folio, and a scalar one, a release, whose guard is passed or not; the one part of each is the last
to write its bytes. -/
theorem witness_StoreCompletes :
    (let s := bF id b1
     let f := lM 508 .none
     let outs := s.probes (the s) f .store 4 ((the s).active g0)
     Issued s (the s) ∧ Released (the s) f.ord ∧ Granted outs ∧ Free s (the s) .store (plainClass f) outs ∧
     (the s).splits f outs = false ∧ LastWrite (the s).core ((the s).remaining (goLanes outs)) 0 0 (pL 508)) ∧
    let f := { gM 2 .none with a := .s 4, c := .s 6, ord := 2 }
    let outs := b1.scalarProbe (the b1) f .store
    ordRel f.ord = true ∧ Issued b1 (the b1) ∧ Released (the b1) f.ord ∧ (the b1).scalarGo f.guard = true ∧ Granted outs ∧
      Free b1 (the b1) .store (plainClass f) outs ∧ (the b1).splits f outs = false ∧
      LastWrite (the b1).core ((the b1).remaining (goLanes outs)) 0 0 (pG 0) ∧ (the b0).scalarGo f.guard = false :=
  ⟨⟨issued (by decide +kernel), released_of (by decide +kernel), granted_of (by decide +kernel), free_of (by decide +kernel),
    by decide +kernel, [], [], by decide +kernel, by simp [Kept, pL, touchedPad]⟩,
   by decide, issued (by decide +kernel), released_of (by decide +kernel), by decide +kernel, granted_of (by decide +kernel),
   free_of (by decide +kernel), by decide +kernel, ⟨[], [], by decide +kernel, by simp [Kept, pG, touched]⟩, by decide +kernel⟩

/-- The quantum of a .qnt atomic of 4 bytes at the end of the folio. -/
def qL : Quantum :=
  { loc := .folio 0 508, target := some 0, aop := 0, bytes := 4, scope := 0, sx := false, value := 3, since := 0, dirty := [] }

theorem witness_AtomicCompletes :
    (let f := { gM 3 (.v 6) with aop := 7 }
     let outs := b1.probes (the b1) f .atomic 16 ((the b1).active f.guard)
     Issued b1 (the b1) ∧ Released (the b1) f.ord ∧ f.use ≠ 4 ∧ outs = [(0, .go [{ pG 0 with bytes := 8 }])] ∧
     Free b1 (the b1) .atomic none outs ∧ (the b1).lockedBank ((the b1).padKeys f (goLanes outs)) = none ∧
     roomFor (the b1) (regsFor f.bytes)) ∧
    (∀ q ∈ [[], [qL]], let s := onWarp (bF id b1) fun w => { w with quanta := q }
      let f := { lM 508 .none with use := 4 }
      Issued s (the s) ∧ f.use = 4 ∧ s.probes (the s) f .atomic 4 ((the s).active f.guard) = [(0, .go [pL 508])] ∧
      (the s).core.linesFit (requestLines [(0, [pL 508])]) = true ∧ s.waitsGrant (the s).c .atomic none [pL 508] = false ∧ (the s).targetSlot f 0 = some 0 ∧
      ((the s).core.folio 0).state ≠ .closing ∧ (the s).w.quanta = q ∧ qL.merges f (pL 508).loc = true) := by
  refine ⟨⟨issued (by decide +kernel), released_of (by decide +kernel), by decide, by decide +kernel, free_of (by decide +kernel),
    by decide +kernel, roomFor_of (by decide +kernel)⟩, ?_⟩
  intro q hq
  simp only [List.mem_cons, List.not_mem_nil, or_false] at hq
  rcases hq with rfl | rfl <;>
    exact ⟨issued (by decide +kernel), rfl, by decide +kernel, by decide +kernel, by decide +kernel, by decide +kernel,
      by decide +kernel, by decide +kernel, by decide +kernel⟩

/-- The lock bit of the folio's last line, held by a warp. -/
def locked (w : Nat) : State := onCore (bF id b1) fun k => { k with locks := [(7, { warp := w, lane := 0, since := 0 })] }

/-- A lock bit that is free, one that the warp holds, and one that another holds. -/
theorem witness_LockCompletes :
    (let s := bF id b1
     let f := lM 508 (.v 63)
     let outs := s.probes (the s) f .load f.bytes ((the s).active f.guard)
     Issued s (the s) ∧ f.d = .v 63 ∧ Granted outs ∧ Free s (the s) .load (plainClass f) outs ∧
       s.poisoned (the s).c 3 (allPieces (goLanes outs)) = false ∧ (the s).lockKeys f (goLanes outs) = [(7, 0)] ∧
       (the s).lockedBank (((the s).lockKeys f (goLanes outs)).map (·.1)) = none ∧ roomFor (the s) (regsFor f.bytes)) ∧
    (let s := locked 1
     let f := lM 508 (.v 63)
     let outs := s.probes (the s) f .load f.bytes ((the s).active f.guard)
     Issued s (the s) ∧ (∀ o ∈ outs, o.2.isMiss = false ∧ o.2.isBad = false) ∧
       (the s).lockedBank (((the s).lockKeys f (goLanes outs)).map (·.1)) = some 0) ∧
    let s := locked 0
    let f := lM 508 (.k 15)
    let outs := s.probes (the s) f .store f.bytes ((the s).active f.guard)
    Issued s (the s) ∧ Released (the s) f.ord ∧ f.d = .k 15 ∧ Granted outs ∧ Free s (the s) .store (plainClass f) outs ∧
      outs = [(0, .go [pL 508])] ∧ Claims.holdsLock (the s) ((the s).lockKey f 0 (pL 508)) = true ∧
      Claims.holdsLock (the (locked 1)) 7 = false :=
  ⟨⟨issued (by decide +kernel), rfl, granted_of (by decide +kernel), free_of (by decide +kernel), by decide +kernel,
    by decide +kernel, by decide +kernel, roomFor_of (by decide +kernel)⟩,
   ⟨issued (by decide +kernel), by decide +kernel, by decide +kernel⟩,
   issued (by decide +kernel), released_of (by decide +kernel), rfl, granted_of (by decide +kernel), free_of (by decide +kernel),
   by decide +kernel, by decide +kernel, by decide +kernel⟩

/-- The warp with a pending quantum, one that has been discarded, and one whose line another warp has locked; with a queued store; and
with a compensation owed. -/
def bQt (w : Nat) : State := onWarp (locked w) fun w => { w with quanta := [qL] }
def bLQ : State := onWarp b0 fun w => { w with lostQuanta := [{ handle := h0, off := 508, scope := 0 }] }
def bSQ : State := onWarp (onCore b0 fun k => { k with storeQ := [(0, [{
  warp := 0, seq := 0, record := none, pc := 0x80, bytes := 4, scope := 0, atomic := none, lanes := [] }])] }) fun w => { w with queued := 1 }
def bGQ : State := onWarp b0 fun w => { w with quanta := [{ qL with loc := .global 64, target := none }] }
def bCo : State := onWarp b0 fun w => { w with comps := [{ loc := .global 64, bytes := 4, value := 3, isXor := false, lane := 0 }] }

theorem witness_FenceCompletes :
    Issued b0 (the b0) ∧ (Issued bSQ (the bSQ) ∧ (the bSQ).queueBefore ((the bSQ).f.behind.getD (the bSQ).w.queued) = true) ∧
    (Issued bLQ (the bLQ) ∧ (the bLQ).queueBefore ((the bLQ).f.behind.getD (the bLQ).w.queued) = false ∧
      (the bLQ).quantumLock (fun q => decide (q.scope ≤ 0)) = none ∧ (the bLQ).core.padBad = [] ∧ (the bLQ).w.lostQuanta ≠ []) ∧
    (Issued (bQt 1) (the (bQt 1)) ∧
      (the (bQt 1)).quantumLock (fun q => decide (q.scope ≤ 0)) = some 0) ∧
    (Issued (bQt 0) (the (bQt 0)) ∧
      (the (bQt 0)).quantumLock (fun q => decide (q.scope ≤ 0)) = none ∧ (the (bQt 0)).core.padBad = []) ∧
    (Issued bGQ (the bGQ) ∧ (the bGQ).quantumLock (fun q => decide (q.scope ≤ 0)) = none) ∧
    Issued bCo (the bCo) ∧ (the bCo).w.comps.length = 1 ∧ (the bCo).quantumLock (fun q => decide (q.scope ≤ 0)) = none :=
  ⟨issued (by decide +kernel), ⟨issued (by decide +kernel), by decide +kernel⟩,
   ⟨issued (by decide +kernel), by decide +kernel, by decide +kernel, by decide +kernel, by decide +kernel⟩,
   ⟨issued (by decide +kernel), by decide +kernel⟩, ⟨issued (by decide +kernel), by decide +kernel, by decide +kernel⟩,
   ⟨issued (by decide +kernel), by decide +kernel⟩, issued (by decide +kernel), by decide +kernel, by decide +kernel⟩

theorem witness_ConvertCompletes :
    (let f : RForm := { zR with d := .v 62, a := .v 2 }
     Issued b0 (the b0) ∧ f.d = .v 62 ∧ (62 : BitVec 6).toNat % 2 = 0 ∧ (the b0).room f.lr true f.d ∧
     (the b0).active f.guard ≠ 0) ∧
    let f : RForm := { zR with d := .s 58, a := .s 2 }
    f.d = .s 58 ∧ (58 : BitVec 6).toNat % 2 = 0 ∧ (58 : BitVec 6).toNat < 60 ∧ lowLane ((the b0).active f.guard) = some 0 ∧
      lowLane ((the b0).active g0) = none :=
  ⟨⟨issued (by decide +kernel), rfl, by decide, room_of (by decide +kernel), by decide +kernel⟩,
   rfl, by decide, by decide, by decide +kernel, by decide +kernel⟩

/-- A load one byte past the end of a folio, and a scalar load at an address that is no multiple of 4. -/
theorem witness_AccessTraps :
    (let s := bF id b1
     let f := lM 509 (.v 6)
     let outs := s.probes (the s) f .load f.bytes ((the s).active f.guard)
     Issued s (the s) ∧ (∀ o ∈ outs, o.2.isMiss = false ∧ ∀ a b, o.2 ≠ .broken a b) ∧ ((the s).checkTrap outs).isSome = true) ∧
    let s := regs [(4, 1)] b1
    let f := { gM 2 (.s 60) with a := .s 4 }
    let outs := s.scalarProbe (the s) f .load
    Issued s (the s) ∧ (the s).scalarGo f.guard = true ∧ (∀ o ∈ outs, o.2.isMiss = false ∧ ∀ a b, o.2 ≠ .broken a b) ∧
      ((the s).checkTrap outs).isSome = true :=
  ⟨⟨issued (by decide +kernel), traps_of (by decide +kernel), by decide +kernel⟩, issued (by decide +kernel), by decide +kernel,
   traps_of (by decide +kernel), by decide +kernel⟩

/-- An operand that is the handle of the folio, which is live. -/
def aF : RForm := { zR with a := .s 2, d := .s 58, c := .s 6, b := .s 4 }
/-- falloc operands: rank 7, 512 bytes. -/
def fA : IForm := { zI with d := .s 60, a := .s 8, b := .s 12, imm := 512, ext8 := 7 }
/-- A key and a backing of the second 4 KiB page. -/
def bK : State := regs [(10, 0x1000), (12, 9)] b0
/-- No lit bank is left. -/
def dark (s : State) : State := onCore s fun k => { k with cap := { k.cap with lit := 0, alloc := 0 } }

theorem slots_of {k : Core} (h : (k.folio 4095).state = .free) : k.freeSlots ≠ [] :=
  List.ne_nil_of_mem (a := 4095) (List.mem_filter.mpr ⟨List.mem_range.mpr (by decide), by simp [h]⟩)

/-- Every unit holds capacity, of two folios of rank 0. -/
def bFull : State := onCore bK fun k => { k with folios := [(0, { fo0 with size := 512 }), (1, { fo0 with size := 512, start := 512 })] }
/-- A run of one unit. -/
def spanF (rank start : Nat) (fixed : Bool) : Span := { rank := rank, start := start, len := 1, fixed := fixed, keeper := .folio 0 }

/-- A persistent folio that exists; a place, keyed and not, as it is and once a folio of lower rank has been displaced; no free slot or
no place. -/
theorem witness_FallocCompletes :
    (let s := bK
     Issued s (the s) ∧ (the s).scalarGo fA.guard = true ∧ scalarDst false fA.d ∧
      (the s).core.keyedBefore s.coreClock (the s) ((the s).s32 fA.b 0) = false ∧
      sizeOk (fA.ext8.extractLsb' 0 3).toNat fA.imm.toNat = true ∧ (the s).s32 fA.b 0 ≠ 0 ∧ backingSub (fallocPair (the s) fA 2) = 0 ∧
      (the s).core.keyed (the s).ctx ((the s).s32 fA.b 0) = none ∧ (the s).core.freeSlots ≠ [] ∧
      ∃ u b, (the s).core.capacityFor (some (the s).w.wg) 7 1 = some (u, b, (the s).core) ∧
        (the s).core.capacityFor none 7 1 = some (u, b, (the s).core)) ∧
    (let s := onCore bK fun k => { k with folios := [(0, { fo0 with pers := true, key := 9, own := none })] }
     Issued s (the s) ∧ ∃ f, (the s).core.keyed (the s).ctx ((the s).s32 fA.b 0) = some (0, f)) ∧
    (let s := dark bK
     Issued s (the s) ∧ (the s).core.keyed (the s).ctx ((the s).s32 fA.b 0) = none ∧
      (the s).core.capacityFor none 7 1 = none ∧ (the s).core.capacityFor (some (the s).w.wg) 7 1 = none) ∧
    (let s := bFull
     Issued s (the s) ∧ (the s).core.keyed (the s).ctx ((the s).s32 fA.b 0) = none ∧ (the s).core.freeSlots ≠ [] ∧
      (the s).core.settleIn 7 1 = none ∧ ((the s).core.obtain 7 1).isSome = true ∧ ((the s).core.capacityFor none 7 1).isSome = true) ∧
    compact 4 0 [spanF 0 1 false, spanF 7 2 false] = some [spanF 7 0 false, spanF 0 3 false] ∧
    compact 4 0 [spanF 0 1 false, spanF 7 2 false, spanF 0 3 true] = some [spanF 7 0 false, spanF 0 2 false, spanF 0 3 true] :=
  ⟨⟨issued (by decide +kernel), by decide +kernel, by simp [scalarDst, fA], by decide +kernel, by decide, by decide +kernel,
    by decide +kernel, by decide +kernel, slots_of (by decide +kernel), 0, false, by decide +kernel, by decide +kernel⟩,
   ⟨issued (by decide +kernel), _, rfl⟩,
   ⟨issued (by decide +kernel), by decide +kernel, by decide +kernel, by decide +kernel⟩,
   ⟨issued (by decide +kernel), by decide +kernel, slots_of (by decide +kernel), by decide +kernel, by decide +kernel, by decide +kernel⟩,
   by decide +kernel, by decide +kernel⟩

/-- A size that is no size, a key of 0; a BACKING that is no multiple of 512; a key that a higher slot has asked for in this clock; and
a handle of a freed slot. -/
theorem witness_FolioTraps :
    (let s := regs [(10, 0x1100), (12, 9)] b0
     Issued s (the s) ∧ (the s).scalarGo fA.guard = true ∧ sizeOk 7 fA.imm.toNat = true ∧ (the s).s32 fA.b 0 ≠ 0 ∧
      backingSub (fallocPair (the s) fA 2) ≠ 0) ∧
    (Issued b0 (the b0) ∧ sizeOk (fA.ext8.extractLsb' 0 3).toNat ({ fA with imm := 0 } : IForm).imm.toNat = false ∧
      (the b0).s32 fA.b 0 = 0) ∧
    (let s := onCore bK fun k => { k with keyedAt := [(0, 1, 0, 9)] }
     Issued s (the s) ∧ sizeOk 7 fA.imm.toNat = true ∧ (the s).s32 fA.b 0 ≠ 0 ∧ backingSub (fallocPair (the s) fA 2) = 0 ∧
      (the s).core.keyedBefore s.coreClock (the s) ((the s).s32 fA.b 0) = true) ∧
    Issued (regs [(2, h0)] b0) (the (regs [(2, h0)] b0)) ∧ (the (regs [(2, h0)] b0)).scalarGo aF.guard = true ∧
      (the (regs [(2, h0)] b0)).core.liveFolio (the (regs [(2, h0)] b0)).ctx ((the (regs [(2, h0)] b0)).s32 aF.a 0) = none :=
  ⟨⟨issued (by decide +kernel), by decide +kernel, by decide, by decide +kernel, by decide +kernel⟩,
   ⟨issued (by decide +kernel), by decide, by decide +kernel⟩,
   ⟨issued (by decide +kernel), by decide, by decide +kernel, by decide +kernel, by decide +kernel⟩,
   issued (by decide +kernel), by decide +kernel, by decide +kernel⟩

theorem witness_FolioQueriesAndEnds :
    Issued (bF id b0) (the (bF id b0)) ∧ (the (bF id b0)).scalarGo aF.guard = true ∧ scalarDst true aF.d ∧ scalarDst false aF.d ∧
      handleSlot ((the (bF id b0)).s32 aF.a 0) < Config.folioSlots ∧ handleGen ((the (bF id b0)).s32 aF.a 0) ≠ 0 ∧
      (the (bF id b0)).core.liveFolio (the (bF id b0)).ctx ((the (bF id b0)).s32 aF.a 0) = some (0, fo0) ∧
      (the (bF id b0)).core.padBad = [] ∧ (the (bF id b0)).core.folioLock (the (bF id b0)).wi 0 = none :=
  ⟨issued (by decide +kernel), by decide +kernel, by simp [scalarDst, aF], by simp [scalarDst, aF], by decide +kernel, by decide +kernel,
    by decide +kernel, by decide +kernel, by decide +kernel⟩

/-- The folio in a state, claimed or not, with or without a backing. -/
def inState (st : FolioState) (clm : Option Nat) (backing : Dword) : Folio := { fo0 with state := st, clm := clm, backing := backing }
def bS (st : FolioState) (clm : Option Nat) (backing : Dword) : State := bF (fun _ => inState st clm backing) b0

/-- The hypotheses on the folio that its operations share. -/
def onFolio (st : FolioState) (clm : Option Nat) (backing : Dword) : Prop :=
  Issued (bS st clm backing) (the (bS st clm backing)) ∧ (the (bS st clm backing)).scalarGo aF.guard = true ∧
    (the (bS st clm backing)).core.liveFolio (the (bS st clm backing)).ctx ((the (bS st clm backing)).s32 aF.a 0) =
      some (0, inState st clm backing) ∧ NoQuanta (the (bS st clm backing)).core ∧ (the (bS st clm backing)).wi = 0

theorem onFolio_of {st : FolioState} {clm : Option Nat} {backing : Dword} (h : okNow (bS st clm backing) = true)
    (hg : (the (bS st clm backing)).scalarGo aF.guard = true ∧
      (the (bS st clm backing)).core.liveFolio (the (bS st clm backing)).ctx ((the (bS st clm backing)).s32 aF.a 0) =
        some (0, inState st clm backing) ∧ (∀ w ∈ (the (bS st clm backing)).core.warps, w.2.quanta = []) ∧
      (the (bS st clm backing)).wi = 0) : onFolio st clm backing :=
  ⟨issued h, hg.1, hg.2.1, hg.2.2.1, hg.2.2.2⟩

/-- Every state of the folio: each has its answer; with a place for a fresh one, and without. -/
theorem witness_FbindCompletes :
    onFolio .bound none 0 ∧ onFolio .closing none 0 ∧ onFolio .rebinding (some 0) 0 ∧ onFolio .rebinding (some 1) 0 ∧
      onFolio .lost none 0 ∧ onFolio .backed none 0x1000 ∧ scalarDst false aF.d ∧
      (dark (bS .lost none 0)).iss.map (fun i => (i.core.obtain 0 1).isNone) = some true ∧
      ∃ u, (the (bS .lost none 0)).core.obtain 0 1 = some (u, (the (bS .lost none 0)).core) :=
  ⟨onFolio_of (by decide +kernel) (by decide +kernel), onFolio_of (by decide +kernel) (by decide +kernel),
   onFolio_of (by decide +kernel) (by decide +kernel), onFolio_of (by decide +kernel) (by decide +kernel),
   onFolio_of (by decide +kernel) (by decide +kernel), onFolio_of (by decide +kernel) (by decide +kernel),
   by simp [scalarDst, aF], by decide +kernel, 1023, by decide +kernel⟩

theorem witness_FbackAndFdoneComplete :
    onFolio .bound none 0 ∧ onFolio .closing none 0x1000 ∧ onFolio .backed none 0x1000 ∧ onFolio .rebinding (some 1) 0x1000 ∧
      onFolio .lost none 0 ∧ onFolio .rebinding (some 0) 0 ∧ onFolio .lost none 0x1000 ∧ onFolio .rebinding (some 0) 0x1000 ∧
      scalarDst false aF.d :=
  ⟨onFolio_of (by decide +kernel) (by decide +kernel), onFolio_of (by decide +kernel) (by decide +kernel),
   onFolio_of (by decide +kernel) (by decide +kernel), onFolio_of (by decide +kernel) (by decide +kernel),
   onFolio_of (by decide +kernel) (by decide +kernel), onFolio_of (by decide +kernel) (by decide +kernel),
   onFolio_of (by decide +kernel) (by decide +kernel), onFolio_of (by decide +kernel) (by decide +kernel), by simp [scalarDst, aF]⟩

/-- An offset of the folio's last word, and a value. -/
def bW (v : Word) : State := onWarp (bS .bound none 0) fun w => { w with s := [(2, h0), (4, 508), (6, v)] }

/-- A folio that is bound and one that is being rebound; the word at its end, that differs from the operand or not; and an
ALLOC that has grown. -/
theorem witness_FrwaitCompletes :
    onFolio .bound none 0 ∧ onFolio .rebinding (some 0) 0 ∧ scalarDst false aF.d ∧
    (Issued (bW 0) (the (bW 0)) ∧ (the (bW 0)).scalarGo aF.guard = true ∧
      (bW 0).probeLocal (the (bW 0)) .load false ((the (bW 0)).s32 aF.a 0) 508 508 4 4 = .go [pL 508] ∧
      (pL 508).poisonedHome (bW 0) = false ∧ (the (bW 0)).w.quanta = [] ∧
      BitVec.ofNat 32 ((bW 0).locRead (the (bW 0)).c (pL 508).loc 4) = (the (bW 0)).s32 aF.c 0) ∧
    (Issued (bW 1) (the (bW 1)) ∧ (the (bW 1)).scalarGo aF.guard = true ∧
      (bW 1).probeLocal (the (bW 1)) .load false ((the (bW 1)).s32 aF.a 0) 508 508 4 4 = .go [pL 508] ∧
      BitVec.ofNat 32 ((bW 1).locRead (the (bW 1)).c (pL 508).loc 4) ≠ (the (bW 1)).s32 aF.c 0) ∧
    15 < (the b0).core.cap.alloc :=
  ⟨onFolio_of (by decide +kernel) (by decide +kernel), onFolio_of (by decide +kernel) (by decide +kernel),
   by simp [scalarDst, aF], ⟨issued (by decide +kernel), by decide +kernel, by decide +kernel, by decide +kernel, by decide +kernel,
    by decide +kernel⟩,
   ⟨issued (by decide +kernel), by decide +kernel, by decide +kernel, by decide +kernel⟩, by decide +kernel⟩

/-- k0 and the s and v registers. -/
def bC (m : Mask) (s : FMap Word) (v : FMap VReg) : State := onWarp b0 fun w => { w with k := [(0, m)], s := s, v := v }
/-- A branch to a slot at a distance, reconverging at itself. -/
def bB (d : BitVec 24) (g : Guard) : BForm := { zB with tgt := d, guard := g, d := .s 58 }
def aV : RForm := { zR with a := .v 2 }
def aS : RForm := { zR with a := .s 2 }
/-- Lane 0 of a vector register differs from the others. -/
def vreg2 (x y : Word) : VReg := { val := lanesFrom fun l => if l = 0 then x else y, dead := 0 }

theorem witness_HintsComplete :
    Issued b0 (the b0) ∧ scalarGuard (Instr.fopen { aF with guard := g0 }) = some g0 ∧ (the b0).scalarGo g0 = false :=
  ⟨issued (by decide +kernel), rfl, by decide +kernel⟩

/-- A register pair that names a slot whose page has no cached translation, and a fragment told that it cannot be fetched. -/
def bFar (n : List FatalNote) : State := onFrag (regs [(2, 0), (3, 16)] b0) fun f => { f with notes := n }
def noteFar : FatalNote := { stage := 1, page := 2 ^ 27, acc := .fetch, cause := Cause.pageFatal, sub := 0, fid := none }
def pFar : SlotAddr := BitVec.ofNat 54 (2 ^ 36)

/-- A target is marked, and is not; the guard lets all lanes pass, and none; a vector ret whose lanes differ; a target whose line's
walk begins, and one whose line cannot be fetched. -/
theorem witness_TransfersComplete :
    (let s := bC (~~~0) [(2, 0x80)] [(2, vreg 0x80)]
     let i := the s
     Issued s i ∧ s.target i (i.rel 0) = some true ∧ ((i.rel 0).extractLsb' 0 3).toNat ≤ 4 ∧
      i.f.mask &&& i.guardMask g0 = i.f.mask ∧ i.f.mask &&& i.guardMask (gd 0 true) = 0 ∧ i.f.mask ≠ 0 ∧
      i.s64 aS.a 0 = (0x80 : SlotAddr).setWidth 64 ∧ s.target i 0x80 = some true ∧
      (∀ l ∈ lanesOf i.f.mask, i.src true aV.a 0 l = (0x80 : SlotAddr).setWidth 64) ∧ scalarDst true (.s 58) ∧ roomFor i 2) ∧
    let s := bC (~~~0) [(2, 0x81)] []
    let i := the s
    Issued s i ∧ s.target i (i.rel 1) = some false ∧ i.f.mask ≠ 0 ∧
      brsTaken 10 i.w.sflags i.f.mask (i.guardMask (gd 0 false)) = true ∧
      i.s64 aS.a 0 = (0x81 : SlotAddr).setWidth 64 ∧ s.target i 0x81 = some false ∧
      ((the (regs [(3, 0x400000)] b0)).s64 aS.a 0).extractLsb' 54 10 ≠ 0 ∧
      (∃ l ∈ lanesOf i.f.mask, (the (bC 0 [] [(2, vreg2 0x80 0x88)])).src true aV.a 0 l ≠
        (the (bC 0 [] [(2, vreg2 0x80 0x88)])).src true aV.a 0 ((lowLane i.f.mask).getD 0)) ∧
      ∀ n ∈ [[], [noteFar]], let s := bFar n
        Issued s (the s) ∧ goesTo (the s) (.jmp aS) pFar ∧
          if n = [] then (s.judge (the s) (the s).f.priv pFar).1 = .walking
          else (s.judge (the s) (the s).f.priv pFar).1.late = true :=
  ⟨⟨issued (by decide +kernel), by decide +kernel, by decide +kernel, by decide +kernel, by decide +kernel, by decide +kernel,
    by decide +kernel, by decide +kernel, by decide +kernel, by simp [scalarDst], roomFor_of (by decide +kernel)⟩,
   issued (by decide +kernel), by decide +kernel, by decide +kernel, by decide +kernel, by decide +kernel, by decide +kernel,
   by decide +kernel, by decide +kernel, by
    intro n hn
    simp only [List.mem_cons, List.not_mem_nil, or_false] at hn
    rcases hn with rfl | rfl
    · exact ⟨issued (by decide +kernel), .inr ⟨aS, by simp [aS], by decide +kernel, .inl rfl⟩, by decide +kernel⟩
    · exact ⟨issued (by decide +kernel), .inr ⟨aS, by simp [aS], by decide +kernel, .inl rfl⟩, by decide +kernel⟩⟩

/-- A fragment whose slot is its record's address is issued. -/
def bMeet : State :=
  { onWarp (onFrag b0 fun f => { f with rcd := some 2, mask := 0 }) fun w => { w with recs := [(2, { rec2 with addr := 0x80 })] } with
    agenda := [.issue 0 0 0 false] }
def bMeet' : State := { bMeet with agenda := [] }

/-- One lane of 96 takes the branch; with a free entry and record, and without an entry; and a fragment that arrives at its record,
which is then complete, or not. -/
theorem witness_BranchSplits :
    (∀ s ∈ [line2 b1, fullSplit (line2 b1)], let i := the s
      Issued s i ∧ s.target i (i.rel 0) = some true ∧ (s.judge i i.f.priv (i.rel 0)).2.target i (i.rel 8) = some true ∧
        ((i.rel 8).extractLsb' 0 3).toNat ≤ 4 ∧ i.f.mask &&& i.guardMask g0 ≠ 0 ∧ i.f.mask &&& i.guardMask g0 ≠ i.f.mask ∧
        i.f.rcd = none) ∧
    (the (line2 b1)).w.freeEntry = some 1 ∧
    ((the (line2 b1)).w.meetAt (the (line2 b1)).f ((the (line2 b1)).rel 8) (~~~0)).map (·.2) = some 0 ∧
    (the (fullSplit (line2 b1))).w.freeEntry = none ∧
    (bMeet.agenda = [.issue 0 0 0 false] ∧ bMeet'.mayChoose 0 0 0 = true ∧ (bMeet'.ageSlot 0 0 0).mayIssue 0 0 0 = true ∧
      ∃ i, (Claims.chosen bMeet' 0 0 0 false).iss = some i ∧ i.spec = false ∧ i.f.stepped = false ∧ i.f.entry = none ∧
        i.w.atRecord i.f = some 2 ∧ i.c = 0 ∧ i.wi = 0 ∧ i.fi = 0) ∧
    (∀ m, m = ((~~~0 : Mask)) ∨ m = 1 → let w := { (the bMeet).w with recs := [(2, { rec2 with addr := 0x80, arrive := m })] }
      FMap.sorted w.frags = true ∧ FMap.sorted w.recs = true ∧ FMap.get w.frags 0 = some { (the bMeet).f with mask := 0 } ∧
        (the bMeet).f.rcd = some 2 ∧ (2 < Config.fragEntries) ∧ (subMask (rec2.expect &&& w.live) (m ||| 0) = true ↔ m = ~~~0)) := by
  refine ⟨?_, by decide +kernel, by decide +kernel, by decide +kernel, ⟨rfl, by decide +kernel, by decide +kernel, _, rfl,
    by decide +kernel, by decide +kernel, by decide +kernel, by decide +kernel, by decide +kernel, by decide +kernel, by decide +kernel⟩, ?_⟩
  rotate_left
  · rintro m (rfl | rfl) <;> decide +kernel
  intro s hs
  simp only [List.mem_cons, List.not_mem_nil, or_false] at hs
  rcases hs with rfl | rfl <;>
    exact ⟨issued (by decide +kernel), by decide +kernel, by decide +kernel, by decide +kernel, by decide +kernel,
      by decide +kernel, by decide +kernel⟩

theorem brxClear_of {s : State} {i : Iss} {a : Nat → Dword} (h : ((lanesOf i.f.mask).all (fun l => (a l).extractLsb' 54 10 == 0) &&
    (s.judgeAll i ((brxGroups i.f.mask a).map (·.1))).1.all fun g => g.2 != .walking && g.2 != .judged false) = true) :
    Claims.brxClear s i a := by
  simpa [Claims.brxClear] using h

/-- Two groups of lanes, with marked targets, and one of them unmarked or not to be fetched yet. -/
def bTwo (y z : Word) : State := line2 (bC 0 [(2, 0x80)] [(2, vreg2 0x80 y), (3, vreg2 0 z)])

theorem witness_BrxCompletes :
    (let s := bTwo 0x80 0
     Issued s (the s) ∧ Claims.brxClear s (the s) ((the s).src true aV.a 0) ∧
      brxGroups (the s).f.mask ((the s).src true aV.a 0) = [(0x80, ~~~0)] ∧ s.target (the s) 0x80 = some true ∧
      (the s).s64 aS.a 0 = (0x80 : SlotAddr).setWidth 64) ∧
    (∀ s ∈ [bTwo 0x88 0, fullSplit (bTwo 0x88 0)], Issued s (the s) ∧ Claims.brxClear s (the s) ((the s).src true aV.a 0) ∧
      brxGroups (the s).f.mask ((the s).src true aV.a 0) = [(0x80, 1), (0x88, ~~~1)] ∧
      ((the s).w.meetAt (the s).f ((the s).rel 0) (the s).f.mask).isSome = true) ∧
    (the (bTwo 0x88 0)).w.freeEntries.length = 7 ∧ (the (fullSplit (bTwo 0x88 0))).w.freeEntries = [] ∧
    (let s := onWarp (bTwo 0x88 0) fun w => { w with
       recs := (List.range Config.fragEntries).map fun n => (n, { addr := 0, expect := 0, arrive := 0, outer := none }) }
     Issued s (the s) ∧ Claims.brxClear s (the s) ((the s).src true aV.a 0) ∧
      (the s).w.meetAt (the s).f ((the s).rel 0) (the s).f.mask = none) ∧
    (let s := bTwo 0 16
     Issued s (the s) ∧ ∃ g ∈ (s.judgeAll (the s) [0x80, pFar]).1, g.2 = .walking) ∧
    let s := bTwo 0x81 0
    Issued s (the s) ∧ (∀ g ∈ (s.judgeAll (the s) [0x80, 0x81]).1, g.2 ≠ .walking) ∧
      (s.judgeAll (the s) [0x80, 0x81]).1.any (fun g => g.1 == 0x81 && g.2 == .judged false) = true := by
  refine ⟨⟨issued (by decide +kernel), brxClear_of (by decide +kernel), by decide +kernel, by decide +kernel, by decide +kernel⟩, ?_,
    by decide +kernel, by decide +kernel, ⟨issued (by decide +kernel), brxClear_of (by decide +kernel), by decide +kernel⟩,
    ⟨issued (by decide +kernel), by decide +kernel⟩, issued (by decide +kernel), by decide +kernel, by decide +kernel⟩
  intro s hs
  simp only [List.mem_cons, List.not_mem_nil, or_false] at hs
  rcases hs with rfl | rfl <;> exact ⟨issued (by decide +kernel), brxClear_of (by decide +kernel), by decide +kernel, by decide +kernel⟩

/-- A warp in trap mode. -/
def bT : State := onWarp b0 fun w => { w with trap := { w.trap with mode := true, pc := 0x80, entryPc := 0x80 } }

theorem witness_ExitCompletes :
    (Issued b0 (the b0) ∧ (the b0).w.trap.mode = false ∧ (the b0).active g0 = 0) ∧
    (Issued b1 (the b1) ∧ (the b1).w.trap.mode = false ∧ (the b1).active g0 ≠ 0 ∧ (the b1).w.live &&& ~~~((the b1).active g0) ≠ 0 ∧
      (the b1).f.state = .ready ∧ (∀ p ∈ (the b1).w.frags, p.1 = (the b1).fi → p.2 = (the b1).f) ∧
      (the b1).f.mask &&& ~~~((the b1).active g0) ≠ 0) ∧
    ((the b0).active zR.guard ≠ 0 ∧ (the b0).w.live &&& ~~~((the b0).active zR.guard) = 0 ∧ Quiet (the b0).w ∧
      (the b0).w.fails = [] ∧ (the b0).quantumLock (fun _ => true) = none ∧
      ∀ w ∈ (the b0).core.warps, w.2.wg = (the b0).w.wg → w.1 = (the b0).wi) ∧
    (Issued (bQt 1) (the (bQt 1)) ∧ (the (bQt 1)).w.trap.mode = false ∧ (the (bQt 1)).active zR.guard ≠ 0 ∧
      (the (bQt 1)).w.live &&& ~~~((the (bQt 1)).active zR.guard) = 0 ∧ (the (bQt 1)).quantumLock (fun _ => true) = some 0) ∧
    Issued bT (the bT) ∧ (the bT).w.trap.mode = true :=
  ⟨⟨issued (by decide +kernel), by decide +kernel, by decide +kernel⟩,
   ⟨issued (by decide +kernel), by decide +kernel, by decide +kernel, by decide +kernel, by decide +kernel, by decide +kernel,
    by decide +kernel⟩,
   ⟨by decide +kernel, by decide +kernel, quiet_of (by decide +kernel), by decide +kernel, by decide +kernel, by decide +kernel⟩,
   ⟨issued (by decide +kernel), by decide +kernel, by decide +kernel, by decide +kernel, by decide +kernel⟩,
   issued (by decide +kernel), by decide +kernel⟩

/-- A second warp that has not arrived; the warp has not arrived at the barrier, or has. -/
def bBar (m : FMap Mask) : State :=
  onCore b0 fun k => { k with
    warps := k.warps ++ [(1, { placedWarp 0x80 with index := 1, uid := 2 })]
    wgs := [(0, { placedWg 0x80 with nwarps := 2, bars := [(15, { phase := 0xFFFF, arr := [], mask := m })] })] }
theorem noneQueued_of {i : Iss} (h : (!i.queueBefore (i.f.behind.getD i.w.queued)) = true) : NoneQueued i := by
  simpa [NoneQueued] using h

def bar15 : RForm := { zR with ext := 15 }

theorem witness_BarriersComplete :
    (let i := the (bBar [])
     Issued (bBar []) i ∧ Quiet i.w ∧ NoneQueued i ∧ i.w.trap.mode = false ∧ ∃ g, i.wg = some g ∧
      FMap.getD (g.bar (barOf bar15)).mask i.w.index 0 &&& i.f.mask = 0 ∧ FMap.getD (g.bar (barOf bar15)).mask i.w.index 0 = 0 ∧
      ∃ w ∈ i.core.wgWarps i.w.wg, w.1 ≠ i.wi ∧ w.2.live ≠ 0 ∧ (g.bar (barOf bar15)).arr.contains w.2.index = false ∧
        w.2.index ≠ i.w.index ∧ subMask w.2.live (FMap.getD (g.bar (barOf bar15)).mask w.2.index 0) = false) ∧
    (let i := the (bBar [(0, 1)])
     Issued (bBar [(0, 1)]) i ∧ Quiet i.w ∧ NoneQueued i ∧ ∃ g, i.wg = some g ∧ FMap.getD (g.bar (barOf bar15)).mask i.w.index 0 ≠ 0) ∧
    (let i := the (bBar [(1, ~~~0)])
     Issued (bBar [(1, ~~~0)]) i ∧ Quiet i.w ∧ NoneQueued i ∧ i.w.trap.mode = false ∧ i.w.live ≠ 0 ∧ ∃ g, i.wg = some g ∧
      FMap.getD (g.bar (barOf bar15)).mask i.w.index 0 &&& i.f.mask = 0 ∧
      subMask i.w.live (FMap.getD (g.bar (barOf bar15)).mask i.w.index 0 ||| i.f.mask) = true ∧
      ∀ w ∈ i.core.wgWarps i.w.wg, w ≠ (i.wi, i.w) → w.2.live ≠ 0 ∧
        ((g.bar (barOf bar15)).arr.contains w.2.index = true ∨ subMask w.2.live (FMap.getD (g.bar (barOf bar15)).mask w.2.index 0) = true)) ∧
    ∃ (w : Warp) (f : Frag), w.frags = [(0, f)] ∧ f.state = .waiting ∧ f.wait = .bar 15 :=
  ⟨⟨issued (by decide +kernel), quiet_of (by decide +kernel), noneQueued_of (by decide +kernel), by decide +kernel, _, rfl,
    by decide +kernel, by decide +kernel,
    (1, { placedWarp 0x80 with index := 1, uid := 2 }), by decide +kernel, by decide +kernel, by decide +kernel, by decide +kernel,
    by decide +kernel, by decide +kernel⟩,
   ⟨issued (by decide +kernel), quiet_of (by decide +kernel), noneQueued_of (by decide +kernel), _, rfl, by decide +kernel⟩,
   ⟨issued (by decide +kernel), quiet_of (by decide +kernel), noneQueued_of (by decide +kernel), by decide +kernel, by decide +kernel,
    _, rfl, by decide +kernel, by decide +kernel, by decide +kernel⟩,
   { placedWarp 0x80 with frags := [(0, { (the b0).f with state := .waiting, wait := .bar 15 })] }, _, rfl, rfl, rfl⟩

/-- One operation in flight, or one that has failed. -/
def bOp (n : Nat) (l : List EngineFail) : State := onWarp b0 fun w => { w with counters := { w.counters with cp := n, cpIssued := 1 }, fails := l }
def fail0 : EngineFail := { cls := 0, seq := 0, status := 2, info0 := 0, info1 := 0 }

/-- wcnt 0 with nothing in flight, something in flight, and a failure; sleep of nothing and of something. -/
theorem witness_WaitsComplete :
    (Issued b0 (the b0) ∧ ((the b0).w.counters.ofClass 0).1 ≤ 0 ∧ (the b0).w.covered 0 0 = []) ∧
    (Issued (bOp 1 []) (the (bOp 1 [])) ∧ 0 < ((the (bOp 1 [])).w.counters.ofClass 0).1) ∧
    ((the b0).s32 .imm 0 = 0 ∧ (the b0).s32 .imm 1 ≠ 0) ∧
    (Issued (bOp 0 [fail0]) (the (bOp 0 [fail0])) ∧ (the (bOp 0 [fail0])).f.trm = false ∧ (the (bOp 0 [fail0])).f.held = false ∧
      ((the (bOp 0 [fail0])).w.counters.ofClass 0).1 ≤ 0 ∧ (the (bOp 0 [fail0])).w.covered 0 0 = [fail0]) ∧
    let s := onFrag (bOp 0 [{ fail0 with status := 1 }]) fun f => { f with trm := true }
    Issued s (the s) ∧ ((the s).w.counters.ofClass 0).1 ≤ 0 ∧ (the s).f.trm = true ∧ (the s).w.covered 0 0 ≠ [] ∧
      ∀ e ∈ (the s).w.covered 0 0, e.status = 1 :=
  ⟨⟨issued (by decide +kernel), by decide +kernel, by decide +kernel⟩, ⟨issued (by decide +kernel), by decide +kernel⟩,
   by decide +kernel, ⟨issued (by decide +kernel), by decide +kernel, by decide +kernel, by decide +kernel, by decide +kernel⟩,
   issued (by decide +kernel), by decide +kernel, by decide +kernel, by decide +kernel, by decide +kernel⟩

/-- The guard lets lanes pass, and none; the workgroup has a handler at a marked slot. -/
theorem witness_TrapsComplete :
    (Issued b1 (the b1) ∧ (the b1).w.trap.mode = false ∧ (the b1).f.mask &&& (the b1).guardMask g0 ≠ 0 ∧
      (the b1).f.mask &&& (the b1).guardMask (gd 1 false) = 0) ∧
    let s := onWg b0 fun g => { g with handler := 0x80 }
    let i := the s
    Issued s i ∧ i.w.trap.mode = false ∧ (s.cluster (clusterOf i.c)).moving = false ∧
      ∃ g, i.wg = some g ∧ g.handler ≠ 0 ∧ s.targetOk i.c g.ctx i.f.priv g.handler = some true :=
  ⟨⟨issued (by decide +kernel), by decide +kernel, by decide +kernel, by decide +kernel⟩,
   issued (by decide +kernel), by decide +kernel, by decide +kernel, { placedWg 0x80 with handler := 0x80 }, by decide +kernel,
   by decide +kernel, by decide +kernel⟩

/-- The last tile, at its last three rows. -/
def xT : XForm := { zX with tile := 3, ext := 29, d := .v 62, a := .v 2 }

theorem engaged {s : State} {g : Wg} {f : XForm} (h : okNow s = true) (hg : (the s).wg = some g)
    (hm : (the s).f.mask = (the s).w.live ∧ (the s).noTile f = false ∧ (the s).tileBusy f = false) : Engaged s (the s) g f :=
  ⟨issued h, hg, hm.1, hm.2.1, hm.2.2⟩

theorem witness_TileMovesComplete :
    ∃ g, Engaged b0 (the b0) g xT ∧ xT.d = .v 62 ∧ (the b0).room 0 false xT.d ∧ xT.row ≤ 29 :=
  ⟨_, engaged (by decide +kernel) rfl (by decide +kernel), rfl, room_of (by decide +kernel), by decide⟩

theorem rows_of {o : LaneOut} (h : (match o with | .go (_ :: _) => true | _ => false) = true) : ∃ p l, o = .go (p :: l) := by
  split at h
  · exact ⟨_, _, rfl⟩
  · simp at h

/-- A tile of rows of four bytes a plane, from address 0. -/
def xM : XForm := { zX with tile := 3, ext := 3, a := .s 2, b := .none, c := .s 4 }

theorem witness_TileMemoryCompletes :
    (∃ g, Engaged b0 (the b0) g xM ∧ b0.poison = [] ∧ Free b0 (the b0) .load (some 0) [(0, b0.probeRows (the b0) xM .load)] ∧
      ∃ p l, b0.probeRows (the b0) xM .load = .go (p :: l)) ∧
    (Free b0 (the b0) .store (some 0) [(0, b0.probeRows (the b0) xM .store)] ∧
      ∃ p l, b0.probeRows (the b0) xM .store = .go (p :: l)) ∧
    let s := regs [(2, 1)] b0
    let o := s.probeRows (the s) xM .load
    (∃ g, Engaged s (the s) g xM) ∧ o.isMiss = false ∧ (∀ a b, o ≠ .broken a b) ∧
      ((the s).checkTrap [((lowLane (the s).f.mask).getD 0, o)]).isSome = true := by
  refine ⟨⟨_, engaged (by decide +kernel) rfl (by decide +kernel), rfl, free_of (by decide +kernel), rows_of (by decide +kernel)⟩,
    ⟨free_of (by decide +kernel), rows_of (by decide +kernel)⟩, ⟨_, engaged (by decide +kernel) rfl (by decide +kernel)⟩,
    by decide +kernel, ?_, by decide +kernel⟩
  exact (traps_of (outs := [(0, (regs [(2, 1)] b0).probeRows (the (regs [(2, 1)] b0)) xM .load)]) (by decide +kernel) _
    (List.mem_singleton_self _)).2

/-- A quire of one row of one bf16 element at address 0, and one of a block format. -/
def q0 (fmt : Nat) : Quire :=
  { gen := 1, valid := true, words := [0, BitVec.ofNat 64 (2 ^ 42 * fmt + 1), 0, 0, 1, 0, 0, 0] }
/-- Quires in slots 0 to 2, their handles in s2, s4 and s6; the rows of the operands begin at 0. -/
def bQ (s : State) : State :=
  onWarp { s with ctxs := [(0, { placedCtx with quires := [(0, q0 8), (1, q0 9), (2, q0 0)] })] } fun w => { w with
    s := [(2, handleOf 0 1), (4, handleOf 1 1), (6, handleOf 2 1)] }
def xQ (a b : BitVec 6) : XForm := { zX with tile := 3, a := .s a, b := .s b, c := .s 8 }

/-- The sub-arrays of the rows are awake. -/
def bAwake : State := (bQ b0).modCore 0 fun k => { k with matrix := k.matrix.awake 0 }

/-- Whether the operands of an mmac can be read. -/
def readable (s : State) (i : Iss) (qa qb : Quire) (p : List (List FVal) → Product) : Bool :=
  match s.readB i qb 0 0 (List.range 32) [] with
  | .inr (cols, s1) => (s1.rowsOfA i qa 0 0 (p cols) ((List.range 32).drop 0) []).2.1.isNone
  | _ => false

theorem readable_of {s : State} {i : Iss} {qa qb : Quire} {p : List (List FVal) → Product} (h : readable s i qa qb p = true) :
    ∃ cols s1 rows s2, s.readB i qb 0 0 (List.range 32) [] = .inr (cols, s1) ∧
      s1.rowsOfA i qa 0 0 (p cols) ((List.range 32).drop 0) [] = (rows, none, s2) := by
  unfold readable at h
  split at h
  · rename_i cols s1 e
    exact ⟨cols, s1, _, _, e, Prod.ext rfl (Prod.ext (Option.isNone_iff_eq_none.mp h) rfl)⟩
  · simp at h

theorem witness_MmacCompletes :
    (∃ g qa qb, Engaged (bQ b0) (the (bQ b0)) g (xQ 2 4) ∧
      (bQ b0).mmacRecords (the (bQ b0)) (xQ 2 4) = (some qa, some qb) ∧ qa.isXb = qb.isXb ∧
      (the (bQ b0)).core.matrix.compute = none ∧ (the (bQ b0)).s32 (xQ 2 4).c 0 = 0 ∧ startRow (the (bQ b0)).w.mprog 3 = 0 ∧
      (the (bQ b0)).core.matrix.mustWait 0 0 = false ∧ (the (bQ b0)).core.matrix.admits 0 qa.cost = true ∧
      ∃ cols s1 rows s2, bAwake.readB (the (bQ b0)) qb 0 0 (List.range 32) [] = .inr (cols, s1) ∧
        s1.rowsOfA (the (bQ b0)) qa 0 0 { old := fun a b => (g.elem 3 a b).toNat, cols := cols } ((List.range 32).drop 0) [] =
          (rows, none, s2)) ∧
    let s := onCore (bQ b0) fun k => { k with matrix := { k.matrix with compute := some { wg := 0, tile := 2, rows := [] } } }
    (∃ g, Engaged s (the s) g (xQ 2 4) ∧ s.mmacRecords (the s) (xQ 2 4) = (some (q0 8), some (q0 9))) ∧
      (the s).core.matrix.compute.isSome = true ∧ (s.cluster (clusterOf 0)).frozen = false ∧
      (s.core 0).matrix.compute = some { wg := 0, tile := 2, rows := [] } ∧ (FMap.get (s.core 0).wgs 0).isSome = true :=
  ⟨⟨_, q0 8, q0 9, engaged (by decide +kernel) rfl (by decide +kernel), by decide +kernel, by decide, by decide +kernel,
    by decide +kernel, by decide +kernel, by decide +kernel, by decide +kernel, readable_of (by decide +kernel)⟩,
   ⟨_, engaged (by decide +kernel) rfl (by decide +kernel), by decide +kernel⟩, by decide +kernel, by decide +kernel, by decide +kernel,
   by decide +kernel⟩

/-- A record of one row of one bf16 element, in registers and in memory; and the last slot. -/
def bR : State := (regs [(4, 1023), (14, 1), (15, 1)] b0).mwriteBytes 0 ([0, 0, 0, 0, 0, 0, 0, 0, 1, 0, 0, 0, 0, 0x20, 0, 0] ++
  List.replicate 16 0 ++ [1])
def xR : XForm := { zX with a := .s 8, b := .s 4, d := .s 60, ext := 8 }

theorem witness_QuiresComplete :
    (∃ c, Issued bR (the bR) ∧ (the bR).scalarGo xR.guard = true ∧ scalarDst false xR.d ∧ FMap.get bR.ctxs (the bR).ctx = some c ∧
      quireBad (quireOf (qmkWords xR (qmkReg (the bR) xR))) ((the bR).s32 xR.b 0).toNat = none) ∧
    (bR.poison = [] ∧ (the bR).s64 xR.a 0 = 0 ∧
      ∃ p l, (List.range 8).foldl (fun (o : LaneOut) j =>
        o.join (bR.probeGlobal (the bR) .load (0 + BitVec.ofNat 64 (8 * j)) 8 8)) (.go []) = .go (p :: l) ∧
      Free bR (the bR) .load (some 0) [(0, .go (p :: l))] ∧
      quireBad (quireOf ((p :: l).foldl (fun (a : List Dword × State) q =>
        (a.1 ++ [BitVec.ofNat 64 (a.2.loadPiece 0 0 q).1], (a.2.loadPiece 0 0 q).2)) ([], bR.setCore 0 (the bR).begin)).1) 1023 = none) ∧
    ∃ c q, FMap.get (bQ b0).ctxs (the (bQ b0)).ctx = some c ∧
      (bQ b0).liveQuire (the (bQ b0)).ctx ((the (bQ b0)).s32 (xQ 2 4).a 0) = some q :=
  ⟨⟨_, issued (by decide +kernel), by decide +kernel, by simp [scalarDst, xR], rfl, by decide +kernel⟩,
   ⟨rfl, by decide +kernel,
    { loc := .global 0, bytes := 8, dirty := [], plc := 0, die := 0, backed := false },
    (List.range 7).map fun n => { loc := .global (8 * n + 8), bytes := 8, dirty := [], plc := 0, die := 0, backed := false },
    by decide +kernel, free_of (by decide +kernel), by decide +kernel⟩,
   _, q0 8, rfl, by decide +kernel⟩

/-- A tile beyond the workgroup's four; an operand that is not live; two kinds; and a record of no elements. -/
theorem witness_MatrixTraps :
    (Issued b0 (the b0) ∧ (the b0).f.mask = (the b0).w.live ∧ (the b0).noTile { xT with tile := 4 } = true) ∧
    (∃ g, Engaged (bQ b0) (the (bQ b0)) g (xQ 10 4) ∧ (the (bQ b0)).f.quires = none ∧
      (bQ b0).liveQuire (the (bQ b0)).ctx ((the (bQ b0)).s32 (xQ 10 4).a 0) = none ∧
      (bQ b0).liveQuire (the (bQ b0)).ctx ((the (bQ b0)).s32 (xQ 2 10).a 0) = some (q0 8) ∧
      (bQ b0).liveQuire (the (bQ b0)).ctx ((the (bQ b0)).s32 (xQ 2 10).b 0) = none ∧
      (bQ b0).mmacRecords (the (bQ b0)) (xQ 2 6) = (some (q0 8), some (q0 0)) ∧ (q0 8).isXb ≠ (q0 0).isXb) ∧
    Issued b0 (the b0) ∧ (the b0).scalarGo xR.guard = true ∧
      (quireBad (quireOf (qmkWords xR (qmkReg (the b0) xR))) ((the b0).s32 xR.b 0).toNat).isSome = true :=
  ⟨⟨issued (by decide +kernel), by decide +kernel, by decide +kernel⟩,
   ⟨_, engaged (by decide +kernel) rfl (by decide +kernel), by decide +kernel, by decide +kernel, by decide +kernel, by decide +kernel,
    by decide +kernel, by decide⟩,
   issued (by decide +kernel), by decide +kernel, by decide +kernel⟩

/-- From a folio (s2, s3) to a global address (s4, s5), s6 bytes; a gathering whose slots are in the folio. -/
def bE (len : Word) (w : Warp → Warp) (k : Core → Core) : State :=
  onWarp (onCore (bF id b0) k) fun x => w { x with s := [(2, h0), (3, 508), (4, 0x1000), (6, len), (8, 1)] }
def xC : XForm := { zX with a := .s 4, b := .s 2, c := .s 6, xfl := 4 }
def xRa : XForm := { zX with a := .s 4, b := .s 6, c := .none }
def xG : XForm := { zX with a := .s 4, b := .s 2, c := .s 6, d := .v 4, xfl := 4 }
def full (w : Warp) : Warp := { w with counters := { w.counters with cp := 63 } }

theorem left_of {α β : Type} {x : α ⊕ β} (h : x.isLeft = true) : ∃ a, x = .inl a := by
  cases x
  · exact ⟨_, rfl⟩
  · simp at h

theorem right_of {α β : Type} {x : α ⊕ β} (h : x.isRight = true) : ∃ b, x = .inr b := by
  cases x
  · simp at h
  · exact ⟨_, rfl⟩

theorem enters_of {i : Iss} {k : OpKind} (h : i.core.lineClass.length < lineEntries) : Enters i k := by
  unfold Enters
  split
  · exact .inr h
  · trivial

/-- An operation that finds no entry of the line class table for its request. -/
def turnedAway (i : Iss) : TrapReq ⊕ OpKind → Bool
  | .inr (.remoteAtomic (.remote pkg va) _ _ _ _ _) => !FMap.has i.core.lineClass (remoteLine pkg va) && !decide (i.core.lineClass.length < lineEntries)
  | _ => false

theorem notEnters_of {i : Iss} {e : TrapReq ⊕ OpKind} (h : turnedAway i e = true) : ∃ k, e = .inr k ∧ ¬Enters i k := by
  unfold turnedAway at h
  split at h
  · simp only [Bool.and_eq_true, Bool.not_eq_true', decide_eq_false_iff_not] at h
    exact ⟨_, rfl, by simpa [Enters, h.1] using h.2⟩
  · simp at h

/-- Requests to 256 lines are outstanding. -/
def bBusy : State := bE 4 id fun k => { k with lineClass := (List.range 256).map fun n => (n, (0, 0, 1)) }

/-- The counter full and not; a length that is no multiple of 4, and four bytes at the folio's end; and a full line class table. -/
theorem witness_EngineCommandsIssue :
    (Issued (bE 4 full id) (the (bE 4 full id)) ∧ (the (bE 4 full id)).scalarGo xC.guard = true ∧
      (the (bE 4 full id)).counterFull 0 = true) ∧
    (let s := bE 5 id id
     Issued s (the s) ∧ (the s).counterFull 0 = false ∧ (∃ r, (the s).copyOf xC = .inl r) ∧ ((the s).sAfter xC.c 0).toNat % 4 ≠ 0 ∧
      (the b0).core.liveFolio (the b0).ctx ((the b0).sAfter xC.b 0) = none) ∧
    (let s := bE 4 id id
     let i := the s
     Issued s i ∧ (∀ cls ∈ [0, 1, 2], i.counterFull cls = false) ∧ (∃ k, i.copyOf xC = .inr k) ∧
      (∃ k, i.remoteAtomicOf xRa = .inr k) ∧ (∃ k, i.gatherOf { xG with guard := g0 } = .inr k) ∧
      i.addrTrap (i.pairAfter (.s 4) 0) 64 = none ∧ xC.xfl.getLsbD 4 = false ∧ xC.ssp = 1 ∧ xC.dsp = 0 ∧
      (i.sAfter xC.c 0).toNat = 4 ∧ i.core.liveFolio i.ctx (i.sAfter xC.b 0) = some (0, fo0) ∧
      (i.sAfter xC.b 1).toNat + 4 = 512 * fo0.size ∧ nonCanonical (i.pairAfter xC.a 0) = false ∧
      (i.pairAfter xC.a 0).toNat % 4 = 0 ∧ ∀ k, Enters i k) ∧
    (Issued bBusy (the bBusy) ∧ (the bBusy).scalarGo xRa.guard = true ∧ ∃ k, (the bBusy).remoteAtomicOf xRa = .inr k ∧ ¬Enters (the bBusy) k) ∧
    let s := bE 4 (fun w => { w with k := [(0, 1)] }) id
    Issued s (the s) ∧ (the s).active g0 ≠ 0 ∧ (the s).f.mask ≠ 0 ∧ ∃ k, (the s).gatherOf { xG with guard := g0 } = .inr k :=
  ⟨⟨issued (by decide +kernel), by decide +kernel, by decide +kernel⟩,
   ⟨issued (by decide +kernel), by decide +kernel, left_of (by decide +kernel), by decide +kernel, by decide +kernel⟩,
   ⟨issued (by decide +kernel), by decide +kernel, right_of (by decide +kernel), right_of (by decide +kernel),
    right_of (by decide +kernel), by decide +kernel, by decide, by decide, by decide, by decide +kernel, by decide +kernel,
    by decide +kernel, by decide +kernel, by decide +kernel, fun _ => enters_of (by decide +kernel)⟩,
   ⟨issued (by decide +kernel), by decide +kernel, notEnters_of (by decide +kernel)⟩,
   issued (by decide +kernel), by decide +kernel, by decide +kernel, right_of (by decide +kernel)⟩

/-- A ring of two slots of 64 bytes at offset 384 of the folio, as grinit binds it: the folio's end. -/
def xI : XForm := { zX with a := .s 2, b := .s 4, c := .s 6, d := .s 60 }
def bI (k : Core → Core) : State := onWarp (onCore (bF id b0) k) fun w => { w with s := [(2, h0), (4, 384), (6, 0x20040)] }
def ring0 : Gath :=
  { handle := h0, off := 6, slotsz := 0, nslot := 1, pi := 0, ci := 0, res := 0, fill := 0, held := 0, order := [], wg := 0 }
/-- Record 15 bound, s2 naming it. -/
def bG (g : Gath) (w : Warp → Warp) : State :=
  onWarp (onCore (bF id b0) fun k => { k with gath := [(15, g)] }) fun x => w { x with s := [(2, 15)] }

theorem witness_GatheringsComplete :
    (Issued (bI id) (the (bI id)) ∧ (the (bI id)).scalarGo xI.guard = true ∧ scalarDst false xI.d ∧ Bindable (the (bI id)) xI 0 fo0 ∧
      FMap.freeKey (the (bI id)).core.gath 16 = some 0) ∧
    (let s := bI fun k => { k with gath := [(15, ring0)] }
     Issued s (the s) ∧ Bindable (the s) { xI with ext := 15 } 0 fo0 ∧ FMap.get (the s).core.gath 15 = some ring0 ∧
      ring0.wg = (the s).w.wg ∧ (the s).core.ringWaiters 15 = []) ∧
    (∀ g ∈ [ring0, { ring0 with res := 2, fill := 2 }], let s := bG g id
      okNow s = true ∧ ((the s).s32 xI.a 0).toNat = 15 ∧ FMap.get (the s).core.gath 15 = some g) ∧
    (ring0.fill = 0 ∧ ring0.free ≠ 0 ∧ ({ ring0 with res := 2, fill := 2 } : Gath).fill ≠ 0 ∧
      ({ ring0 with res := 2, fill := 2 } : Gath).free = 0) ∧
    (let s := bG { ring0 with res := 1, order := [(0, false)] } fun w => { w with reserved := [(15, 0)] }
     Issued s (the s) ∧ Quiet (the s).w ∧ NoneQueued (the s) ∧ (the s).w.reserved = [(15, 0)]) ∧
    (let s := bG { ring0 with held := 1 } id
     Issued s (the s) ∧ Quiet (the s).w ∧ NoneQueued (the s) ∧ (the s).w.reserved = [] ∧ ring0.held = 0 ∧
      FMap.get (the s).core.gath 15 = some { ring0 with held := 1 }) ∧
    (let s := bI fun k => { k with gath := (List.range 16).map fun n => (n, { ring0 with wg := 1 }) }
     Issued s (the s) ∧ Bindable (the s) { xI with ext := 15 } 0 fo0 ∧ FMap.freeKey (the s).core.gath 16 = none ∧
      (FMap.get (the s).core.gath 15).map (·.wg) = some 1 ∧ 1 ≠ (the s).w.wg) ∧
    let s := onWarp b0 fun w => { w with s := [(4, 384), (6, 0x20040)] }
    Issued s (the s) ∧ FMap.get (the s).core.gath ((the s).s32 xI.a 0).toNat = none ∧ bitsAt ((the s).s32 xI.a 0).toNat 16 9 < 2 ∧
      ((the s).s32 xI.b 0).toNat % 64 = 0 ∧ (the s).core.liveFolio (the s).ctx ((the s).s32 xI.a 0) = none ∧
      bitsAt ((the s).s32 xI.c 0).toNat 0 16 = 64 ∧ bitsAt ((the s).s32 xI.c 0).toNat 16 9 = 2 ∧
      ∃ r, (the s).bindGath xI false = .inl r :=
  ⟨⟨issued (by decide +kernel), by decide +kernel, by simp [scalarDst, xI],
    ⟨by decide +kernel, by decide +kernel, by decide +kernel, by decide +kernel, by decide +kernel, by decide +kernel, by decide +kernel,
     by decide +kernel, by decide +kernel⟩, by decide +kernel⟩,
   ⟨issued (by decide +kernel),
    ⟨by decide +kernel, by decide +kernel, by decide +kernel, by decide +kernel, by decide +kernel, by decide +kernel, by decide +kernel,
     by decide +kernel, by decide +kernel⟩, by decide +kernel, by decide +kernel, by decide +kernel⟩,
   by decide +kernel, by decide +kernel, ⟨issued (by decide +kernel), quiet_of (by decide +kernel), noneQueued_of (by decide +kernel),
    by decide +kernel⟩,
   ⟨issued (by decide +kernel), quiet_of (by decide +kernel), noneQueued_of (by decide +kernel), by decide +kernel, by decide,
    by decide +kernel⟩,
   ⟨issued (by decide +kernel),
    ⟨by decide +kernel, by decide +kernel, by decide +kernel, by decide +kernel, by decide +kernel, by decide +kernel, by decide +kernel,
     by decide +kernel, by decide +kernel⟩, by decide +kernel, by decide +kernel, by decide +kernel⟩,
   issued (by decide +kernel), by decide +kernel, by decide +kernel, by decide +kernel, by decide +kernel, by decide +kernel,
   by decide +kernel, left_of (by decide +kernel)⟩

/-- An operation in flight of the issuing warp. -/
def op0 (kind : OpKind) (cls : Nat) : EngineOp :=
  { warp := 0, warpUid := 1, ctx := 0, level0 := true, launch := 0, cls := cls, seq := 0, kind := kind, buf := [], done := [], line := none, asked := 0, lost := none
    slot := none, waitsSlot := false, record := [], fids := [], notes := [], status := none, info0 := 0, info1 := 0 }
def bOps (o : EngineOp) : State := bE 4 id fun k => { k with ops := [(5, o)], gath := [(15, ring0)] }
def copyOut : OpKind := .copy (.global 0x1000) (.loc h0 508) 1 4 0 0
def copyIn : OpKind := .copy (.loc h0 508) (.global 0x1000) 1 4 0 0

theorem copies_of {s : State} {o : EngineOp} {dst src : End} {rows len ss ds : Nat} (hk : o.kind = .copy dst src rows len ss ds)
    (h : (FMap.get (s.core 0).ops 5 == some o && !(s.cluster (clusterOf 0)).frozen && o.runs &&
      s.cores.all fun k => k.2.warps.all fun w => w.2.quanta.isEmpty) = true) : Claims.Copies s 0 5 o rows len := by
  simp only [Bool.and_eq_true, Bool.not_eq_true', beq_iff_eq, List.all_eq_true, List.isEmpty_iff] at h
  exact ⟨h.1.1.1, h.1.1.2, h.1.2, ⟨_, _, _, _, hk⟩, fun k hk w hw => h.2 k hk w hw⟩

theorem reaches_of {s : State} {o : EngineOp} {acc : Acc} {va : Dword} {pa bytes : Nat} {asked : Bool} (h : (match s.translate o.ctx o.level0 acc va with
      | .pa p _ _ d => p == pa && d.isEmpty
      | _ => false) = true) (hr : (s.lineRequest 0 (pa / 64) 0 bytes).isSome = true ∧ s.poison.contains (pa / 64) = false) :
    Claims.Reaches s 0 o acc va pa [] bytes asked := by
  refine ⟨?_, .inr hr.1, hr.2⟩
  split at h
  · rename_i p plc die d e
    simp only [Bool.and_eq_true, beq_iff_eq, List.isEmpty_iff] at h
    obtain ⟨rfl, rfl⟩ := h
    exact ⟨_, _, e⟩
  · simp at h

theorem witness_EngineWordsMove :
    (let o := op0 copyOut 0
     let s := bOps o
     Claims.Copies s 0 5 o 1 4 ∧ FMap.has o.buf 0 = false ∧ o.done.contains 0 = false ∧
      (s.core 0).readSpot o 0 = some (.folio h0 508) ∧
      (s.core 0).folioSpot 0 h0 508 = some (.inl (.folio 0 508)) ∧ (s.core 0).padBroken (handleSlot h0) 508 4 = false) ∧
    (let o := op0 copyIn 0
     let s := bOps o
     Claims.Copies s 0 5 o 1 4 ∧ (s.core 0).readSpot o 0 = some (.va 0x1000) ∧ Claims.Reaches s 0 o .engineRead 0x1000 0x1000 [] 64 true) ∧
    (let o := { op0 copyIn 0 with buf := [(0, 7)] }
     let s := bOps o
     Claims.Copies s 0 5 o 1 4 ∧ o.done.contains 0 = false ∧ 0 < 1 * 4 / 4 ∧
      FMap.get o.buf 0 = some 7 ∧ (s.core 0).writeSpot o 0 = some (.folio h0 508) ∧
      (s.core 0).folioSpot o.ctx h0 508 = some (.inl (.folio 0 508)) ∧ (s.core 0).padBroken (handleSlot h0) 508 4 = false ∧
      (s.core 0).unclaimed o (handleSlot h0) = false ∧ (s.core 0).overlapped o (.folio h0 508) = false) ∧
    (let o := { op0 copyOut 0 with buf := [(0, 7)] }
     let s := bOps o
     Claims.Copies s 0 5 o 1 4 ∧ (s.core 0).writeSpot o 0 = some (.va 0x1000) ∧
      Claims.Reaches s 0 o .engineWrite 0x1000 0x1000 [] 4 false ∧ (s.core 0).overlapped o (.va 0x1000) = false) ∧
    (let o := { op0 copyIn 0 with buf := [(0, 7)] }
     let s := onCore (bOps o) fun k => { k with folios := [(0, { fo0 with state := .lost })] }
     Claims.Copies s 0 5 o 1 4 ∧ (s.core 0).writeSpot o 0 = some (.folio h0 508) ∧
      (s.core 0).liveFolio o.ctx h0 = some (0, { fo0 with state := .lost }) ∧ (s.core 0).overlapped o (.folio h0 508) = false) ∧
    let o := { op0 (.copy (.gather 15 0) (.global 0x1000) 1 4 0 0) 0 with waitsSlot := true }
    let s := bOps o
    (s.cluster (clusterOf 0)).frozen = false ∧
    FMap.get (s.core 0).gath 15 = some ring0 ∧ ring0.free ≠ 0 ∧ FMap.get (s.core 0).ops 5 = some o ∧
      (((s.core 0).ops.filter fun p => p.2.waitsSlot && p.2.status.isNone && p.2.kind.ring == some 15).map (·.1)) = [5] :=
  ⟨⟨copies_of rfl (by decide +kernel), by decide +kernel, by decide +kernel, by decide +kernel, by decide +kernel, by decide +kernel⟩,
   ⟨copies_of rfl (by decide +kernel), by decide +kernel, reaches_of (by decide +kernel) (by decide +kernel)⟩,
   ⟨copies_of rfl (by decide +kernel), by decide +kernel, by decide, by decide +kernel, by decide +kernel, by decide +kernel,
    by decide +kernel, by decide +kernel, by decide +kernel⟩,
   ⟨copies_of rfl (by decide +kernel), by decide +kernel, reaches_of (by decide +kernel) (by decide +kernel), by decide +kernel⟩,
   ⟨copies_of rfl (by decide +kernel), by decide +kernel, by decide +kernel, by decide +kernel⟩, by decide +kernel⟩

/-- Written whole, with a word dropped at a LOST folio, or failed; of each class. -/
theorem witness_EnginesReport :
    (let o := { op0 copyOut 0 with done := [0] }
     let s := bOps o
     FMap.get (s.core 0).ops 5 = some o ∧ (s.cluster (clusterOf 0)).frozen = false ∧ o.cls = 0 ∧ o.warp ≠ 24 ∧ s.olderOp o = false ∧
      (s.warp 0 0).map (·.uid) = some o.warpUid ∧ o.status = none ∧ o.written = true) ∧
    (let o := { op0 copyOut 0 with done := [0], lost := some (0, h0, 508) }
     let s := bOps o
     FMap.get (s.core 0).ops 5 = some o ∧ s.olderOp o = false ∧ o.status = none ∧ o.written = true) ∧
    (let o := { op0 (.stitch 0x1000) 1 with status := some 1 }
     let s := bOps o
     o.cls = 1 ∧ s.olderOp o = false ∧ (s.warp 0 0).map (·.uid) = some o.warpUid ∧ o.status.isSome = true) ∧
    let o := { op0 (.copy (.remote 1 0) (.loc h0 508) 1 4 0 0) 2 with done := [0] }
    let s := bOps o
    o.cls = 2 ∧ o.needsReply = false ∧ s.olderOp o = false ∧ (s.warp 0 0).map (·.uid) = some o.warpUid ∧
      o.status = none ∧ o.written = true :=
  ⟨by decide +kernel, by decide +kernel, by decide +kernel, by decide +kernel⟩

theorem witness_SpecialRegisters :
    (∃ f : RForm, Issued b0 (the b0) ∧ (the b0).scalarGo f.guard = true ∧ scalarDst (f.ty == .n64) f.d ∧ f.ty = .n64 ∧ f.d = .s 58) ∧
    (∃ f : RForm, (the b0).scalarGo f.guard = true ∧ scalarDst (f.ty == .n64) f.d ∧ f.ty = .n32 ∧ f.d = .s 60) ∧
    Issued bT (the bT) ∧ (the bT).w.trap.mode = true ∧ specialOf { zR with ext := 0x28 } = 0x28 ∧ specialOf { zR with ext := 0x38 } = 0x38 :=
  ⟨⟨{ zR with ty := .n64, d := .s 58 }, issued (by decide +kernel), by decide +kernel, by simp [scalarDst], rfl, rfl⟩,
   ⟨{ zR with ty := .n32, d := .s 60 }, by decide +kernel, by simp [scalarDst], rfl, rfl⟩,
   issued (by decide +kernel), by decide +kernel, by decide, by decide⟩

/-- A handler's fragment, in a trap whose saved registers are changed. -/
def bH (f : TrapRegs → TrapRegs) : State :=
  onFrag (onWarp bT fun w => { w with trap := f w.trap }) fun x => { x with trm := true }

theorem witness_TrapReturn :
    (Issued b0 (the b0) ∧ (the b0).w.trap.mode = false) ∧ (Issued bT (the bT) ∧ (the bT).w.trap.mode = true ∧ (the bT).f.trm = false) ∧
    (let s := bH id
     Issued s (the s) ∧ (the s).w.trap.mode = true ∧ (the s).f.trm = true ∧
      (∀ p ∈ (the s).w.frags, p.1 = (the s).fi ∨ p.2.trm = false) ∧ (the s).w.trap.exitl = false ∧
      (the s).w.trap.pc = (the s).w.trap.entryPc) ∧
    (∀ m : Mask, m = 1 ∨ m = ~~~0 → let s := bH fun t => { t with exitl := true, mask := m }
     Issued s (the s) ∧ (the s).w.trap.mode = true ∧ (the s).f.trm = true ∧
      (∀ p ∈ (the s).w.frags, p.1 = (the s).fi ∨ p.2.trm = false) ∧ (the s).w.trap.exitl = true ∧
      ((the s).w.live &&& ~~~(the s).w.trap.mask = 0 ↔ m = ~~~0)) ∧
    (∀ p g, (p = (0x80 : SlotAddr) ∧ g = Goal.judged true) ∨ (p = 0x81 ∧ g = .judged false) ∨ (p = pFar ∧ g = .unreadable Cause.pageFatal) →
     let s := onFrag (bH fun t => { t with pc := p, entryPc := 0x88 }) fun f => { f with notes := [noteFar] }
     Issued s (the s) ∧ (the s).w.trap.mode = true ∧ (the s).f.trm = true ∧
      (∀ p ∈ (the s).w.frags, p.1 = (the s).fi ∨ p.2.trm = false) ∧ (the s).w.trap.pc ≠ (the s).w.trap.entryPc ∧
      (s.judge (the s) (the s).w.trap.elvl (the s).w.trap.pc).1 = g) ∧
    (∀ st, st = FragState.ready ∨ st = .parked → let s := twin (fun f => { f with state := st }) (bH id)
     Issued s (the s) ∧ (the s).f.trm = true ∧ ∃ p ∈ (the s).w.frags, p.1 ≠ (the s).fi ∧ p.2.trm = true ∧ p.2.state = st) := by
  refine ⟨⟨issued (by decide +kernel), by decide +kernel⟩, ⟨issued (by decide +kernel), by decide +kernel, by decide +kernel⟩,
   ⟨issued (by decide +kernel), by decide +kernel, by decide +kernel, by decide +kernel, by decide +kernel, by decide +kernel⟩, ?_, ?_, ?_⟩
  · rintro m (rfl | rfl) <;>
      exact ⟨issued (by decide +kernel), by decide +kernel, by decide +kernel, by decide +kernel, by decide +kernel, by decide +kernel⟩
  · rintro p g (⟨rfl, rfl⟩ | ⟨rfl, rfl⟩ | ⟨rfl, rfl⟩) <;>
      exact ⟨issued (by decide +kernel), by decide +kernel, by decide +kernel, by decide +kernel, by decide +kernel, by decide +kernel⟩
  · rintro st (rfl | rfl) <;> exact ⟨issued (by decide +kernel), by decide +kernel, by decide +kernel⟩

/-- One line at address 0. -/
def mL : MForm := { zM with a := .v 2, b := .none, guard := g0, scope := 0 }

/-- A line of lane 0 in both caches; a flush; the context of a tlbinv there, quiet, and one that is not there. -/
theorem witness_SystemCompletes :
    (let i := the b1
     Issued b1 i ∧ lanesOf (i.active mL.guard) = [0] ∧
      ∃ va, i.lineBase mL (i.src mL.pairBase mL.a 0 0) (i.src false mL.b 0 0) 0 = some va ∧
        ∃ x ∈ lineAddrs mL va, mL.aop ≠ 1 ∧ b1.lineAt i .load x = some 0 ∧ b1.lineAt i .fetch x = some 0) ∧
    (let i := the b1
     let outs := (lanesOf (i.active mL.guard)).map fun l =>
       (l, b1.probeFlush i mL (i.src mL.pairBase mL.a 0 l) (i.src false mL.b 0 l) l)
     Granted outs ∧ Free b1 i .load none outs ∧ goLanes outs ≠ []) ∧
    ((FMap.get b0.ctxs ((the b0).tlbCtx zR)).isSome = true ∧ b0.ctxQuiet (fun x => x == (the b0).tlbCtx zR) = true) ∧
    (let s := regs [(4, 9)] b0
     Issued s (the s) ∧ FMap.get s.ctxs ((the s).tlbCtx { zR with a := .s 2, b := .s 4 }) = none) ∧
    (FMap.get b0.ctxs (the b0).ctx).isSome = true :=
  ⟨⟨issued (by decide +kernel), by decide +kernel, 0, by decide +kernel, 0, by decide +kernel, by decide, by decide +kernel,
    by decide +kernel⟩,
   ⟨granted_of (by decide +kernel), free_of (by decide +kernel), by decide +kernel⟩, by decide +kernel,
   ⟨issued (by decide +kernel), by decide +kernel⟩, by decide +kernel⟩

/-- A launch of the issuing warp's context. -/
def launch0 (kind : Nat) (st : LaunchState) : Launch :=
  { ctx := 0, words := [BitVec.ofNat 64 (2 ^ 60 * kind), 0x1000, 0x100010000000C, 0, 0x2000, 0, 0, 0], queue := 63, prio := 0, state := st, desc := []
    nx := 1, ny := 1, nz := 1, next := 0, exited := 0, live := 0, ops := 0, error := none, status := 0, start := 0
    cancelled := false, node := none, job := 0, lastDie := none, copyLeft := 0, copyBusy := false, watched := false }
def job0 (d : Bool) : Job :=
  { members := 1, ended := 1, errored := false, cancelled := false, error := none, closed := some (3, 0), start := 0, done := d
    lifted := false }
/-- Queue 63 enabled, with some packets; s4 names it, s2 a launch or job; s8 and s9 hold the packet's first word. -/
def bP (packets : List Queued) (s : State) : State :=
  onWarp (s.modPart 0 fun p => { p with queues := [(63, { Queue.reset with ena := true, packets := packets })] }) fun w => { w with
    s := [(2, 7), (4, 63)] }
def xL : XForm := { zX with a := .s 8, b := .s 4, d := .s 60 }
def xN : XForm := { zX with a := .s 2, d := .s 60 }
def queued0 : Queued := { id := 7, ctx := 0, words := (launch0 0 .queued).words }

theorem witness_PacketInstructions :
    (let s := bP (List.replicate 16 queued0) b0
     Issued s (the s) ∧ (the s).scalarGo xL.guard = true ∧ scalarDst false xL.d ∧ Quiet (the s).w ∧
      ((the s).s32 xL.b 0).toNat = 63 ∧ ((s.part 0).queue 63).ena = true ∧ 16 ≤ ((s.part 0).queue 63).packets.length) ∧
    (let s := bP (List.replicate 15 queued0) b0
     Issued s (the s) ∧ Quiet (the s).w ∧ NoneQueued (the s) ∧ ((s.part 0).queue 63).ena = true ∧ ((s.part 0).queue 63).packets.length < 16 ∧
      badPacket ((the s).packetWords xL.a) = false ∧ FMap.has s.ctxs (the s).ctx = true ∧
      bitsAt (((the s).packetWords xL.a).getD 0 0).toNat 0 16 = 0) ∧
    (let s := bP [] b0
     Issued s (the s) ∧ ((the s).s32 xN.a 0).toNat = 7 ∧ FMap.get s.launches (launchKey 0 7) = none ∧ FMap.get s.jobs (jobKey 0 7) = none ∧
      s.launches = [] ∧
      FMap.get { s with launches := [(7, launch0 2 .ended)] }.launches (launchKey 0 7) = some (launch0 2 .ended) ∧
      FMap.get { s with launches := [(7, launch0 2 .queued)] }.launches (launchKey 0 7) = some (launch0 2 .queued) ∧
      (launch0 2 .queued).kind = 2 ∧ FMap.get s.runs (launchKey 0 7) = none ∧
      FMap.get { s with launches := [(7, launch0 2 .running)] }.launches (launchKey 0 7) = some (launch0 2 .running)) ∧
    (let s := { bP [] b0 with launches := [(7, launch0 2 .queued)], jobs := [(7, job0 true)] }
     Issued s (the s) ∧ FMap.get s.jobs (jobKey 0 7) = some (job0 true)) ∧
    let s := { bP [] b0 with jobs := [(7, job0 false)] }
    Issued s (the s) ∧ FMap.get s.jobs (jobKey 0 7) = some (job0 false) ∧ s.launches = [] :=
  ⟨⟨issued (by decide +kernel), by decide +kernel, by simp [scalarDst, xL], quiet_of (by decide +kernel), by decide +kernel,
    by decide +kernel, by decide +kernel⟩,
   ⟨issued (by decide +kernel), quiet_of (by decide +kernel), noneQueued_of (by decide +kernel), by decide +kernel, by decide +kernel,
    by decide +kernel, by decide +kernel, by decide +kernel⟩,
   ⟨issued (by decide +kernel), by decide +kernel, by decide +kernel, by decide +kernel, by decide +kernel, by decide +kernel,
    by decide +kernel, by decide +kernel, by decide +kernel, by decide +kernel⟩,
   ⟨issued (by decide +kernel), by decide +kernel⟩, issued (by decide +kernel), by decide +kernel, by decide +kernel⟩

/-- Cluster 0 is logical cluster 0 of partition 0; s4 names a workgroup of its core 0, or reserved bits; s2 and s3 hold an address. -/
def bX (b a : Word) : State :=
  onWarp (b0.modPart 0 fun p => { p with pmap := [(0, 0x80)] }) fun w => { w with s := [(2, a), (4, b)] }
def aX : RForm := { zR with a := .s 2, b := .s 4, d := .s 60 }

/-! An image that ctxld finds: one warp, its lane 0 READY at slot address 0x80, of launch 7. -/

/-- Launch 7 runs, and memory at 0x1000 holds that image. -/
def bL : State :=
  let s := { bX 0x20 0x1000 with launches := [(7, launch0 0 .running)] }
  ((((s.mwrite 0x1000 8 0x1000).mwrite 0x1008 4 7).mwrite 0x100C 4 1).mwrite 0x21F0 8 0x8000_0000_0000_0080).mwrite 0x21F8 9
    (0xF0 * 2 ^ 56 + 2 ^ 64)

/-- Whether what a restore leaves is the same for the issuing core. -/
def keeps (s t : State) : Bool := decide (t.core 0 = s.core 0) && decide (t.cur = s.cur)

theorem iss_of_keeps {s t : State} (h : keeps s t = true) (hc : s.cur.core = 0) : t.iss = s.iss := by
  simp only [keeps, Bool.and_eq_true, decide_eq_true_eq] at h
  simp [State.iss, State.warp, h.2, hc, h.1]

/-- What reading the image at 0x1000 gives, and whether it stands for a workgroup that core 1 can take. -/
def readOutcome (s : State) : Nat :=
  match s.readImage 0 1 imagePages 0x1000 [] with
  | .page _ => 0
  | .ok m u => match u.savedOf 0 m with
    | none => 1
    | some v => if (u.restoreOn v 1).isNone then 2 else 3
  | _ => 4

/-- A move of cluster 0 in a phase. -/
def bMv (p : Phase) (a : Word) : State :=
  (bX 0 a).modCluster 0 fun k => { k with move := some {
    target := none, phase := p, emg := false, lit := 16, closeAt := 0, after := none } }

/-- ctxsv of a workgroup that is there, saved, frozen or neither, and of one that is not; ctxld of reserved bits, of a misaligned
address, and of images: one that restores, one that is malformed, one whose page faults, and one for a core without room; capset to
the present LIT, to fewer banks, to more than the step lights, and beside a move, one that can be replaced and one that cannot. -/
theorem witness_ContextEngineCompletes :
    (let s := bX 0x300 0x1000
     Issued s (the s) ∧ (the s).scalarGo aX.guard = true ∧ scalarDst false aX.d ∧ (the s).w.saving = false ∧
      s.namedCore ((the s).s32 aX.b 0) = none ∧ ((the s).s32 aX.b 0).extractLsb' 17 15 = 0 ∧ ((the s).s64 aX.a 0).toNat % 4096 = 0) ∧
    (∀ f ∈ [(none, none, false), (none, none, true), (none, some 0, true), (some (0 : BitVec 16), some 0, false)],
     let s := onWarp (onWg (bX 0 0x1000) fun g => { g with frozen := f.1, preempt := f.2.1 }) fun w => { w with saving := f.2.2 }
     Issued s (the s) ∧ s.namedCore ((the s).s32 aX.b 0) = some 0 ∧
      (FMap.get (s.core 0).wgs 0).map (fun g => (g.frozen, g.preempt)) = some (f.1, f.2.1) ∧ (the s).w.saving = f.2.2 ∧
      ((the s).s32 aX.b 0).extractLsb' 17 15 = 0 ∧ ((the s).s64 aX.a 0).toNat % 4096 = 0) ∧
    (let s := bX 1 0x1000
     s.namedCore ((the s).s32 aX.b 0) = some 0 ∧ FMap.get (s.core 0).wgs (((the s).s32 aX.b 0).extractLsb' 0 5).toNat = none) ∧
    ((the (bX 0x20000 0x1000)).s32 aX.b 0).extractLsb' 17 15 ≠ 0 ∧
    (((the (bX 0 0x1040)).s32 aX.b 0).extractLsb' 17 15 = 0 ∧ ((the (bX 0 0x1040)).s64 aX.a 0).toNat % 4096 ≠ 0) ∧
    (Issued bL (the bL) ∧ ((the bL).s32 aX.b 0).extractLsb' 17 15 = 0 ∧ ((the bL).s32 aX.b 0).extractLsb' 13 4 = 0 ∧
      ((the bL).s64 aX.a 0).toNat = 0x1000 ∧ bL.namedCore ((the bL).s32 aX.b 0) = some 1 ∧
      (bL.loadImage (the bL).ctx 1 0 0x1000).2.iss = some (the bL) ∧ 1 ≠ (the bL).c) ∧
    (readOutcome bL = 3 ∧ readOutcome { bL with launches := [] } = 1 ∧
      readOutcome (bL.modCore 1 fun k => { k with warps := (List.range 24).map fun n => (n, placedWarp 0x80) }) = 2 ∧
      readOutcome (bL.modPart 0 fun p => { p with s2en := true, root2 := 0x5000 }) = 0) ∧
    (Issued (bX 0 16) (the (bX 0 16)) ∧ ((bX 0 16).cluster 0).move = none ∧ (((the (bX 0 16)).s32 aX.a 0).extractLsb' 0 7).toNat = 16 ∧
      (((the (bX 0 8)).s32 aX.a 0).extractLsb' 0 7).toNat = 8 ∧ stepLit ((bX 0 64).cluster 0).step < 64 ∧
      (((the (bX 0 64)).s32 aX.a 0).extractLsb' 0 7).toNat = 64) ∧
    (stepLit ((bX 0 0).cluster 0).step < 64 ∧ (bX 0 0).litOf 0 = 16 ∧ 16 ≤ stepLit ((bX 0 0).cluster 0).step) ∧
    (Issued (bMv .notice 16) (the (bMv .notice 16)) ∧ (((bMv .notice 16).cluster 0).move.map Move.early) = some true) ∧
    Issued (bMv .relock 16) (the (bMv .relock 16)) ∧ (((bMv .relock 16).cluster 0).move.map Move.early) = some false := by
  refine ⟨⟨issued (by decide +kernel), by decide +kernel, by simp [scalarDst, aX], by decide +kernel, by decide +kernel,
    by decide +kernel, by decide +kernel⟩, ?_, by decide +kernel, by decide +kernel, by decide +kernel,
   ⟨issued (by decide +kernel), by decide +kernel, by decide +kernel, by decide +kernel, by decide +kernel,
    (iss_of_keeps (by decide +kernel) (by decide +kernel)).trans (issued (s := bL) (by decide +kernel)).iss, by decide +kernel⟩,
   by decide +kernel,
   ⟨issued (by decide +kernel), by decide +kernel, by decide +kernel, by decide +kernel, by decide +kernel, by decide +kernel⟩,
   by decide +kernel, ⟨issued (by decide +kernel), by decide +kernel⟩, issued (by decide +kernel), by decide +kernel⟩
  intro f hf
  simp only [List.mem_cons, List.not_mem_nil, or_false] at hf
  rcases hf with rfl | rfl | rfl | rfl <;>
    exact ⟨issued (by decide +kernel), by decide +kernel, by decide +kernel, by decide +kernel, by decide +kernel, by decide +kernel⟩

/-- A launch with a kind and a third packet word. -/
def launchW (kind w2 : Nat) (st : LaunchState) : Launch :=
  { launch0 kind st with words := [BitVec.ofNat 64 (2 ^ 60 * kind), 0x1000, BitVec.ofNat 64 w2, 0, 0x2000, 0, 0, 0] }
/-- Partition 0 has cluster 0; queue 63 holds the packet of launch 7; firmware is loaded. -/
def bV (l : Launch) : State :=
  { (bP [queued0] b0).modPart 0 fun p => { p with pmap := [(0, 0x80)] } with
    launches := [(7, l)], mf := { Mf.reset with fwstat := 1 } }
/-- A node of a kind whose word stands at 0x1000. -/
def node0 (kind : Nat) (w1 w3 : Dword) : Node := { w0 := BitVec.ofNat 64 (2 ^ 60 * kind), w1 := w1, w2 := 0, w3 := w3 }
/-- A run of slot 0 whose table has given nodes; the word at 0x1000 is given. -/
def bRun (nodes : List Node) (st : FMap NodeState) (b : Byte) : State :=
  { (bV (launchW 2 0 .running)).modPart 0 fun p => { p with graphs := [(0, nodes)] } with
    runs := [(7, { slot := 0, ctx := 0, job := 0, nodes := st, errored := false, cancelled := false })]
    mem := Memory.writeBytes b0.mem 0x1000 [b, 0, 0, 0, 0, 0, 0, 0x10, 0, 0x10, 0, 0, 0, 0, 0, 0, 4] }

def okWords (r : WalkerRead) (p : List Nat → Bool) : Bool := match r with
  | .ok w _ => p w
  | _ => false

theorem ok_of {r : WalkerRead} {p : List Nat → Bool} (h : okWords r p = true) : ∃ w s2, r = .ok w s2 ∧ p w = true := by
  unfold okWords at h
  split at h
  · exact ⟨_, _, rfl, h⟩
  · simp at h

def okNodes (r : WalkerRead × List Node × Dword) (p : List Node → Bool) : Bool := match r with
  | (.ok _ _, n, _) => p n
  | _ => false

theorem nodes_of {r : WalkerRead × List Node × Dword} {p : List Node → Bool} (h : okNodes r p = true) :
    ∃ w s2 n va, r = (.ok w s2, n, va) ∧ p n = true := by
  unfold okNodes at h
  split at h
  · exact ⟨_, _, _, _, rfl, h⟩
  · simp at h

/-- That state, a die chosen. -/
def bU (l : Launch) : State := { bV l with freeCount := (bV l).freeCount + 1 }

theorem served {l : Launch} {kind : Nat}
    (h : ((bV l).readyPacket 0 63 = some (7, l) ∧ l.kind = kind ∧ FMap.get (bV l).launches 7 = some l)
      ∧ (bV l).servers 0 63 = [0]) : Served (bV l) 0 63 kind 7 l 0 (bU l) :=
  ⟨h.1.1, h.1.2.1, by simp [h.2, State.chooseOf, bU, Nat.mod_one], h.1.2.2⟩

/-- A descriptor of zeros at 0x1000; a table of one JOIN node there. -/
theorem witness_PacketsStart :
    (Served (bV (launchW 0 1 .queued)) 0 63 0 7 (launchW 0 1 .queued) 0 (bU (launchW 0 1 .queued)) ∧ (launchW 0 1 .queued).dimw = false ∧
      ∃ words s2, ((bU (launchW 0 1 .queued)).takePacket 0 63 0 7).walkerRead 0 0x1000 8 8 (.packet 7) 7 = .ok words s2 ∧
        (!badDescriptor (words.map fun x => BitVec.ofNat 64 x) &&
          descField (words.map fun x => BitVec.ofNat 64 x) 2 48 1 == 0) = true) ∧
    (Served (bV (launchW 1 4 .queued)) 0 63 1 7 (launchW 1 4 .queued) 0 (bU (launchW 1 4 .queued)) ∧ (launchW 1 4 .queued).field 2 0 32 ≠ 0 ∧
      0 ∈ ((bV (launchW 1 4 .queued)).part 0).dies) ∧
    Served (bV (launchW 2 0 .queued)) 0 63 2 7 (launchW 2 0 .queued) 0 (bU (launchW 2 0 .queued)) ∧
    (let l := launchW 3 1 .queued
     Served (bV l) 0 63 3 7 l 0 (bU l) ∧ l.status = 0 ∧ l.error = none ∧ l.cancelled = false ∧ ∃ w s2 nodes va,
      ((bU l).takePacket 0 63 0 7).readNodes 0 7 0x1000 (l.field 2 0 13) [] = (.ok w s2, nodes, va) ∧
        (!badNodes nodes) = true) ∧
    Served (bV (launchW 4 0 .queued)) 0 63 4 7 (launchW 4 0 .queued) 0 (bU (launchW 4 0 .queued)) ∧
    let s := (bV (launchW 0 1 .ended)).modPart 0 fun p => { p with
      ena := true, aqis := [(7, { Aqi.reset with ena := true, queue := 63, pasid := 0xFFFFF })] }
    s.functionOn 1 = true ∧ ((s.part 0).aqi 7).ena = true ∧ ((s.part 0).aqi 7).pasid = 0xFFFFF ∧ ((s.part 0).queue 63).ena = true ∧
      ((s.part 0).queue 63).packets.length < 16 ∧ badPacket (launchW 0 1 .queued).words = false ∧
      FMap.has s.ctxs (ctxKey 0 ((s.part 0).queue 63).ctx) = true ∧
      bitsAt ((launchW 0 1 .queued).words.getD 0 0).toNat 0 16 = 0 :=
  ⟨⟨served (by decide +kernel), by decide +kernel, ok_of (by decide +kernel)⟩,
   ⟨served (by decide +kernel), by decide +kernel, by decide +kernel⟩, served (by decide +kernel),
   ⟨served (by decide +kernel), rfl, rfl, rfl, nodes_of (by decide +kernel)⟩, served (by decide +kernel), by decide +kernel⟩

/-- A running launch of some workgroups with the third word of its descriptor and a folio specification. -/
def launchD (n : Nat) (w2 spec : Dword) : Launch := { launchW 0 1 .running with desc := [0, 0, w2, 0, spec, 0, 0, 0], nx := n }
/-- A specification of a folio of rank 1, two units, for f2. -/
def spec0 : Dword := BitVec.ofNat 64 (2 ^ 63 + 2 ^ 60 + 2 ^ 58 + 2 ^ 45)
/-- A launch and its record at 0x3000. -/
def launchE (l : Launch) : Launch := { l with words := l.words.set 5 0x3000 }

theorem dispatches {l : Launch} (h : FMap.get (bV l).launches (launchKey 0 7) = some l ∧ (bV l).mayDispatch 0 l = true ∧
    (bV l).chooseCore 0 l = some 1 ∧ FMap.freeKey ((bV l).core 1).wgs Config.warpSlots = some 0) : Dispatches (bV l) 0 7 1 0 l :=
  ⟨h.1, h.2.1, h.2.2.1, h.2.2.2⟩

theorem pa_of {t : DevTr} {p : Nat} (h : (match t with | .pa q _ => q == p | _ => false) = true) : ∃ u, t = .pa p u := by
  split at h
  · simp only [beq_iff_eq] at h
    subst h
    exact ⟨_, rfl⟩
  · simp at h

/-- A running launch that has more to dispatch: plain, with sewn units, with a folio specification, and cooperative, for which there is
room and is none; one that has nothing; a job whose members have ended; both with a record. -/
theorem witness_LaunchesProceed :
    (let l := launchD 1 0 0
     Dispatches (bV l) 0 7 1 0 l ∧ l.coop = false ∧ l.sewn = 0 ∧ descSpecs l.desc = []) ∧
    (let l := launchD 1 (BitVec.ofNat 64 (2 ^ 34)) 0
     Dispatches (bV l) 0 7 1 0 l ∧ l.sewn = 1 ∧ descSpecs l.desc = [] ∧ ((((bV l).acquire 1 3).core 1).obtain 7 l.sewn).isSome = true) ∧
    (let l := launchD 1 0 spec0
     let k := (bV l).core 1
     Dispatches (bV l) 0 7 1 0 l ∧ descSpecs l.desc = [spec0.toNat] ∧ k.freeSlots ≠ [] ∧
      (fit k.region (bitsAt spec0.toNat 60 3) (bitsAt spec0.toNat 45 12 + 1) k.runs).isSome = true) ∧
    (∀ n, n = 2 ∨ n = 1000 → let l := launchD n (BitVec.ofNat 64 (2 ^ 48)) 0
      FMap.get (bV l).launches (launchKey 0 7) = some l ∧ (bV l).mayDispatch 0 l = true ∧ (bV l).chooseCore 0 l = some 1 ∧
        l.coop = true ∧ l.next = 0 ∧ ((bV l).admitAll 0 7 l.total).isSome = decide (n = 2)) ∧
    (let l := launchE { launchW 0 1 .running with next := 1 }
     FMap.get (bV l).launches (launchKey 0 7) = some l ∧ FMap.get (bV l).runs (launchKey 0 7) = none ∧ l.finished = true ∧
      l.recVa ≠ 0 ∧ ∃ u, ((bV l).unqueue (launchKey 0 7) l).devVa l.ctx .store ((bV l).userCtx l.ctx) l.recVa = .pa 0x3000 u) ∧
    let s := { bV (launchW 0 1 .ended) with jobs := [(7, job0 false)] }
    FMap.get s.jobs (jobKey 0 7) = some (job0 false) ∧ (job0 false).closed.isSome = true ∧ (job0 false).members ≤ (job0 false).ended ∧
      ∃ u, s.devIpa 0 .store ((s.part 0).jobbase + BitVec.ofNat 64 (64 * 7)).toNat (Use.start 0 0) = .pa 448 u :=
  ⟨⟨dispatches (by decide +kernel), by decide +kernel⟩, ⟨dispatches (by decide +kernel), by decide +kernel, by decide +kernel, by decide +kernel⟩,
   ⟨dispatches (by decide +kernel), by decide +kernel, slots_of (by decide +kernel), by decide +kernel⟩, by
     rintro n (rfl | rfl) <;> decide +kernel,
   ⟨by decide +kernel, by decide +kernel, by decide +kernel, by decide +kernel, pa_of (by decide +kernel)⟩,
   by decide +kernel, by decide +kernel, by decide +kernel, pa_of (by decide +kernel)⟩

theorem starts {s : State} {n : Nat} {d : Node} {r : Run} (h : FMap.get s.runs 7 = some r ∧ (s.runNodes 7 r)[n]? = some d ∧
    s.nodeReady 7 r (s.runNodes 7 r) n = true) : Starts s 7 r n d := ⟨h.1, h.2.1, h.2.2⟩

def runOf (st : FMap NodeState) : Run := { slot := 0, ctx := 0, job := 0, nodes := st, errored := false, cancelled := false }
/-- A WHILE node at index 0 with the JOIN node at index 1 as its body. -/
def loop0 : List Node := [node0 3 0x1000 0x10001, node0 4 0 0]
/-- The pass of the body has ended. -/
def passed0 : FMap NodeState :=
  [(0, { arrivals := 0, completed := false, phase := 4, failed := none }), (1, { arrivals := 0, completed := false, phase := 2, failed := none })]

/-- A KERNEL node whose packet stands at 0x1000 and names a descriptor of zeros at 0x2000. -/
def bKernel : State :=
  { bRun [node0 0 0x1000 0] [] 0 with mem := Memory.writeBytes b0.mem 0x1000 [0, 0, 0, 0, 0, 0, 0, 0, 0, 0x20, 0, 0, 0, 0, 0, 0, 1] }
/-- The key of the launch that a node makes, the state in which it is made, and that in which its packet has been read. -/
def new0 (s : State) : LaunchKey := launchKey 0 (s.part 0).nextLaunch
def made0 (s : State) : State := ((s.modNode 7 0 fun x => { x with phase := 1 }).newLaunch 0 0 [] 63 0 (some (7, 0))).2

/-- A read that is a packet of a KERNEL node, whose descriptor then reads as a good one without DIMW. -/
def kernelRead (new : LaunchKey) : WalkerRead → Bool
  | .ok w s2 =>
    let ws := w.map fun x => BitVec.ofNat 64 x
    !badPacket ws && bitsAt (ws.getD 0 0).toNat 60 4 == 0 && bitsAt (ws.getD 0 0).toNat 58 1 == 0 &&
      okWords ((s2.modLaunch new fun x => { x with words := ws, state := .running }).walkerRead 0 (ws.getD 1 0) 8 8 (.packet new) new)
        fun d => !badDescriptor (d.map fun x => BitVec.ofNat 64 x) && descField (d.map fun x => BitVec.ofNat 64 x) 2 48 1 == 0
  | _ => false

theorem kernel_of {new : LaunchKey} {r : WalkerRead} (h : kernelRead new r = true) : ∃ w s2, r = .ok w s2 ∧
    let ws := w.map fun x => BitVec.ofNat 64 x
    badPacket ws = false ∧ bitsAt (ws.getD 0 0).toNat 60 4 = 0 ∧ bitsAt (ws.getD 0 0).toNat 58 1 = 0 ∧
    ∃ d s4, (s2.modLaunch new fun x => { x with words := ws, state := .running }).walkerRead 0 (ws.getD 1 0) 8 8
      (.packet new) new = .ok d s4 ∧ (!badDescriptor (d.map fun x => BitVec.ofNat 64 x) &&
        descField (d.map fun x => BitVec.ofNat 64 x) 2 48 1 == 0) = true := by
  unfold kernelRead at h
  split at h
  · simp only [Bool.and_eq_true, Bool.not_eq_true', beq_iff_eq] at h
    obtain ⟨⟨⟨h1, h2⟩, h3⟩, h4⟩ := h
    exact ⟨_, _, rfl, h1, h2, h3, ok_of h4⟩
  · simp at h

theorem witness_GraphNodesProceed :
    Starts (bRun [node0 4 0 0] [] 0) 7 (runOf []) 0 (node0 4 0 0) ∧
    (Starts (bRun [node0 5 0 0] [] 0) 7 (runOf []) 0 (node0 5 0 0) ∧ (node0 5 0 0).w1 = 0) ∧
    (let d := node0 5 0x1000 7
     Starts (bRun [d] [] 0) 7 (runOf []) 0 d ∧ d.w1 ≠ 0 ∧ ((runOf []).node 0).failed = none ∧
      ∃ u, (bRun [d] [] 0).devVa 0 .store ((bRun [d] [] 0).userCtx 0) d.w1 = .pa 0x1000 u) ∧
    (Starts (bRun [node0 2 0x1000 0] [] 1) 7 (runOf []) 0 (node0 2 0x1000 0) ∧
      ∃ w s2, (bRun [node0 2 0x1000 0] [] 1).walkerRead 0 0x1000 1 4 (.node 7 0) 7 = .ok w s2 ∧ (w == [1]) = true) ∧
    (Starts (bRun loop0 [] 0) 7 (runOf []) 0 (node0 3 0x1000 0x10001) ∧
      ∃ w s2, (bRun loop0 [] 0).walkerRead 0 0x1000 1 4 (.node 7 0) 7 = .ok w s2 ∧ (w == [0]) = true) ∧
    (Starts (bRun loop0 [] 1) 7 (runOf []) 0 (node0 3 0x1000 0x10001) ∧
      ∃ w s2, (bRun loop0 [] 1).walkerRead 0 0x1000 1 4 (.node 7 0) 7 = .ok w s2 ∧ (w == [1]) = true) ∧
    (let s := bRun loop0 passed0 0
     FMap.get s.runs 7 = some (runOf passed0) ∧ (s.runNodes 7 (runOf passed0))[0]? = some (node0 3 0x1000 0x10001) ∧
      ((runOf passed0).node 0).phase = 4 ∧ ((runOf passed0).node 0).failed = none ∧
      (runOf passed0).levelDone (s.runNodes 7 (runOf passed0)) (some 0) = true ∧
      ∃ w s2, s.walkerRead 0 0x1000 1 4 (.node 7 0) 7 = .ok w s2 ∧ (w == [0]) = true) ∧
    (∃ w s2, (bRun loop0 passed0 1).walkerRead 0 0x1000 1 4 (.node 7 0) 7 = .ok w s2 ∧ (w == [1]) = true) ∧
    (let s := bRun [node0 1 0x1000 0] [] 0
     Starts s 7 (runOf []) 0 (node0 1 0x1000 0) ∧ s.nodeLaunch 7 0 = none ∧ FMap.get s.launches 7 = some (launchW 2 0 .running) ∧
      new0 s ≠ 7 ∧ ∃ w s2, (made0 s).walkerRead 0 0x1000 8 8 (.packet (new0 s)) (new0 s) = .ok w s2 ∧
        (!badPacket (w.map fun x => BitVec.ofNat 64 x) &&
          bitsAt ((w.map fun x => BitVec.ofNat 64 x).getD 0 0).toNat 60 4 == 1) = true) ∧
    Starts bKernel 7 (runOf []) 0 (node0 0 0x1000 0) ∧ bKernel.nodeLaunch 7 0 = none ∧
      FMap.get bKernel.launches 7 = some (launchW 2 0 .running) ∧ new0 bKernel ≠ 7 ∧
      kernelRead (new0 bKernel) ((made0 bKernel).walkerRead 0 0x1000 8 8 (.packet (new0 bKernel)) (new0 bKernel)) = true :=
  ⟨starts (by decide +kernel), ⟨starts (by decide +kernel), rfl⟩,
   ⟨starts (by decide +kernel), by decide +kernel, rfl, pa_of (by decide +kernel)⟩, ⟨starts (by decide +kernel), ok_of (by decide +kernel)⟩,
   ⟨starts (by decide +kernel), ok_of (by decide +kernel)⟩, ⟨starts (by decide +kernel), ok_of (by decide +kernel)⟩,
   ⟨by decide +kernel, by decide +kernel, by decide +kernel, by decide +kernel, by decide +kernel, ok_of (by decide +kernel)⟩,
   ok_of (by decide +kernel),
   ⟨starts (by decide +kernel), by decide +kernel, by decide +kernel, by decide +kernel, ok_of (by decide +kernel)⟩,
   starts (by decide +kernel), by decide +kernel, by decide +kernel, by decide +kernel, by decide +kernel⟩

/-- A walk for a store of the issuing warp's context, and a page table that maps its page, the second one. -/
def walk0 : Walk :=
  { ctx := 0, stage := 1, page := 1, va := 0x1000, ipa := 0, acc := .store, level0 := false, core := 0, wslot := 0, range := none, waiters := []
    found := none }
def bPt : State :=
  { b0.mwrite 0x3000 16 (0x3001 + 2 ^ 64 * 0x507F) with
    ctxs := [(0, { placedCtx with root1 := 0x3000 })], dies := [(0, { Die.reset with walks := [(7, walk0)] })] }

theorem leaf_of {w : WalkEnd} (h : (match w with | .leaf _ => true | _ => false) = true) : ∃ l, w = .leaf l := by
  split at h
  · exact ⟨_, rfl⟩
  · simp at h

def record0 : Record := { queue := 0, ctx := 0, fatal := true, entry := none, words := List.replicate 8 0, told := false }

theorem fault_of {k l : Nat} {w : WalkEnd} (h : (match w with | .fault a b _ => a == k && b == l | _ => false) = true) :
    ∃ tr, w = .fault k l tr := by
  split at h
  · simp only [Bool.and_eq_true, beq_iff_eq] at h
    obtain ⟨rfl, rfl⟩ := h
    exact ⟨_, rfl⟩
  · simp at h

/-- A waiting lane of the issuing fragment; a fault on page 1 that its context keeps for a reply. -/
def asks0 : Waiter := { walk0.toAsk with who := .frag 0 0 0 1 }
def walkF : Walk := { walk0 with waiters := [asks0] }
/-- A page table with no entry; the context has its faults replied to. -/
def bPf (d : Die) : State :=
  { onWarp b0 (fun w => { w with k := [(0, 1)] }) with ctxs := [(0, { placedCtx with root1 := 0x3000, frply := true, ranges := [] })], dies := [(0, d)] }
def pendF : PendEntry := { gen := 0, walk := walk0, stage := 1, kind := 1, level := 4, time := 0, written := true }
/-- That fault is known, and every lane's address in v2 stands on its page. -/
def bPend : State := onWarp (bPf { Die.reset with pending := [(0, pendF)] }) fun w => { w with v := [(2, vreg 0x1000)] }
def loadF : MForm := { gM 2 (.v 63) with guard := zR.guard }

theorem faults_of {outs : List (Nat × LaneOut)} (h : (outs.all fun o => o.2.isFault) = true) : ∀ o ∈ outs, ∃ l, o.2 = .fault l := by
  intro o ho
  have := List.all_eq_true.mp h o ho
  unfold LaneOut.isFault at this
  split at this
  · exact ⟨_, by assumption⟩
  · simp at this
def recordS : State :=
  { b0.modPart 0 fun p => { p with fq := { FaultQueue.reset with ena := true, base := 0x4000, prod := 0x7F, cons := 0x7F } } with
    records := [record0] }

/-- A record for the last slot of a ring of 64, which then wraps. -/
theorem witness_WalksAndRecords :
    (FMap.get (bPt.die 0).walks 7 = some walk0 ∧ walk0.stage = 1 ∧ walk0.found = none ∧ (bPt.die 0).missq = [] ∧
      walk0.waiters = [] ∧ ∃ l, bPt.walk1 walk0.ctx (bPt.lead walk0).acc (bPt.lead walk0).level0 (bPt.lead walk0).va = .leaf l) ∧
    (let s := bPf { Die.reset with walks := [(7, walkF)] }
     FMap.get (s.die 0).walks 7 = some walkF ∧ walkF.stage = 1 ∧ walkF.found = none ∧ walkF.range = none ∧ walkF.waiters = [asks0] ∧
      s.frag 0 0 0 = some (the s).f ∧ (the s).f.isSpec = false ∧ (s.wgOf 0 0).map (·.ctx) = some walkF.ctx ∧
      (FMap.get s.ctxs walkF.ctx).map Ctx.frply = some true ∧ (∃ tr, s.walk1 walkF.ctx .store false asks0.va = .fault 1 4 tr) ∧
      (s.die 0).missq = [] ∧ s.pendFor 0 walkF.ctx 1 walkF.page = none ∧
      FMap.freeKey (s.die 0).pending Config.pendSlots = some 0) ∧
    (let outs := bPend.probes (the bPend) loadF .load loadF.bytes ((the bPend).active loadF.guard)
     Issued bPend (the bPend) ∧ outs ≠ [] ∧ (∀ o ∈ outs, ∃ l, o.2 = .fault l) ∧ lanesWhere outs LaneOut.isFault = (the bPend).f.mask ∧
      FMap.get (bPend.die 0).pending 0 = some pendF) ∧
    recordS.records.find? (fun x => x.queue == 0) = some record0 ∧ (recordS.queue 0).ena = true ∧ (recordS.queue 0).full = false ∧
      (∃ u, recordS.recordPa 0 (recordS.queue 0) = .pa 0x4FC0 u) ∧ paHole 0x4FC0 = false ∧ record0.entry = none ∧
      record0.words.length = 8 :=
  ⟨⟨by rfl, rfl, rfl, by rfl, rfl, leaf_of (by decide +kernel)⟩,
   ⟨by rfl, rfl, rfl, rfl, rfl, by decide +kernel, by decide +kernel, by decide +kernel, by decide +kernel, fault_of (by decide +kernel), by rfl, by decide +kernel,
    by decide +kernel⟩,
   ⟨issued (by decide +kernel), by decide +kernel, faults_of (by decide +kernel), by decide +kernel, by rfl⟩,
   by decide +kernel, by decide +kernel, by decide +kernel, pa_of (by decide +kernel), by decide +kernel, rfl, rfl⟩

def rec0 : SpecRec :=
  { lvl := 1, parent := none, mask := 1, pred := 1, pc := 0x80, tgt := 0x80, fall := 0x81, guardK := 0, guardN := false, hint := 0
    rcd := 0, reserved := [], shadows := [], kshadows := [], flags := [], lastReads := [], atomics := [] }
/-- A record whose target side has lanes 1 and 2 and whose other side has lanes 0 and 3; its guard passes for lanes 0 and 1. -/
def recR : SpecRec :=
  { rec0 with
    mask := 15, pred := 6, reserved := [2, 3], shadows := [(1, { written := 15, val := Lanes.splat 7 })]
    kshadows := [(1, { written := 15, bits := 6 })], flags := [(15, 3)] }
def bRec : State := onWarp b0 fun w => { w with
  k := [(0, 3)], spec := [(7, recR)], v := [(1, vreg 9)]
  frags := [(0, { (the b0).f with lvl := 1, mask := 6, sides := [(7, true)] })
            , (1, { (the b0).f with lvl := 1, mask := 9, sides := [(7, false)] })] }
def quantum0 : Quantum :=
  { loc := .global 0x1000, target := none, aop := 0, bytes := 4, scope := 3, sx := false, value := 1, since := 0, dirty := [] }
/-- Guarded branches of one lane that no free entry is left for: eight fragments of twelve lanes. -/
def bFull2 : State :=
  let f := (the b0).f
  onWarp (line2 (b0.mwrite 0x400 64 (placedLine (2 ^ 75 + 0x0400_0201)))) fun w => { w with
    k := [(0, 0x001001001001001001001001)]
    frags := (List.range 8).map fun n => (n, { f with mask := (0xFFF : Mask) <<< (12 * n) }) }

theorem resolving_of {s : State} {core warp record e1 e2 : Nat} {x : Warp} {sr : SpecRec}
    (h : (s.warp core warp = some x ∧ FMap.get x.spec record = some sr ∧ x.canResolve sr = true ∧ (s.cluster (clusterOf core)).frozen = false) ∧
      (x.trap.mode = false ∧ FMap.getD (s.core core).storeQ (warp % 4) [] = [] ∧ x.comps = [] ∧ (∀ p ∈ x.spec, p.2.atomics = [])) ∧
      (FMap.sorted x.frags = true ∧ FMap.sorted x.v = true ∧ FMap.sorted sr.shadows = true ∧ FMap.sorted sr.kshadows = true) ∧
      sr.reserved = [e1, e2] ∧ e1 ≠ e2 ∧ FMap.get x.frags e1 = none ∧ FMap.get x.frags e2 = none) :
    Resolving s core warp record x sr e1 e2 := by
  obtain ⟨⟨h1, h2, h3, h4⟩, ⟨h5, h6, h7, h8⟩, ⟨h9, h10, h11, h12⟩, h13, h14, h15, h16⟩ := h
  exact ⟨h1, h2, h3, h4, h5, h6, h7, h8, h9, h10, h11, h12, h13, h14, h15, h16⟩

theorem witness_WarpEvents :
    (Resolving bRec 0 0 7 (the bRec).w recR 2 3 ∧ (the bRec).w.sideMask 7 true &&& ~~~(the bRec).w.taken recR = 4 ∧
      (the bRec).w.sideMask 7 false &&& (the bRec).w.taken recR = 1) ∧
    ((b0.modCluster 0 fun k => { k with stopped := true }).cluster (clusterOf 0)).frozen = true ∧
    (let s := onWarp { b0 with refTime := 10000 } fun w => { w with quanta := [quantum0, { quantum0 with loc := .global 0x2000, since := 1 }] }
     s.warp 0 0 = some (the s).w ∧ (s.core 0).padBad = [] ∧ (s.cluster (clusterOf 0)).frozen = false ∧
      ((the s).w.quanta.filter fun q => decide (q.since + 10000 ≤ s.refTime)).length = 1) ∧
    (let s := onFrag b0 fun f => { f with state := .waiting, wait := .lock 3 }
     s.frag 0 0 0 = some (the s).f ∧ (the s).f.state = .waiting ∧ (the s).f.wait = .lock 3 ∧ s.lockNext 0 3 = some 0) ∧
    (let f := (the b0).f
     let s := onCore b0 fun k => { k with lockTurn := [(3, 0)], warps := (List.range 2).map fun n => (n, { placedWarp 0x80 with
       frags := [(0, { f with state := .waiting, wait := .lock 3 })] }) }
     (s.frag 0 0 0).map (·.wait) = some (.lock 3) ∧ s.lockNext 0 3 = some 1) ∧
    (let s := onCore (b0.modCluster 0 fun k => { k with rawcyc := 65537 }) fun k => { k with
       locks := [(64 * 64 + 63, { warp := 0, lane := 95, since := 0 })] }
     FMap.get (s.core 0).locks (64 * 64 + 63) = some { warp := 0, lane := 95, since := 0 } ∧ (s.warp 0 0).isSome = true ∧
      65536 < (s.cluster (clusterOf 0)).rawcyc - 0) ∧
    (let l := { launchW 0 1 .running with words := (launchW 0 1 .running).words.set 7 0x1_0000_0000_0000 }
     let s := { bV l with refTime := 1000000 }
     FMap.get s.launches (launchKey 0 7) = some l ∧ l.kind = 0 ∧ l.wdog = 1 ∧ l.state = .running ∧ l.watched = false ∧
      l.start + 1000000 * l.wdog = s.refTime) ∧
    (let x := (the bFull2).w
     bFull2.warp 0 0 = some x ∧ x.frags.length = 8 ∧ x.frags.all (fun p => !p.2.held) = true ∧
      x.frags.all (fun p => p.2.state == .ready && bFull2.stalled 0 0 p.1) = true ∧ x.kpend = [] ∧ x.spec = []) := by
  refine ⟨⟨resolving_of (by decide +kernel), ?_⟩, ?_, ?_, ?_, ?_, ?_, ?_, ?_⟩ <;> decide +kernel

/-- A fragment that sleeps, one in a frwait whose time has come; a slice of a context with work, with and without a rival. -/
def bWait (w : Wait) : State := onFrag { b0 with refTime := 500 } fun f => { f with state := .waiting, wait := w }
def bSlice (wgs : FMap Wg) (ctxs : FMap Ctx) : State :=
  onCore { ((bV (launchW 0 1 .running)).modPart 0 fun p => { p with tslice := 1 }) with
    refTime := 100000, ctxs := (0, { placedCtx with sliceAt := some 0 }) :: ctxs
    launches := [(7, launchW 0 1 .ended), (8, { launchW 0 1 .running with ctx := 1 })] } fun k => { k with wgs := wgs }
/-- A workgroup asked to leave, its image to be written from 0x10000 on. -/
def leaving : Wg := { placedWg 0x80 with preempt := some 500, saveIpa := some 0x10000 }
def bLv : State := { onWg b0 fun _ => leaving with refTime := 500 }

/-- Whether the image of that workgroup can be written. -/
def writes : Bool :=
  let u := bLv.quiesce 0 0
  let p := u.imagePlace leaving
  let v := u.snapshot 0 0 leaving p.1 p.2.1
  let pages := pagesOf (v.bytes (((FMap.get u.launches leaving.launch).map Launch.obj).getD 0) u.refTime)
  let u1 : State := { u with freeCount := u.freeCount + 1 }.modPart (ctxPart leaving.ctx) fun x =>
    if leaving.saveIpa.isSome then x else { x with saveArea := x.saveArea + 4096 * pages.length }
  !(u.core 0).sewnBroken 0 && match u1.writeImage v.part 0 p.1 0 pages with
    | .ok _ => true
    | _ => false

/-- A workgroup of launch 7 that a pre-emption has saved from core 1 to 0x1000. -/
def saved0 : Saved :=
  { part := 0, ipa := 0x1000, pre := true, loaded := false, core := 1, wg := { placedWg 0x80 with tiles := 0, launch := 7 }
    warps := [(0, placedWarp 0x80)], folios := [], gath := [], claims := [], moved := false, seed := 5, counts := [] }

theorem witness_TimersAndSaves :
    (let s := onFrag b0 fun f => { f with age := 64 }
     (s.core 0).warps = [(0, (the s).w)] ∧ (the s).w.frags = [(0, (the s).f)] ∧ s.mayIssue 0 0 0 = true ∧ 64 ≤ (the s).f.age) ∧
    (let s := bWait (.capacity 16 (.s 60) (some 500))
     ∃ i, s.issAt i.c i.wi i.fi = some i ∧ i.f.sides = [] ∧ i.f.state = .waiting ∧ s.mayWake i.c i.wi = true ∧
      i.f.wait.limit = some (500, .s 60) ∧ 500 ≤ s.refTime ∧ scalarDst false (.s 60)) ∧
    (let s := bWait (.sleep 500)
     s.frag 0 0 0 = some (the s).f ∧ (the s).f.state = .waiting ∧ (the s).f.wait = .sleep 500 ∧ s.mayWake 0 0 = true ∧ 500 ≤ s.refTime) ∧
    (let s := bSlice [] []
     FMap.get s.ctxs (ctxKey 0 0) = some { placedCtx with sliceAt := some 0 } ∧ (s.part 0).tslice = 1 ∧ 0 + 100000 * 1 = s.refTime ∧
      s.holdsWork (ctxKey 0 0) = false) ∧
    (let s := bSlice [(0, placedWg 0x80)] []
     s.holdsWork (ctxKey 0 0) = true ∧ s.rivalsOf (ctxKey 0 0) = []) ∧
    (let s := bSlice [(0, placedWg 0x80)] [(1, placedCtx)]
     s.holdsWork (ctxKey 0 0) = true ∧ s.rivalsOf (ctxKey 0 0) ≠ []) ∧
    (FMap.get (bLv.core 0).wgs 0 = some leaving ∧ leaving.preempt = some 500 ∧ 500 ≤ bLv.refTime ∧ bLv.saveReady 0 0 leaving = true ∧
      leaving.image = none ∧ (∀ w ∈ (bLv.core 0).wgWarps 0, bLv.standsAtMmac 0 w.1 = none) ∧ writes = true) ∧
    ∀ s ∈ [{ bL with saved := [saved0] },
      { bL.modCore 1 fun k => { k with warps := (List.range 24).map fun n => (n, placedWarp 0x80) } with saved := [saved0] }],
      s.saved[0]? = some saved0 ∧ s.mayRestore saved0 1 = true ∧ (readOutcome s = 3 ∨ readOutcome s = 2) :=
  ⟨by decide +kernel,
   ⟨the (bWait (.capacity 16 (.s 60) (some 500))), issAt_of (by decide +kernel) rfl (by decide +kernel), by decide +kernel, by decide +kernel, by decide +kernel, by decide +kernel,
    by decide +kernel, by simp [scalarDst]⟩,
   by decide +kernel,
   by decide +kernel, by decide +kernel, by decide +kernel,
   by decide +kernel, by decide +kernel⟩


/-- A packet of a code and a length between two ports of die 0. -/
def packet0 (opc : BitVec 8) (plen : BitVec 4) (data : List Byte) : Packet :=
  { opc := opc, plen := plen, ctx := 0, part := 0, src := 0, dst := 1, tag := 0, addr := 0x1000, dpkg := 0, scope := 0, ord := 0, use := 0
    aop := 0, width := 3, status := 0, mask := 0xFF, data := data }
def bN (p : Packet) : State := { b0 with net := [p] }

theorem arrives {s : State} {p : Packet} {opc : Nat} (h : s.mayArrive p = true ∧ p.opc.toNat = opc ∧ packetMalformed p = false ∧
    paHole p.addr.toNat = false ∧ packetForeign p = false) : Arrives s p opc :=
  ⟨h.1, h.2.1, h.2.2.1, h.2.2.2.1, h.2.2.2.2⟩

theorem arrivesFrom {s : State} {p : Packet} {opc : Nat} (h : s.mayArrive p = true ∧ p.opc.toNat = opc ∧ packetMalformed p = false ∧
    packetForeign p = true) : ArrivesFrom s p opc :=
  ⟨h.1, h.2.1, h.2.2.1, h.2.2.2⟩

/-- A packet of another package, which comes in by the last port of die 0. -/
def foreign0 (opc : BitVec 8) (plen : BitVec 4) (data : List Byte) : Packet := { packet0 opc plen data with src := 0xCB }
/-- Such a packet in flight; its job 0 is bound to context 0 of partition 0. -/
def bBound (p : Packet) : State := (bN p).modPart 0 fun q => { q with hljob := [(0, 2 ^ 63)] }

/-- A valid remap entry of function 16, vector 2047, in its first generation; and an invalid one; an interrupt of function 0. -/
def bRemap (p : Packet) (e : Nat) : State := { (bN p).mwrite 0 8 e with mf := { Mf.reset with remapbase := 0 } }
def int0 (generation : Byte) : Packet := packet0 7 1 [0, 0, 0, generation]

/-- Flits with a good CRC and KIND or CLS = 3, which no flit has. -/
def bFlit (n : Nat) : Flit :=
  let f : Flit := { data := 7, side := 3 <<< n }
  { f with side := f.side + f.crcOf.setWidth 32 }

theorem witness_PacketsLand :
    (∀ n, n = 1 ∨ n = 11 → Arrives (bN (packet0 (BitVec.ofNat 8 n) 0 [])) (packet0 (BitVec.ofNat 8 n) 0 []) n ∧
      (bN (packet0 (BitVec.ofNat 8 n) 0 [])).poison.contains (0x1000 / 64) = false ∧
      ({ bN (packet0 (BitVec.ofNat 8 n) 0 []) with poison := [64] } : State).poison.contains (0x1000 / 64) = true) ∧
    (∀ n, n = 2 ∨ n = 12 → let p := packet0 (BitVec.ofNat 8 n) 1 (List.replicate 64 7)
     Arrives (bN p) p n ∧ p.data.length ≤ 64) ∧
    Arrives (bN (packet0 3 1 (List.replicate 8 7))) (packet0 3 1 (List.replicate 8 7)) 0x03 ∧
    [(4, 0), (5, 1), (6, 1), (8, 2), (9, 0), (10, 4), (13, 8)].all (fun x =>
      (bN (packet0 x.1 x.2 [])).mayArrive (packet0 x.1 x.2 []) && !packetMalformed (packet0 x.1 x.2 [])) = true ∧
    ArrivesFrom (bN (foreign0 4 0 [])) (foreign0 4 0 []) 0x04 ∧
    (∀ p ∈ [packet0 1 1 [], foreign0 1 1 []], (bN p).mayArrive p = true ∧ packetMalformed p = true ∧
      packetForeign p = (p == foreign0 1 1 [])) ∧
    (∀ x ∈ [((1 : BitVec 8), (0 : BitVec 4)), (11, 0), (2, 1), (12, 1), (3, 1)], let p := foreign0 x.1 x.2 []
     ArrivesFrom (bN p) p x.1.toNat ∧ (bN p).boundCtx p = none) ∧
    (let p := foreign0 1 0 []
     ArrivesFrom (bBound p) p 0x01 ∧ (bBound p).boundCtx p = some 0 ∧ (bBound p).poison.contains (0x1000 / 64) = false ∧
      ∃ u, (bBound p).devVa 0 .load ((bBound p).userCtx 0) (p.addr.setWidth 64) = .pa 0x1000 u) ∧
    ∀ g, g = 0 ∨ g = 1 → let s := bRemap (int0 g) (2 ^ 63 + 2 ^ 44 + 2047)
      s.mayArrive (int0 g) = true ∧ packetMalformed (int0 g) = false ∧ paHole 0 = false ∧ remapValid (s.mread 0 8) 0 = true ∧
      decide (leOf (int0 g).data / 2 ^ 24 = (s.mf.fn 0).2.toNat) = (g == 0) ∧
      bitsAt (s.mread 0 8) 14 7 = (s.mf.fn 16).2.toNat ∧ (s.mf.fn 16).1 = 0 ∧ bitsAt (s.mread 0 8) 40 8 = 16 ∧
      remapValid ((bRemap (int0 g) 0).mread 0 8) 0 = false :=
  ⟨fun n h => by rcases h with rfl | rfl <;> exact ⟨arrives (by decide +kernel), by decide +kernel, by decide +kernel⟩,
   fun n h => by rcases h with rfl | rfl <;> exact ⟨arrives (by decide +kernel), by decide +kernel⟩,
   arrives (by decide +kernel), by decide +kernel, arrivesFrom (by decide +kernel), by decide +kernel,
   fun x h => by
    simp only [List.mem_cons, List.not_mem_nil, or_false] at h
    rcases h with rfl | rfl | rfl | rfl | rfl <;> exact ⟨arrivesFrom (by decide +kernel), by decide +kernel⟩,
   ⟨arrivesFrom (by decide +kernel), by decide +kernel, by decide +kernel, pa_of (by decide +kernel)⟩,
   fun g h => by rcases h with rfl | rfl <;> decide +kernel⟩

theorem witness_LinkErrors :
    b0.linkUp 900 = true ∧
    (let s : State := { b0 with links := [(119, { Link.reset with replays := 17 })] }
     s.linkUp 119 = true ∧ 17 ≤ (s.link 119).replays) ∧
    ((bFlit 22).crc = (bFlit 22).crcOf ∧ (bFlit 22).kind = 3) ∧ ((bFlit 20).crc = (bFlit 20).crcOf ∧ (bFlit 20).cls = 3) ∧
    (let s : State := { b0 with links := [(900, { Link.reset with retraining := true, replays := 17 })] }
     (s.link 900).retraining = true) ∧
    packetForeign (packet0 2 1 []) = false ∧
    ((bBound (foreign0 2 1 [])).boundCtx (foreign0 2 1 [])).map ctxPart = some 0 ∧
    (packetForeign (foreign0 2 1 []) = true ∧ b0.boundCtx (foreign0 2 1 []) = none) ∧
    (let s := b0.modPart 1 fun p => { p with ena := true, pmap := [(0, 0x80)] }
     FMap.has s.parts 1 = true ∧ 0 ∈ (s.part 1).dies) ∧
    (b0.packetOwner (packet0 2 1 []) = some 0 ∧ FMap.has b0.ctxs 0 = true) ∧
    (bBound (foreign0 2 1 [])).packetOwner (foreign0 2 1 []) = some 0 := by
  refine ⟨?_, ?_, ?_, ?_, ?_, ?_, ?_, ?_, ?_, ?_, ?_⟩ <;> decide +kernel

/-- Cluster 0 in a state. -/
def bCl (f : Cluster → Cluster) : State := b0.modCluster 0 f
def move0 (ph : Phase) (t : Option Target) : Move := { target := t, phase := ph, emg := false, lit := 16, closeAt := 0, after := none }
def t0 (step freq : Nat) : Target := { step := step, freq := freq }

/-- A rise, a relock, the present point, and a fall of the step; the first close point of a bank; each phase of a move. -/
theorem witness_MovesProceed :
    (∀ x ∈ [t0 2 2100, t0 1 400, t0 1 1200], let s := bCl fun k => { k with mbox := some x }
      (s.cluster 0).mbox = some x ∧ (s.cluster 0).hold = none ∧ (s.cluster 0).stopped = false ∧ (s.cluster 0).move = none ∧
        (s.relocksFirst 0 x = false ∨ s.mayRelock 0 = true) ∧ (s.cluster 0).step ≤ x.step) ∧
    (let s := onCore (bCl fun k => { k with mbox := some (t0 1 400), step := 2, freq := 800 }) fun k => { k with cap := { k.cap with lit := 40, alloc := 40 } }
     (s.cluster 0).mbox = some (t0 1 400) ∧ (s.cluster 0).hold = none ∧ (s.cluster 0).stopped = false ∧ (s.cluster 0).move = none ∧
      (t0 1 400).step < (s.cluster 0).step ∧ stepLit (t0 1 400).step < s.litOf 0) ∧
    (let m := move0 .notice (some (t0 1 800))
     let s := onCore (bCl fun k => { k with mbox := some (t0 1 400), step := 2, freq := 800, move := some m }) fun k =>
       { k with cap := { k.cap with lit := 40, alloc := 40 } }
     (s.cluster 0).mbox = some (t0 1 400) ∧ (s.cluster 0).move = some m ∧ m.early = true ∧ stepLit (t0 1 400).step < s.litOf 0) ∧
    (let s := { bCl fun k => { k with mbox := some (t0 1 400) } with mf := { Mf.reset with relocks := [(1, 0)], didt := 1 } }
     (s.cluster 0).mbox = some (t0 1 400) ∧ (s.cluster 0).hold = none ∧ s.relocksFirst 0 (t0 1 400) = true ∧ s.mayRelock 0 = false) ∧
    (let s := onCore b0 fun k => { k with cap := { k.cap with pend := true, target := 8, lit := 9, closeAt := some 0 } }
     s.closing 0 = some 8) ∧
    (∀ t ∈ [none, some (t0 2 1200), some (t0 2 800), some (t0 1 1200)],
      let s := bCl fun k => { k with move := some (move0 .closing t) }
      (s.cluster 0).move = some (move0 .closing t) ∧ (∀ k ∈ coresOf 0, (s.core k).cap.pend = false) ∧ s.mayRelock 0 = true) ∧
    (∀ ph ∈ [Phase.relock, .voltage], let s := bCl fun k => { k with move := some (move0 ph (some (t0 2 2100))) }
      (s.cluster 0).move = some (move0 ph (some (t0 2 2100))) ∧ s.mayRelock 0 = true) ∧
    let s := bCl fun k => { k with move := some (move0 .relight none) }
    (s.cluster 0).move = some (move0 .relight none) ∧ ∀ k ∈ coresOf 0, (s.core k).cap.emg = false := by
  refine ⟨?_, ?_, ?_, ?_, ?_, ?_, ?_, ?_⟩ <;> decide +kernel

/-- A unit of a router, which is in no cluster; and a unit of cluster 31 at TTRIP, which lies below TCRIT. -/
def cool0 : Reading := { unit := 0x100, temp := 0 }
def hot0 : Reading := { unit := 0xC38, temp := Config.ttrip }
/-- A state whose maximum tree has a reading due, cluster 31 at the highest point; that reading, of one hot unit. -/
def bTree : State := { b0.modCluster 31 fun k => { k with step := 3, freq := 3000 } with refTime := 5000 }
def bSensed : State := [hot0].foldl State.sense bTree

theorem sensed_die (d : Nat) : (bSensed.die d).readings = if d = 3 then [hot0] else [] := by
  by_cases h : d = 3
  · subst h; rfl
  · have e : FMap.get bSensed.dies d = FMap.get b0.dies d := FMap.get_set_ne _ _ (Ne.symm h)
    simp only [State.die, FMap.getD, e, h, if_false]
    rfl

theorem sensed_cool (c : Nat) (q : Reading) (h : bSensed.hotOf c = some q) : q.temp.toInt < Config.tcrit.toInt := by
  unfold State.hotOf at h
  rw [sensed_die] at h
  split at h
  · by_cases hc : readingCluster hot0 = some c
    · rw [List.filter_cons_of_pos (by simp [hc])] at h
      obtain rfl : hot0 = q := by simpa [hottest] using h
      exact Config.thresholds.2
    · rw [List.filter_cons_of_neg (by simp [hc])] at h
      simp [hottest] at h
  · simp [hottest] at h

/-- The controller's target: the highest point, with a temperature predicted to pass TLIM. -/
def tgt0 (p : BitVec 16) : ControllerTarget := { cluster := 31, step := 3, freq := 3000, grant := 0xFFFFFF, predicted := p }

theorem witness_ControllerActs :
    b0.refTime / 100000 = b0.mf.period ∧
    (let s := { b0 with refTime := 100000 }
     s.refTime / 100000 ≠ s.mf.period ∧ (∀ p, (tgt0 p).cluster < 32) ∧ (t0 3 3000).valid = true ∧
      ((t0 3 3000).lower (s.present 31)).valid = true ∧ ((t0 3 3000).lower (s.present 31).below).valid = true ∧ s.ownerOf 31 = none) ∧
    Config.tlim.toInt < (tgt0 Config.ttrip).predicted.toInt :=
  ⟨by decide +kernel, by refine ⟨?_, fun p => ?_, ?_, ?_, ?_, ?_⟩ <;> first | exact (by decide : 31 < 32) | decide +kernel, Config.thresholds.1⟩

theorem witness_HeatActs :
    b0.treeDue = false ∧ bTree.treeDue = true ∧
    (sensorOf cool0 = some 0x100 ∧ (([cool0].foldl State.sense bTree).die 0).readings ≠ [] ∧
      ∀ c, c < 32 → ([cool0].foldl State.sense bTree).hotOf c = none) ∧
    (bSensed.hotOf 31 = some hot0 ∧ (∀ c q, bSensed.hotOf c = some q → q.temp.toInt < Config.tcrit.toInt) ∧
      Config.ttrip.toInt ≤ hot0.temp.toInt ∧ (bTree.cluster 31).stopped = false ∧ (bTree.cluster 31).move = none ∧
      (bTree.cluster 31).step = 3) ∧
    ∀ x ∈ [((40 : BitVec 6), (none : Option Move)), (40, some (move0 .relight none)), (8, none), (8, some (move0 .relight none))],
      let s := onCore { bCl fun k => { k with freq := 400, hotSince := some 0, move := x.2 } with refTime := 1000000 } fun k =>
        { k with cap := { k.cap with lit := x.1.toNat, alloc := x.1.toNat } }
      (s.cluster 0).hotSince = some 0 ∧ (s.cluster 0).stopped = false ∧ (s.cluster 0).step = 1 ∧ (s.cluster 0).freq = 400 ∧
        0 + 1000000 ≤ s.refTime ∧ (s.cluster 0).move = x.2 ∧ (s.cluster 0).inEmergency = false ∧
        (x.2.all fun m => !m.early) = true ∧ decide (8 < s.litOf 0) = (x.1 == 40) ∧ 0 < s.litOf 0 :=
  ⟨by decide +kernel, by decide +kernel, by decide +kernel,
   ⟨by rfl, sensed_cool, Int.le_refl _, by rfl, by rfl, by rfl⟩, by decide +kernel⟩

theorem witness_PowerEvents :
    (let s := { bCl fun k => { k with coolSince := some 0 } with refTime := 1000000 }
     (s.cluster 0).coolSince = some 0 ∧ 0 + 1000000 = s.refTime) ∧
    (let s := { b0 with refTime := 1000 }
     (s.cluster 0).interval ≠ s.refTime / 1000) ∧
    (let s := bCl fun k => { k with rawcyc := 1024 }
     (s.core 0).matrix.winIdx ≠ (s.core 0).matrix.windowOf (s.cluster (clusterOf 0)).rawcyc) ∧
    (let s := { b0 with refTime := 2000 }
     s.mf.warm (s.cluster (clusterOf 0)).freq = false ∧ (s.core 0).matrix.compute = none ∧ (s.core 0).matrix.wantWake = none ∧
      FMap.getD (s.core 0).matrix.idleSince 3 0 + 2000 = s.refTime ∧ s.ownerOf (clusterOf 0) = none) ∧
    (let s := onCore b0 fun k => { k with matrix := { k.matrix with gated := 8 } }
     (s.core 0).matrix.gated ≠ 0 ∧ (s.core 0).matrix.wakeAt = none ∧ s.slotOpens 0 = true) ∧
    (let s := onCore b0 fun k => { k with matrix := { k.matrix with gated := 8, wakeAt := some 0 } }
     (s.core 0).matrix.wakeAt = some 0 ∧ 0 ≤ (s.cluster (clusterOf 0)).rawcyc) ∧
    (let s : State := { b0 with refTime := 50000, mf := { Mf.reset with ballastSince := some 0 } }
     s.mf.ballastSince = some 0 ∧ 0 + 50000 = s.refTime) ∧
    let s := { b0 with refTime := 1000000 }.modDie 3 fun d => { d with
      tel := { d.tel with ring := { d.tel.ring with ena := true, base := 0x8000, prod := 1023 } } }
    s.recordDue 3 = true ∧ (s.die 3).tel.ring.ena = true ∧
      paHole ((s.die 3).tel.ring.base.toNat + 128 * ((s.die 3).tel.ring.prod.toNat % 2 ^ (s.die 3).tel.ring.log)) = false := by
  refine ⟨?_, ?_, ?_, ?_, ?_, ?_, ?_, ?_⟩ <;> decide +kernel

/-- Firmware is loaded, and partition 0 is enabled; with a context argument. -/
def bM (f : Part → Part) : State := { b0.modPart 0 f with mf := { Mf.reset with fwstat := 1 } }

/-- A held fault of entry 1023 of die 3. -/
def pend0 : PendEntry := { gen := 15, walk := walk0, stage := 1, kind := 1, level := 0, time := 0, written := true }
def fid0 : BitVec 16 := 0xFFFF

/-- The issuing fragment is parked at that fault, alone. -/
def bReply : State :=
  onFrag { b0 with dies := [(3, { Die.reset with pending := [(1023, pend0)] })] } fun f => { f with
    state := .parked, fids := [{ fid := fid0, lanes := 1, va := 0x1000, matrix := false, answer := none }] }

theorem only_frag {s : State} {k : Core} {x : Warp} {f q : Frag} {c w fi : Nat} (hc : s.cores = [(0, k)]) (hw : k.warps = [(0, x)])
    (hf : x.frags = [(0, f)]) (h : s.frag c w fi = some q) : (c, w, fi) = (0, 0, 0) := by
  by_cases h0 : c = 0
  · subst h0
    by_cases h1 : w = 0
    · subst h1
      by_cases h2 : fi = 0
      · rw [h2]
      · exact absurd h (by simp [State.frag, State.warp, State.core, hc, hw, hf, FMap.get, FMap.getD, Ne.symm h2])
    · exact absurd h (by simp [State.frag, State.warp, State.core, hc, hw, FMap.get, FMap.getD, Ne.symm h1])
  · exact absurd h (by simp [State.frag, State.warp, State.core, hc, FMap.get, FMap.getD, Ne.symm h0, Core.reset])

theorem witness_RepliesRelease :
    WaitsOn bReply 0 fid0 pend0 0 0 0 (the bReply).f { fid := fid0, lanes := 1, va := 0x1000, matrix := false, answer := none } ∧
    pend0.walk.waiters = [] ∧ (the bReply).f.held = false ∧
    ∃ k x, bReply.cores = [(0, k)] ∧ k.warps = [(0, x)] ∧ x.frags = [(0, (the bReply).f)] :=
  have h : bReply.cores = [(0, bReply.core 0)] ∧ (bReply.core 0).warps = [(0, (the bReply).w)] ∧
      (the bReply).w.frags = [(0, (the bReply).f)] := by decide +kernel
  ⟨⟨by decide +kernel, by decide, by decide, by decide +kernel, by decide +kernel, by decide +kernel, rfl, rfl,
     fun _ _ _ _ hq hne => absurd (only_frag h.1 h.2.1 h.2.2 hq) hne⟩,
   rfl, by decide +kernel, _, _, h⟩

theorem witness_HostCommandsComplete :
    ({ Mf.reset with fwstat := 2 } : Mf).fwstat ≠ 1 ∧ (bM id).functionOn 0 = true ∧
    -- CREATE: an image of zeros, of a PASID that no context has
    (let s := { bM fun p => { p with ctxarg := 0x2000 } with ctxs := [(1, { placedCtx with pasid := 1 })] }
     let u := s.usePte 0 (s.unitDie 0) 0x2000 (Use.start 0 0)
     let w := (List.range 8).map fun j => s.mdword (0x2000 + 8 * j)
     s.functionOn 1 = true ∧ ((s.part 0).ctxarg).toNat % 64 = 0 ∧
      s.devIpa 0 .load 0x2000 (Use.start 0 0) = .pa 0x2000 (Use.start 0 0) ∧ badImage w = false ∧
      (∀ x ∈ s.ctxs, ctxPart x.1 = 0 → x.2.pasid ≠ (u.ctxOf 0 w).pasid) ∧
      (List.range 4096).find? (fun n => !(s.ctxIds 0).contains n) = some 0) ∧
    -- DESTROY and RESUME of context 4,095, and of none
    (let s := { bM fun p => { p with ctxarg := 4095 } with ctxs := [(4095, { placedCtx with halted := true })] }
     s.functionOn 1 = true ∧ s.argCtx 0 = some (4095, { placedCtx with halted := true }) ∧ s.hasWork 4095 = false) ∧
    (bM fun p => { p with ctxarg := 4096 }).argCtx 0 = none ∧
    ((0xFFF : BitVec 32).extractLsb' 12 20 = 0 ∧
      FMap.has ({ b0 with ctxs := [(4095, placedCtx)] } : State).ctxs (ctxKey 0 ((0xFFF : BitVec 32).extractLsb' 0 12).toNat) = true) ∧
    -- TLBCMD and S2CMD
    (let s := bM id
     s.functionOn 1 = true ∧ (s.part 0).tlbBusy = none ∧ FMap.get s.ctxs (ctxKey 0 0) = some placedCtx) ∧
    (let s := bM fun p => { p with s2en := true, pdesc := 0x3000 }
     s.s2Taken 0 = true ∧ s.descHole 0 true = none ∧ s.descHole 0 false = none ∧ (s.part 0).s2en = true ∧
      s.badDescriptor (s.part 0).pdesc.toNat = false) ∧
    -- replies
    FMap.get (b0.die 3).pending 1023 = none ∧
    let s : State := { b0 with dies := [(3, { Die.reset with pending := [(1023, pend0)] })] }
    (fid0.extractLsb' 14 2).toNat = 3 ∧ (fid0.extractLsb' 0 10).toNat = 1023 ∧ FMap.get (s.die 3).pending 1023 = some pend0 ∧
      pend0.gen = fid0.extractLsb' 10 4 ∧ pend0.queue = 0 ∧ pend0.walk.waiters = [] := by
  refine ⟨by decide +kernel, by decide +kernel, ⟨by decide +kernel, by decide +kernel, by decide +kernel, by decide +kernel,
    by decide +kernel, by decide +kernel⟩, ?_, ?_, ?_, ?_, ?_, ?_, ?_⟩ <;> decide +kernel

/-- One register of each kind that keeps what is written to it, at the ends of their ranges. -/
theorem witness_RegistersKeep :
    (∀ x ∈ [(1, 0x10, ~~~0), (16, 0x20, ~~~0x3F), (16, 0x40, ~~~0xFFF), (0, 0x30, ~~~0xFFF), (0, 0x40, 0xF_FFFF_FFFF_F000)],
      Keeps8 x.1 x.2.1 x.2.2) ∧
    Keeps8 0 (0x3008 + 0x10 * 16) (~~~0xFFF) ∧ Keeps8 0 (0x4_0000 + 0x800 * 15 + 8 * 255) 0x8000_FFFF_0000_0FFF ∧
    Keeps4 16 (0x1000 + 8 * 63) 0x8700_0FFF 0 ∧ Keeps4 16 (0x100 + 8 * 7) 0xBF0F_FFFF 0 ∧ Keeps4 1 0x34 0x3F_FFFF 0x3E_8FFF ∧
    Keeps4 0 0x10 0xFFF 2800 ∧ Keeps4 0 0x14 0x7FF 20 ∧ (bM id).functionOn 0 = true ∧ (bM id).functionOn 1 = true ∧
    (bM id).answersAt 5 0x10 = false := by
  refine ⟨?_, .inr ⟨rfl, .inr (.inl ⟨16, by decide, rfl, rfl⟩)⟩, .inr ⟨rfl, .inr (.inr ⟨15, 255, by decide, by decide, rfl, rfl⟩)⟩,
    .inl ⟨by decide, .inl ⟨63, by decide, rfl, rfl⟩⟩, .inl ⟨by decide, .inr (.inl ⟨7, by decide, rfl, rfl⟩)⟩,
    .inl ⟨by decide, .inr (.inr (by decide))⟩, .inr ⟨rfl, .inl (by decide)⟩, .inr ⟨rfl, .inr (by decide)⟩, ?_⟩
  · intro x hx
    simp only [List.mem_cons, List.not_mem_nil, or_false] at hx
    rcases hx with rfl | rfl | rfl | rfl | rfl
    · exact .inl (by decide)
    · exact .inl (by decide)
    · exact .inl (by decide)
    · exact .inr ⟨rfl, .inl (by decide)⟩
    · exact .inr ⟨rfl, .inl (by decide)⟩
  · decide +kernel

/-- A package with a usable cluster c: PMOVE names it, and another cluster is mapped. -/
def bMove (c : Nat) : State := bM fun p => { p with pmap := [(0, BitVec.ofNat 8 (0x80 + 4 * ((c + 1) % 32)))] }

theorem move_free : (List.range 32).all (fun c => (bMove c).functionOn 0 && !((bMove c).part 0).busy &&
    (FMap.getD ((bMove c).part 0).pmap 0 0).getLsbD 7 && !(bMove c).occupied c) = true := by decide +kernel

/-- A speculative store queued to the last frame of a region. -/
def bQueued : State :=
  onCore (bM id) fun k => { k with storeQ := [(0, [{ warp := 0, seq := 0, record := none, pc := 0x80, bytes := 4, scope := 0, atomic := none
                                                     lanes := [{ lane := 0, loc := .global 0x2FFFC, data := 0, data2 := 0, dirty := [] }] }])] }

theorem witness_HostAccessesComplete :
    (∀ x ∈ [(bM id, false), (bQueued, true)], let s := x.1
      s.functionOn 1 = true ∧ (s.modPart 0 fun p => { p with plrel := 0x20000 }).framesOf 0 0x20000 16 =
        (List.range 16).map (0x20 + ·) ∧
      s.queuedTo (fun pa => ((List.range 16).map (0x20 + ·)).contains (pa / 4096)) = x.2) ∧
    (∀ c, c < 32 → Config.harvest.getLsbD c = false → (bMove c).functionOn 0 = true ∧ ((bMove c).part 0).busy = false ∧
      (FMap.getD ((bMove c).part 0).pmap 0 0).getLsbD 7 = true ∧ (bMove c).clusterGone c = false ∧
      (bMove c).occupied c = false) ∧
    ((bM id).functionOn 0 = true ∧ ((bM id).part 0).ena = true) ∧
    (let s := bM fun p => { p with ena := false }
     (s.part 0).ena = false ∧ denseMap (FMap.set (s.part 0).pmap 31 (0x7C &&& 0xFC)) = true ∧ (0x7C : BitVec 8).getLsbD 7 = false ∧
      s.functionOn 0 = true ∧ (0xC000_0000 : BitVec 32).getLsbD 31 = true ∧ (0xC000_0000 : BitVec 32).getLsbD 27 = false) ∧
    ((t0 3 3000).valid = true ∧ (t0 0 0).valid = false) ∧
    paHole (FMap.getD (bM id).mf.pendbase 16 0).toNat = false ∧
    ((bM id).functionOn 1 = true ∧ ((bM id).part 0).aqiEver = false) ∧
    (let s := { bM id with uciDown := [0] }
     s.carrier 0 = some 1 ∧ s.functionOn 1 = true ∧ (s.part 0).s2en = false ∧ paHole 0x2FFF = false ∧ 0x2FFF % 4096 + 1 ≤ 4096) ∧
    (let s := { bM id with poison := [0xBF] }
     s.carrier 0 = some 0 ∧ 0 < 1 ∧ ∃ x ∈ s.poison, 0x2FFF / 64 ≤ x ∧ 64 * x < 0x2FFF + 1) := by
  refine ⟨by decide +kernel, fun c hc h => ?_, by decide +kernel, by decide +kernel, by decide +kernel, by decide +kernel,
    by decide +kernel, by decide +kernel, by decide +kernel⟩
  have := List.all_eq_true.mp move_free c (List.mem_range.mpr hc)
  simp only [Bool.and_eq_true, Bool.not_eq_true'] at this
  have hr : (bMove c).mf.retire = 0 := rfl
  exact ⟨this.1.1.1, this.1.1.2, this.1.2, by simp [State.clusterGone, h, hr], this.2⟩

theorem witness_DecodeEncode :
    (∃ i w, i.wellFormed = true ∧ encode i = some w) ∧ ∃ (w : BitVec 96) (i : Instr), decode w = .ok i :=
  ⟨⟨.nop zR, _, by decide +kernel, rfl⟩, 0x200, .nop zR, by decide +kernel⟩

/-- The agenda issues the nop of line 16. -/
theorem witness_StepRunsDecoded :
    (let u := chosen { b0 with agenda := [] } 0 0 0 false
     let i := the u
     let l := Memory.readBytes u.mem 0x400 64
     b0.agenda = [.issue i.c i.wi i.fi false] ∧ ({ b0 with agenda := [] } : State).mayChoose 0 0 0 = true ∧ (({ b0 with agenda := [] } : State).ageSlot 0 0 0).mayIssue 0 0 0 = true ∧ goesOn u i ∧
      u.translate i.ctx (i.f.priv == 0) .fetch (lineVa i.f.pc) = .pa 0x400 0 0 [] ∧ FMap.get (u.core i.c).badLines 16 = none ∧
      FMap.get (u.core i.c).icache 16 = none ∧ i.f.entry.isSome = false ∧ lineBad l = 0 ∧ lineReserved l = none ∧
      illegalPair l 0 = false ∧ allowed (u.part (ctxPart i.ctx)).featack i.f.priv (lineInstr l 0) (.nop zR) ∧ firstOfPair l 0 = false) ∧
    ({ b0 with agenda := [.event .attgo] } : State).agenda = .event .attgo :: [] ∧ Instr.attgo.parts = none := by
  refine ⟨⟨by decide +kernel, by decide +kernel, by decide +kernel, ⟨by decide +kernel, (issued (by decide +kernel)).iss, by decide +kernel, by decide +kernel,
    by decide +kernel, by decide +kernel⟩, by decide +kernel, by decide +kernel, by decide +kernel, by decide +kernel, by decide +kernel,
    by decide +kernel, by decide +kernel, ⟨by decide +kernel, ?_⟩, by decide +kernel⟩, rfl, rfl⟩
  intro op h
  have e : Op.ofCode (opcodeOf (lineInstr (Memory.readBytes (chosen { b0 with agenda := [] } 0 0 0 false).mem 0x400 64) 0)) = some .nop := by
    decide +kernel
  rw [e] at h
  cases h
  exact ⟨by decide +kernel, by decide +kernel⟩

/-- A line with a given word in slot 0, as bytes. -/
def lineOf (w : BitVec 96) : List Byte := bytesOf 64 (placedLine w)
/-- A line word with a reserved bit, and one that pairs two nops. -/
def marked (x : Nat) : List Byte := bytesOf 64 (placedLine 0x200 + 2 ^ 480 * x)

/-- A wrong parity; a reserved bit of the line word; an illegal pair; halt at level 0; a reserved field; and an atomic whose USE is not
accepted. -/
theorem witness_DecodeTraps :
    (the b0).spec = false ∧ ((the b0).f.pc.extractLsb' 0 3).toNat = 0 ∧ lineReserved (marked (2 ^ 9)) = some 9 ∧
    lineReserved (marked 32) = none ∧ illegalPair (marked 32) 0 = true ∧
    (illegalPair (lineOf 0x390) 0 = false ∧ Op.ofCode (opcodeOf (lineInstr (lineOf 0x38A) 0)) = some .halt ∧ 0 < levelOf .halt) ∧
    (Op.ofCode (opcodeOf (lineInstr (lineOf (2 ^ 88 + 0x200)) 0)) = some .nop ∧ levelOf .nop ≤ 0 ∧
      (match decode (lineInstr (lineOf (2 ^ 88 + 0x200)) 0) with | .reservedField b => decide (b = 88) | _ => false) = true) ∧
    (let w := ((encode (.atom { zM with a := .v 2, b := .none, c := .v 4, width := 2, aop := 0, use := 4, d := .none })).getD 0)
     Op.ofCode (opcodeOf w) = some .atom ∧ useAbsent 0 (formOf Op.atom.fmt w) = true ∧
      (match decode w with | .ok _ => true | _ => false) = true) := by
  refine ⟨?_, ?_, ?_, ?_, ?_, ?_, ?_, ?_⟩ <;> decide +kernel

theorem witness_UnassignedOpcodesTrap : Op.ofCode 0 = none ∧ Op.ofCode 0x3FF = none ∧ Op.ofCode (opcodeOf (0x019 : BitVec 96)) = none ∧
    Issued b0 (the b0) ∧ ((the b0).f.pc.extractLsb' 0 3).toNat ≤ 4 :=
  ⟨by decide, by decide, by decide, issued (by decide +kernel), by decide +kernel⟩

/-- The edges of each step. -/
theorem witness_IgnoredPeriod : ({ b0 with refTime := 100000 } : State).refTime / 100000 ≠ b0.mf.period := by decide +kernel

theorem witness_IgnoredTargets : ∀ x ∈ [(1, 300), (1, 1300), (1, 1250), (2, 700), (2, 2200), (3, 1500), (3, 3100), (0, 400)],
    x.1 < 4 ∧ x.2 < 4096 ∧ (x.2 % 100 ≠ 0 ∨ x.1 = 0 ∨ (x.1 = 1 ∧ ¬(400 ≤ x.2 ∧ x.2 ≤ 1200)) ∨ (x.1 = 2 ∧ ¬(800 ≤ x.2 ∧ x.2 ≤ 2100)) ∨
      (x.1 = 3 ∧ ¬(1600 ≤ x.2 ∧ x.2 ≤ 3000))) := by decide

theorem next_of {o : Host.Outcome State Fault Refusal} (h : (match o with | .next _ => true | _ => false) = true) :
    ∃ t, o = .next t := by
  split at h
  · exact ⟨_, rfl⟩
  · simp at h

theorem witness_MemoryKeepsForm : MemoryOk b0 ∧ ∃ t, step b0 = .next t :=
  ⟨by unfold MemoryOk; decide +kernel, next_of (by decide +kernel)⟩

end Sys2Proof.Tests
end

section
/-!
The reports of the engines (04 R153): what taking a finished operation off its core leaves of the cores and their warps.
-/
open Sys2Proof Sys2Proof.Machine

namespace Sys2Proof.OrderingProofs

/-- A change of every warp with a serial number, as each warp meets it. -/
def onUid (uid : Nat) (f : Warp → Warp) (w : Warp) : Warp := if w.uid == uid then f w else w

/-- Changing the warp of a serial number changes only the warps of a core. -/
theorem core_modUid (s : State) (uid : Nat) (f : Warp → Warp) (c : Nat) :
    (s.modUid uid f).core c = { s.core c with warps := FMap.mapV (s.core c).warps fun _ w => onUid uid f w } := by
  simp only [State.core, State.modUid, FMap.getD, FMap.get_mapV]
  cases FMap.get s.cores c <;> rfl

/-- A warp after the one of a serial number has been changed. -/
theorem warp_modUid (s : State) (uid : Nat) (f : Warp → Warp) (c w : Nat) :
    (s.modUid uid f).warp c w = (s.warp c w).map (onUid uid f) := by
  simp [State.warp, core_modUid, FMap.get_mapV]

/-- Changing the warp of a serial number changes no byte. -/
theorem sameBytes_modUid (s : State) (uid : Nat) (f : Warp → Warp) : SameBytes s (s.modUid uid f) :=
  ⟨fun _ => rfl, fun c a => by rw [core_modUid]⟩

/-- The warp of a core has its serial number there. -/
theorem hasUid_of_warp {s : State} {c w : Nat} {x : Warp} (h : s.warp c w = some x) : s.hasUid x.uid = true := by
  have hx : (w, x) ∈ (s.core c).warps := FMap.get_mem h
  have hc : ∃ k, FMap.get s.cores c = some k ∧ (w, x) ∈ k.warps := by
    unfold State.core FMap.getD at hx
    cases hk : FMap.get s.cores c with
    | none => rw [hk] at hx; cases hx
    | some k => rw [hk] at hx; exact ⟨k, rfl, hx⟩
  obtain ⟨k, hk, hxk⟩ := hc
  simp only [State.hasUid, Bool.or_eq_true, List.any_eq_true]
  exact .inl ⟨(c, k), FMap.get_mem hk, (w, x), hxk, by simp⟩

/-- The state once an operation is off its core and its launch. -/
def offCore (s : State) (c n : Nat) (o : EngineOp) : State :=
  (s.modCore c fun k => { k with ops := FMap.erase k.ops n }).modLaunch o.launch fun l => { l with ops := l.ops - 1 }

@[simp] theorem core_offCore (s : State) (c n : Nat) (o : EngineOp) :
    (offCore s c n o).core c = { s.core c with ops := FMap.erase (s.core c).ops n } :=
  State.core_modCore_self s c fun k => { k with ops := FMap.erase k.ops n }

theorem warp_offCore (s : State) (c n w : Nat) (o : EngineOp) : (offCore s c n o).warp c w = s.warp c w := by
  simp [State.warp]

theorem sameBytes_offCore (s : State) (c n : Nat) (o : EngineOp) : SameBytes s (offCore s c n o) :=
  sameBytes_setCore s c _ rfl

/-- The failures of a warp once an operation of it is reported, as the operation stands when it is closed (02 R81, 04 R153). -/
def failsAfter (o : EngineOp) (l : List EngineFail) : List EngineFail :=
  if o.status.getD 0 != 0 && o.status.getD 0 != 3 then
    l ++ [{ cls := o.cls, seq := o.seq, status := o.status.getD 0, info0 := o.info0, info1 := o.info1 }]
  else l

/-- A warp to which an operation is reported. -/
def told (o : EngineOp) (w : Warp) : Warp := { w with counters := w.counters.finish o.cls, fails := failsAfter o w.fails }

/-- Closing an operation leaves its warp, its class and its number. -/
theorem closed_ids (o : EngineOp) : o.closed.warpUid = o.warpUid ∧ o.closed.cls = o.cls ∧ o.closed.seq = o.seq := by
  unfold EngineOp.closed EngineOp.fail
  split
  · split <;> exact ⟨rfl, rfl, rfl⟩
  · exact ⟨rfl, rfl, rfl⟩

/-- Reporting an operation whose warp is there tells that warp. -/
theorem reportOp_of_hasUid {s : State} {c n : Nat} {o : EngineOp} (h : (offCore s c n o.closed).hasUid o.warpUid = true) :
    s.reportOp c n o = (offCore s c n o.closed).modUid o.warpUid (told o.closed) := by
  rw [← (closed_ids o).1] at h ⊢
  exact if_pos h

/-- An operation of a warp of its core, reported: it is gone, its warp is told, and no byte has changed. -/
theorem reportOp_effect {s : State} {c n w : Nat} {o : EngineOp} {x : Warp} (hw : s.warp c w = some x) (hu : x.uid = o.warpUid) :
    FMap.get ((s.reportOp c n o).core c).ops n = none ∧ (s.reportOp c n o).warp c w = some (told o.closed x) ∧
      SameBytes s (s.reportOp c n o) := by
  have hoff : (offCore s c n o.closed).warp c w = some x := (warp_offCore s c n w o.closed).trans hw
  rw [reportOp_of_hasUid (hu ▸ hasUid_of_warp hoff)]
  obtain ⟨hmem, hpad⟩ := sameBytes_offCore s c n o.closed
  obtain ⟨hmem', hpad'⟩ := sameBytes_modUid (offCore s c n o.closed) o.warpUid (told o.closed)
  refine ⟨?_, ?_, fun a => (hmem' a).trans (hmem a), fun k a => (hpad' k a).trans (hpad k a)⟩
  · rw [core_modUid, core_offCore]
    exact FMap.get_erase_self _ n
  · simp [warp_modUid, hoff, onUid, hu]

/-- An operation that has its status is closed with it. -/
theorem closed_of_status {o : EngineOp} {st : Nat} (h : o.status = some st) : o.closed = o := by
  unfold EngineOp.closed EngineOp.fail
  rw [h]
  split <;> rfl

/-- The failure that a reported operation leaves: its own, or that of the word it dropped at a LOST folio (02 R81). -/
theorem failsAfter_closed (o : EngineOp) (l : List EngineFail) :
    failsAfter o.closed l = match o.status, o.lost with
      | none, none => l
      | none, some (_, h, off) => l ++ [{ cls := o.cls, seq := o.seq, status := 1, info0 := h, info1 := off }]
      | some st, _ => if st = 0 ∨ st = 3 then l
        else l ++ [{ cls := o.cls, seq := o.seq, status := st, info0 := o.info0, info1 := o.info1 }] := by
  cases hs : o.status with
  | none => cases hl : o.lost <;> simp [failsAfter, EngineOp.closed, EngineOp.fail, hs, hl]
  | some st =>
    rw [closed_of_status hs]
    by_cases h0 : st = 0
    · simp [failsAfter, hs, h0]
    · by_cases h3 : st = 3 <;> simp [failsAfter, hs, h0, h3]

/-- An operation that has ended and has no older one before it is reported (04 R153). -/
theorem completeOp_of_ended {s : State} {c n : Nat} {o : EngineOp} (h : FMap.get (s.core c).ops n = some o)
    (hold : s.olderOp o = false) (hend : o.status.isSome = true ∨ o.written = true) : s.completeOp c n = s.reportOp c n o := by
  have : (o.status.isSome || o.written) = true := by simpa using hend
  simp [State.completeOp, h, hold, this]

/-- The completion event of an operation's class completes it: for a remote operation, where no answer is to be taken first. -/
def Completes (o : EngineOp) (core op : Nat) (e : Instr) : Prop :=
  (e = .copyCompletion core op ∧ o.cls = 0 ∧ o.warp ≠ 24) ∨ (e = .stitchCompletion core op ∧ o.cls = 1) ∨
    ∃ r, e = .remoteCompletion core op r ∧ o.cls = 2 ∧ (o.status = none → r.status = 0 ∧ o.needsReply = false)

theorem exec_completion {s : State} {core op : Nat} {o : EngineOp} {e : Instr} (ho : FMap.get (s.core core).ops op = some o)
    (hf : (s.cluster (clusterOf core)).frozen = false) (he : Completes o core op e) :
    exec e s = .next (s.completeOp core op) := by
  rcases he with ⟨rfl, hcls, hwarp⟩ | ⟨rfl, hcls⟩ | ⟨r, rfl, hcls, hreply⟩
  · simp [exec, execCopyCompletion, State.clocked, hf, ho, hcls, hwarp]
  · simp [exec, execStitchCompletion, State.clocked, hf, ho, hcls]
  · cases hs : o.status with
    | some st => simp [exec, execRemoteCompletion, State.clocked, hf, ho, hcls, hs]
    | none =>
      obtain ⟨hr, hn⟩ := hreply hs
      simp [exec, execRemoteCompletion, State.clocked, hf, ho, hcls, hs, hr, hn]

/-- Settles O36: each class's event completes the operation, which is then reported to its warp. -/
theorem enginesReport : Obligations.EnginesReport := by
  intro s core op w o x e ho he hf hold hw hu hend
  obtain ⟨hops, hwarp, hsame⟩ := reportOp_effect (n := op) hw hu
  refine ⟨s.reportOp core op o, told o.closed x, ?_, hops, hwarp, ?_, hsame, failsAfter_closed o x.fails⟩
  · rw [exec_completion ho hf he, completeOp_of_ended ho hold hend]
  · exact congrArg x.counters.finish (closed_ids o).2.1

end Sys2Proof.OrderingProofs
end

section
/-!
The destination of an atomic. The statement lets D be a mask register, s61 to s63, which no encoding of an atomic can name
(10 R313): the value read then takes lanes from the fragment, which traps where the fragment has no convergence record
(05 R172), and the atomic does not complete.
-/
open Sys2Proof Sys2Proof.Machine Sys2Proof.Claims

namespace Sys2Proof.OrderingProofs

/-- A warp of 96 lanes without a convergence record, of which k0 holds lane 0 alone; every v register and all memory below the
code read as zero. -/
def oneLane : State := (State.reset.withFetchWord 96 0x200).modWarp 0 0 fun w => { w with k := [(0, 1)] }

theorem oneLane_isSome : oneLane.iss.isSome = true := by decide +kernel

/-- What issues there. -/
def issuing : Iss := oneLane.iss.get oneLane_isSome

/-- The lanes of k0 add v4 to the 4 bytes at v2:v3, and the value read goes to s61, the mask of lanes 0 to 31. -/
def atomToMask : MForm :=
  { lr := 0, guard := { k := 0, n := false, e := true }, a := .v 2, d := .s 61, space := 0, width := 2, ord := 0, scope := 0
    sx := false, b := .none, c := .v 4, ncls := 0, use := 0, scale := 0, aop := 0, off := 0 }

/-- Lane 0 reads the four bytes at address 0. -/
def zeroOuts : List (Nat × LaneOut) :=
  [(0, .go [{ loc := .global 0, bytes := 4, dirty := [], plc := 0, die := 0, backed := false }])]

theorem issued_oneLane : Issued oneLane issuing :=
  ⟨(Option.some_get oneLane_isSome).symm, by decide +kernel, by decide +kernel, by decide +kernel, by decide +kernel,
    by decide +kernel⟩

theorem probes_atomToMask :
    oneLane.probes issuing atomToMask .atomic 4 (issuing.active atomToMask.guard) = zeroOuts := by decide +kernel

theorem granted_zeroOuts : Granted zeroOuts := by
  intro o ho
  obtain rfl := List.mem_singleton.mp ho
  exact .inl ⟨_, rfl⟩

theorem free_zeroOuts : Free oneLane issuing .atomic none zeroOuts where
  lines := by decide +kernel
  grant := by decide +kernel
  quanta := by
    have hq : issuing.w.quanta = [] := by decide +kernel
    simp [hq]

theorem roomFor_oneLane : roomFor issuing 1 := by
  have h : (issuing.wg.all fun g => decide (issuing.w.v.length + 1 ≤ g.live)) = true := by decide +kernel
  intro g hg
  simpa [hg] using h

/-- Whether a fragment issues in the state that an answer leaves. -/
def leavesIssuing (a : Answer State) : Bool :=
  match a with
  | .next t => t.iss.isSome
  | _ => false

/-- The value read, 0, would take lanes 0 to 31 from a fragment that has no record for them to arrive at: the atomic traps, and
with no handler set the trap ends the warp. -/
theorem atomToMask_traps : leavesIssuing (exec (.atom atomToMask) oneLane) = false := by decide +kernel

/-- Refutes O9: its first conjunct holds of every destination, a mask register among them. With D = s61 the write of the value
read traps, so no fragment goes on to the next slot. -/
theorem not_atomicCompletes : ¬ Obligations.AtomicCompletes := by
  rintro ⟨hacts, -⟩
  have h := hacts oneLane issuing atomToMask issued_oneLane (fun hrel => absurd hrel (by decide)) (by decide)
  have houts : oneLane.probes issuing atomToMask .atomic (if atomToMask.aop = 7 then 2 * atomToMask.bytes else atomToMask.bytes)
    (issuing.active atomToMask.guard) = zeroOuts := probes_atomToMask
  simp only [houts] at h
  obtain ⟨t, j, hexec, ⟨hiss, -⟩, -⟩ := h granted_zeroOuts free_zeroOuts (by decide +kernel) roomFor_oneLane
  have hstop := atomToMask_traps
  rw [hexec] at hstop
  simp [leavesIssuing, hiss] at hstop

end Sys2Proof.OrderingProofs
end
